-- ==== Sys2Proof/Word.lean ====
section
/-! DEFINITION. Words, bytes and the sparse tables that every memory and every bank of units is held in. -/

namespace Sys2Proof

/-- A register word (R13). -/
abbrev Word := BitVec 32

/-- The smallest addressable unit of the device's memories. -/
abbrev Byte := BitVec 8

/-- A string of octets, first octet first (frames, images, records). -/
abbrev Bytes := List Byte

/-- A table over the natural numbers that lists only the keys whose value differs from the table's
default: keys strictly rising, no listed value equal to the default of its key. -/
abbrev Sparse (α : Type) := List (Nat × α)

/-- A byte-addressed memory: a sparse table of bytes (Host.Cell pairs). -/
abbrev Mem := Sparse Byte

/-- Bit `i` of a number, as a number. -/
def bitN (n i : Nat) : Nat := n / 2 ^ i % 2

/-- Bits `[lo + w - 1 : lo]` of a number. -/
def bitsN (n lo w : Nat) : Nat := n / 2 ^ lo % 2 ^ w

/-- `n` with bits `[lo + w - 1 : lo]` replaced by the low `w` bits of `v`. -/
def setBitsN (n lo w v : Nat) : Nat :=
  n / 2 ^ (lo + w) * 2 ^ (lo + w) + v % 2 ^ w * 2 ^ lo + n % 2 ^ lo

/-- One bit of a flag, as a number. -/
def b2n (b : Bool) : Nat := if b then 1 else 0

/-- The two's-complement reading of the low `w` bits of a number. -/
def signedN (w n : Nat) : Int :=
  if n % 2 ^ w < 2 ^ (w - 1) then (n % 2 ^ w : Nat) else (n % 2 ^ w : Nat) - (2 ^ w : Nat)

/-- The low `w` bits of an integer, as a number. -/
def unsignedN (w : Nat) (z : Int) : Nat := (z % ((2 ^ w : Nat) : Int)).toNat

end Sys2Proof
end

