-- ==== Sys2Proof/Syntax.lean ====
section
/-! DEFINITION. The commands of the block: one constructor of Instr per row of the spec's table of
operations and events, with the data that reaches the device with it. -/

namespace Sys2Proof

/-- The access paths of Table 2.1. -/
inductive Path where
  | internal | pcie | spi | nmgt | twin
  deriving DecidableEq, Repr

/-- The path code of Table 2.1. -/
def Path.code : Path → Nat
  | .internal => 0 | .pcie => 1 | .spi => 2 | .nmgt => 3 | .twin => 4

/-- Where a host access goes: a fabric address, or through the PCIe endpoint an offset of BAR0 or of BAR2 (R36), or the Message Control word of
its MSI-X capability (R49). -/
inductive HostAddr where
  | fabric (a : Nat)
  | bar0 (off : Nat)
  | bar2 (off : Nat)
  | msixControl
  deriving DecidableEq, Repr

/-- The stages of Table 3.5 that switch after the ingest stage. -/
inductive Stage where
  | jobs (depth : Fin 16)
  | egress (depth : Fin 16)
  deriving DecidableEq, Repr

/-- A job instance: of the live graph, or of the old graph while a drain runs (R71). -/
structure JobRef where
  old : Bool
  j : Fin 40960
  deriving DecidableEq, Repr

/-- What SECDED ECC found in a 64-bit word (R382, R383). -/
inductive Ecc where
  | clean | corrected | uncorrectable
  deriving DecidableEq, Repr

/-- The preamble of a bi-phase subframe (R178). -/
inductive Preamble where
  | x | y | z | bad
  deriving DecidableEq, Repr

/-- One decoded bi-phase subframe (R178): preamble, audio bits 4 to 27, V, U, C and P, and whether a
bi-phase violation was seen in it. -/
structure Subframe where
  pre : Preamble
  audio : BitVec 24
  v : Bool
  u : Bool
  c : Bool
  p : Bool
  violation : Bool
  deriving DecidableEq, Repr

/-- A received Sync or Follow_Up (R257): source port identity (clock identity × 65,536 + port number), sequence number, two-step flag, the
origin timestamp and the total correction in ns, the ingress timestamp in ns, and whether it came over UDP/IPv4. -/
structure SyncMsg where
  domain : Nat
  source : Nat
  seq : Nat
  twoStep : Bool
  origin : Int
  correction : Int
  ingress : Int
  udp : Bool
  deriving DecidableEq, Repr

/-- A received Announce (R253, R259): `path` is whether its path trace names the device, `udp` whether it came over UDP/IPv4. -/
structure AnnounceMsg where
  domain : Nat
  source : Nat
  gmId : Nat
  gmQuality : Nat
  gmVariance : Nat
  prio1 : Nat
  prio2 : Nat
  steps : Nat
  path : Bool
  udp : Bool
  deriving DecidableEq, Repr

/-- A delay message (R254, R257): domain, the port identity that sent it, its sequence number, of a response the port identity it answers, the two
timestamps in ns that go with it (remote, local), corrections included, and whether it came over UDP/IPv4. -/
structure DelayMsg where
  domain : Nat
  source : Nat
  seq : Nat
  answers : Nat
  remote : Int
  localTs : Int
  udp : Bool
  deriving DecidableEq, Repr

/-- What the twin says of itself when the link comes up (R293). -/
structure PeerId where
  siRev : BitVec 8
  devRev : Word
  image : List Word
  pairId : Nat
  posA : Bool
  deriving DecidableEq, Repr

/-- A twin-link heartbeat (R310). -/
structure Heartbeat where
  block : Nat
  feed : Word
  role : Fin 8
  drive : Bool
  relinquish : Bool
  deriving DecidableEq, Repr

/-- A slot of another chip as the state copy carries it (R64, R326). -/
structure SlotCopy where
  slot : Fin 32
  tl : Nat
  addr : Word
  data : Word
  type : Fin 16
  path : Fin 16
  deriving DecidableEq, Repr

/-- The state of one asynchronous converter channel (Table 11.3, R306): channel (egress: + 2,048), ratio and phase estimate, locked. -/
structure ConvCopy where
  ch : Nat
  ratio : Word
  phase : Word
  lock : Bool
  deriving DecidableEq, Repr

/-- The state fields of a block message (Table 11.3), from the leader. Position in time; converters; PTP: servo terms, time at the boundary, port
state, parent; the selection state of R287: active candidate, service, wait timers, disqualifications, guarded history and the phase that
the DPLL takes as zero; for the mirrored inputs, concealment and taint of each channel; and the instances whose state the leader sends in the next
block (R306). -/
structure LeadMsg where
  tlOfs : Int
  mirrorSeq : Nat
  convs : List ConvCopy
  servoI : Int
  adj : Int
  ptpTime : Int
  ptpState : Fin 8
  parent : Nat
  act : Fin 8
  svc : Fin 4
  waits : List (Option Nat)
  disq : List Bool
  guarded : Option (Int × Int × Int)
  phase : Option Int
  concealed : List Bool
  taint : List Bool
  slice : List Nat
  deriving DecidableEq, Repr

/-- The banks that a chip asks its leader to copy (R303, R305): none, the latent one, or first the active one. -/
inductive Banks where
  | none | latent | both
  deriving DecidableEq, Repr

/-- What a chip asks of its leader (R305, R306, R308, R326): to take over TL and slots; the number of the copy under way; the banks it lacks; and
whether the last slice is installed. -/
structure Ask where
  takeover : Bool
  copy : Option Nat
  banks : Banks
  installed : Bool
  deriving DecidableEq, Repr

/-- A block message (R296, R302, R303): the sender's block number; the state fields, from a leader; its output quality and whether it follows
candidate 7 (R262, R264); its digests at the boundary; and what it asks. -/
structure BlockMsg where
  block : Nat
  lead : Option LeadMsg
  outQuality : Nat
  twinOnCand7 : Bool
  cda : BitVec 64
  cdl : BitVec 64
  ask : Ask
  deriving DecidableEq, Repr

/-- A write request to a register, a parameter window or shared memory. -/
inductive WriteReq where
  | reg (addr : Nat) (value : Word)
  | latent (off : Nat) (data : List (Option Byte))
  | direct (off : Nat) (data : List (Option Byte))
  | memory (addr : Nat) (data : List (Option Byte))
  deriving DecidableEq, Repr

/-! The state of a stock instance. The spec leaves its layout in the state area open (log entry 15), so the state copy of
R306 carries it in this form. -/

/-- A gain point (R150): its position, and the samples since its last step or since its target became unequal. -/
structure Pt where
  pos : Nat
  age : Nat
  deriving DecidableEq, Repr

/-- One route of a stage of a bus: a source of an XMIX, or a destination entry of a DLY with what R162 names. -/
structure RouteE where
  key : Nat
  tap : Nat
  inv : Bool
  live : Bool
  deriving DecidableEq, Repr

/-- A crossfade in progress (R162): its length, the TL of its first sample, the old route. -/
structure XfadeSt where
  len : Nat
  start : Nat
  route : List RouteE
  deriving DecidableEq, Repr

/-- A biquad section's state (R155). -/
structure BqSec where
  x1 : Word
  x2 : Word
  y1 : Word
  y2 : Word
  e : Word
  deriving DecidableEq, Repr

/-- What a stock instance keeps for one bus: the route in use, its crossfade, its gain points, its scale point,
the last unscaled sum, the last tap signals, its biquad sections. -/
structure BusSt where
  route : Option (List RouteE)
  xf : Option XfadeSt
  pts : Sparse (Option Pt)
  scale : Option Pt
  prevSum : Int
  prev : Sparse Word
  bq : Sparse BqSec
  deriving DecidableEq, Repr

/-- The state of a stock instance (the spec leaves its layout in the state area open, log entry 15): its busses, the last sample of each
source. -/
structure StockSt where
  busses : Sparse BusSt
  prevX : Sparse Word
  deriving DecidableEq, Repr, Inhabited

/-- The state of one instance in a slice of the state copy (R306): its current half and parity, and of a stock instance its
state. -/
structure InstCopy where
  j : Fin 40960
  half : Bytes
  parity : Bool
  stock : Option StockSt
  deriving DecidableEq, Repr

/-- One power stage channel as the leader sends it at the rejoin boundary (R341): state, samples since its ramp began, gain in
effect at the start of a stop as a fraction, and its window of limit periods, newest first. -/
structure ChanCopy where
  ch : Fin 32
  state : Fin 8
  ramp : Nat
  gn : Nat
  gd : Nat
  win : List Bool
  deriving DecidableEq, Repr

/-- One presented beat of the fabric (R370, R376): the master, the address, the deadline and the cycle
at which it was presented, what it does, and what ECC finds in the words it touches. -/
structure Beat where
  master : Fin 24
  addr : Nat
  deadline : BitVec 24
  presented : Nat
  path : Path
  write : Option (List (Option Byte))
  lockStart : Bool
  lockEnd : Bool
  ecc : List Ecc
  deriving DecidableEq, Repr

/-- The power domains that a fence can power down (Table 16.7). -/
inductive Domain where
  | flock (f : Fin 16)
  | audio
  | eth (p : Fin 4)
  | twl
  deriving DecidableEq, Repr

/-- The monitored rails (R413). -/
inductive Rail where
  | core | mem
  deriving DecidableEq, Repr

/-- One command of the block. The docstrings name the row's rule. -/
inductive Instr where
  -- control pages and host access
  | registerWrite (path : Path) (addr : HostAddr) (size : Nat) (value : Word)
  | loReadCapture (path : Path) (addr : HostAddr) (size : Nat)
  | hiWriteApply (path : Path) (addr : HostAddr) (value : Word)
  | contactSheetRead (path : Path) (whole : Bool)
  | latentWindowWrite (path : Path) (off : Nat) (data : List (Option Byte))
  | directClassWrite (path : Path) (off : Nat) (data : List (Option Byte))
  | direct
  | writeWords (addr : Nat) (words : List Word) (cutBits : Fin 32)
  | readWords (addr : Nat) (late : List Bool)
  | quadWriteWords (addr : Nat) (words : List Word) (cutBits : Fin 32)
  | quadReadWords (addr : Nat) (late : List Bool)
  | readSlaveStatus
  | chipSelectRise
  | mgmtRequest (mac : Nat) (vid : Nat) (payload : Bytes)
  | hstNkey0Write (path : Path) (value : Word)
  | hstNkey7Write (path : Path) (value : Word)
  | pageKeyWrite (path : Path) (page : Fin 128) (value : Word)
  | pageKeyTimeout (page : Fin 128)
  | softReset (path : Path) (page : Fin 128)
  | freeze (path : Path) (page : Fin 128) (on : Bool)
  | evtPendClear (path : Path) (page : Fin 128) (value : Word) (fresh : Word)
  | msixUnmask (vector : Fin 32)
  | devWdtCtrlWrite (path : Path) (value : Word)
  | wdtKick (path : Path) (value : Word)
  | wdtWarn
  | wdtExpire
  -- timeline
  | samplePeriod (ptpAdvance : Nat)
  | blockBoundary
  | actArm (path : Path) (slot : Fin 32) (value : Word)
  | actCancel (path : Path) (slot : Fin 32) (value : Word)
  | developCheckDone
  | develop
  | timedWrite (slot : Fin 32)
  | timer (slot : Fin 32)
  | stageSwitch (stage : Stage)
  | drainEnd
  | refill (path : Path) (value : Word)
  | refillDone
  -- jobs and hens
  | jobRelease (job : JobRef)
  | runAhead (job : JobRef)
  | jobStart (hen : Fin 256)
  | steal (hen : Fin 256)
  | runEnd (hen : Fin 256)
  | late (job : JobRef)
  | henEccError (hen : Fin 256)
  | abandon (job : JobRef)
  | flockGateRequest (path : Path) (flock : Fin 16)
  | flockUngate (path : Path) (flock : Fin 16)
  | ungated (flock : Fin 16)
  | schEnableWrite (path : Path) (value : Word)
  | wordIssue (hen : Fin 256)
  | deadlineAlarm (hen : Fin 256)
  | doorbell (hen : Fin 256) (debug : Bool)
  | interruptEntry (hen : Fin 256)
  -- mixer and converters
  | crossfadeEnd (bus : Fin 1024)
  | mixMtrClr (path : Path) (value : Word)
  | locked (conv : Fin 256) (ratio : Word)
  | lockLost (conv : Fin 256) (outOfRange : Bool)
  -- serial ports
  | serialFrame (group : Fin 8) (bits : List (List Bool)) (bclks : Nat)
  | biphaseFrame (group : Fin 8) (lane : Fin 8) (sub1 : Subframe) (sub2 : Subframe)
  | laneLock (group : Fin 8) (lane : Fin 8)
  | csNew (group : Fin 8) (lane : Fin 8)
  | fwinWindowEnd (group : Fin 8) (mediaCycles : Nat)
  | clkLost (group : Fin 8)
  | clkOk (group : Fin 8)
  | sapgApply (path : Path) (group : Fin 8)
  | applied (group : Fin 8)
  | slip (group : Fin 8)
  | sapgEnableWrite (path : Path) (group : Fin 8) (value : Word)
  -- Ethernet and bridge
  | linkUp (port : Fin 4) (full : Bool)
  | linkDown (port : Fin 4)
  | ethEnableWrite (path : Path) (port : Fin 4) (value : Word)
  | frameReceive (port : Fin 4) (frame : Bytes) (ts : Nat)
  | frameTransmit (port : Fin 5) (ts : Nat)
  | addressAgeOut (index : Fin 4096)
  | atuReadIndex (path : Path)
  | atuWriteStatic (path : Path)
  | atuDeleteKey (path : Path)
  | atuLookupKey (path : Path)
  | atuFlushDynamic (path : Path) (ports : BitVec 5)
  | ringCheckReceive (port : Fin 4) (mac : Nat) (seq : Word)
  | ringOpen (net : Fin 2)
  | ringChangeReceive (port : Fin 4) (mac : Nat) (seq : Word)
  | pauseReceive (port : Fin 4) (quanta : Fin 65536)
  | pauseEnd (port : Fin 4)
  | pauseBroken (port : Fin 4)
  | holdEnd (port : Fin 4)
  | mdioAddress (path : Path) (phy : Fin 32) (dev : Fin 32)
  | mdioWrite (path : Path) (cl45 : Bool) (phy : Fin 32) (reg : Fin 32)
  | mdioRead (path : Path) (cl45 : Bool) (phy : Fin 32) (reg : Fin 32)
  | mdioReadInc (path : Path) (phy : Fin 32) (dev : Fin 32)
  | mdioDone (answer : Option (BitVec 16))
  -- streams
  | copyReceive (port : Fin 4) (frame : Bytes)
  | underrun (stream : Fin 256)
  | playoutDeadline
  | srcLost (stream : Fin 256)
  | streamPacketQueue (stream : Fin 128)
  | strxApply (path : Path)
  | sttxApply (path : Path)
  | streamApplied (transmit : Bool)
  -- network time, references, holdover
  | sync (port : Fin 4) (m : SyncMsg)
  | followUp (port : Fin 4) (m : SyncMsg)
  | announce (port : Fin 4) (m : AnnounceMsg)
  | delayReq (port : Fin 4) (m : DelayMsg)
  | delayResp (port : Fin 4) (m : DelayMsg)
  | pdelayReq (port : Fin 4) (m : DelayMsg)
  | pdelayResp (port : Fin 4) (m : DelayMsg)
  | pdelayRespFollowUp (port : Fin 4) (m : DelayMsg)
  | syncSend
  | announceSend
  | delayReqSend (port : Fin 4)
  | ptpLocked
  | masterLost
  | ptpTodWrite (path : Path) (value : Word)
  | todApply
  | ptpConfigApply
  | candChange (cand : Fin 8) (present : Bool)
  | switchDone
  | switchFail
  | wtrEnd (cand : Fin 8)
  | freqMeasure (averages : List Int) (temperature : Int)
  | holdoverUpdate (temperature : Int)
  | ageUpd
  | specEnd
  | serviceChange
  | apllLost
  | apllRelock
  -- twin
  | twinLinkUp (peer : PeerId)
  | twinLinkDown
  | laneFail
  | heartbeatSend
  | twinHeartbeat (hb : Heartbeat)
  | hbSilence
  | hbStall
  | netHeartbeat (port : Fin 4) (payload : Bytes)
  | nhbMiss
  | blockMessageSend
  | blockMessage (m : BlockMsg)
  | blockMessageMissed
  | mirroredWrite (seq : Nat) (req : WriteReq) (boundary : Nat)
  | mirrorWriteRelease
  | mirrorBlock (block : Nat) (samples : List Word) (concealed : List Bool) (taint : List Bool)
  | mirrorBlockMissed
  | digestReceive (block : Nat) (taint : Option (List Bool)) (digest : Option (BitVec 64))
  | resync (path : Path) (value : Word)
  | bankCopyDone (latent : Bool) (bytes : Mem) (boundary : Nat)
  | sliceInstall (convs : List ConvCopy) (insts : List InstCopy) (last : Bool)
  | resyncDone (channels : List ChanCopy)
  | driveBoundary
  | driveInChange (level : Bool)
  | feedLost
  | relinquish (path : Path) (value : Word)
  | relinquishToFollower
  | relinquishWitnessExpire
  | leadership
  | orphan
  | joinTakeover (tl : Nat) (ofs : Int) (slots : List SlotCopy)
  -- power stages
  | sampleFeed
  | periodBoundary (ch : Fin 32) (psocA : Bool) (psocB : Bool)
  | trip (ch : Fin 32)
  | psocRise (ch : Fin 32) (legB : Bool)
  | channelStart (ch : Fin 32)
  | diagStep (ch : Fin 32) (psocA : Bool) (psocB : Bool) (sense : BitVec 12)
  | rampStart (ch : Fin 32)
  | rampEnd (ch : Fin 32)
  | channelStop (ch : Fin 32)
  | stopEnd (ch : Fin 32)
  | feedStall
  | unmute
  | restart (path : Path) (ch : Fin 32)
  | diag (path : Path) (ch : Fin 32)
  | psEnableWrite (path : Path) (ctl : Fin 4) (value : Word)
  | psmBandWrite (path : Path) (band : Fin 4) (second : Bool) (value : Word)
  | railConversion (rail : Fin 8) (code : BitVec 12)
  -- mules
  | muleStart (path : Path) (mule : Fin 96)
  | muleStop (path : Path) (mule : Fin 96)
  | moveLinear (mule : Fin 96)
  | moveI2p (mule : Fin 96)
  | moveP2i (mule : Fin 96)
  | moveTranspose (mule : Fin 96)
  | muleLoop (mule : Fin 96)
  | waitBlock (mule : Fin 96)
  | waitTl (mule : Fin 96)
  | waitFlag (mule : Fin 96)
  | signalFlag (mule : Fin 96)
  | signalEvent (mule : Fin 96)
  | signalRelease (mule : Fin 96)
  | muleJump (mule : Fin 96)
  | muleEnd (mule : Fin 96)
  | muleIllegal (mule : Fin 96) (served : Option JobRef)
  | runaway (mule : Fin 96) (served : Option JobRef)
  | muleTimeout (mule : Fin 96) (addr : Word) (acked : Nat) (tail : BitVec 7) (served : Option JobRef)
  | busErr (mule : Fin 96) (addr : Word) (acked : Nat) (tail : BitVec 7) (served : Option JobRef)
  | muleRestart (mule : Fin 96)
  | mulHflagSet (path : Path) (page : Fin 12) (value : Word)
  | mulHflagClr (path : Path) (page : Fin 12) (value : Word) (signalled : Word)
  | fenceTimeout (domain : Domain)
  | domainPowerDown (domain : Domain)
  -- fabric and memory
  | beatGrant (target : Fin 64) (now : Nat) (beats : List Beat)
  | lockBreak (bank : Fin 32) (held : Nat)
  | ceWriteback (addr : Nat)
  | scrubLine (mem : Fin 3) (addr : Nat) (found : List Ecc)
  | prio (path : Path) (value : Word)
  | prioDone (ce : Nat) (ue : Nat)
  -- the Loupe
  | lpPowerOn (jedec : Option (Fin 256)) (calEn : Bool)
  | lpVddLoss
  | lpReset
  | lpFrame (x0 : BitVec 24) (x1 : BitVec 24)
  | lafUpdate
  | intervalEnd (badProgram : Fin 5)
  | lpId
  | lpTime
  | lpHead
  | lpRead (s : Nat) (n : Nat)
  | lpLive
  | setTime (calEn : Bool) (y : Nat) (mo : Nat) (d : Nat) (h : Nat) (mi : Nat) (sec : Nat)
  | lpTrim (calEn : Bool) (v : Int)
  | lpCal (calEn : Bool) (k : Fin 2) (level : Int) (vddLow : Bool)
  | calDone (vddLow : Bool)
  | calEnFall
  | lpOffset (calEn : Bool) (k : Fin 2) (v : Int) (vddLow : Bool)
  | lpAlert (calEn : Bool) (q : Nat) (l : Nat) (h : Nat)
  | logSec (calEn : Bool) (on : Bool)
  | lpKey (calEn : Bool) (words : List Word) (vddLow : Bool)
  | lpmReqGo (path : Path) (value : Word)
  | reqDone
  -- supplies, reset, boot, modes
  | powerOnReset (posA : Bool) (ioa3v3 : Bool)
  | brownOut (rail : Rail) (mv : Nat)
  | resetN (low100ns : Nat) (posA : Bool)
  | device (path : Path)
  | functionLevelReset
  | railBelowWarning (rail : Rail) (mv : Nat)
  | boWarn (rail : Rail) (mv : Nat) (least : Nat) (samples : Nat)
  | dipScrub
  | dipRelinquish
  | dipQuiesce
  | bootSearch (flash0 : Option Bytes) (flash1 : Option Bytes)
  | push (path : Path)
  | bootComplete
  | modeReqStandalone (path : Path)
  | modeReqLeader (path : Path)
  | modeReqFollower (path : Path)
  | modeReqQuiesce (path : Path)
  | modeReqReturn (path : Path) (target : Fin 8)
  | modeReqDark (path : Path) (wakePin : Bool)
  | modeReqCommission (path : Path)
  | changed
  | darkEntry
  | wakePin
  | loupeAlarm
  | audioReady
  | prog (path : Path)
  | fuseDone
  | fuseHoldTimeout
  | twlOff (path : Path) (value : Word)
  | hotReset (lanes : Nat) (gen : Nat)
  | pcieLinkDown
  | laneReturn
  | lpVbatLoss
  | anFail (port : Fin 4)
  | biphaseOutputFrame (group : Fin 8) (lane : Fin 8)
  deriving DecidableEq, Repr

end Sys2Proof
end

