-- ==== Sys2Proof/Config.lean ====
section
/-! DEFINITION. What the spec leaves open, as constants without a body: nothing in Lean can see a value of
one, so what is proved holds whatever they are (log entry 4). Each is applied to the operands it may depend
on, or to the counter `freeCtr` of the state where the spec ties it to nothing. -/

namespace Sys2Proof.Config

/-- A free word. -/
opaque freeWord : Nat → BitVec 32

/-- A free number below its second argument (0 where that is 0). -/
opaque freeNat : Nat → Nat

/-- A free integer. -/
opaque freeInt : Nat → Int

/-- A free truth value. -/
opaque freeBool : Nat → Bool

/-- The hash that places an address table key, 2^12 × MAC + VID, in a bucket (R211); taken modulo 1,024. -/
opaque atuHash : Nat → Nat

/-- The Loupe's serial number, in its fuses (LPM_UID). -/
opaque lpUid : Nat

/-- The version of the Loupe's mask ROM (LPM_VER, R389). -/
opaque lpVer : Nat

/-- A byte of the boot ROM by its offset (R371; log entry 12). -/
opaque bootRom : Nat → BitVec 8

/-- Which of the mules 80 to 87 writes a bus's delay or FIR history line (R352), taken modulo 8. -/
opaque lineMule : Nat → Nat

/-- The proportional gain of the clean-up DPLL in 2^-16 per second, by REF_DPLL.BW: the spec gives a bandwidth and a damping factor of 1, and no
gain (R285; log entry 48). -/
opaque loopGain : Nat → Nat

/-- A free byte, by the counter value it was taken with and its place. -/
opaque freeByte : Nat → Nat → Byte

/-- A byte of a stock program's image, by class and offset: the image comes with the boot image (Table 4.3), and its words are no part of the spec. -/
opaque stockImage : Nat → Nat → Byte

/-- A byte of the state area that holds a stock instance's state (log entry 15). -/
opaque stockByte : StockSt → Nat → Byte

/-- The state that a stock program reads in a state area which it has not itself written (R88; log entry 15). -/
opaque stockState : Bytes → StockSt

/-- A byte of the parameters that the device gathers for a stock run (R144), by class, the bytes gathered and the place: which byte goes where is
open. -/
opaque stockParam : Nat → Bytes → Nat → Byte

end Sys2Proof.Config
end

