-- ==== Sys2Proof/Machine/RegTable.lean ====
section
/-! DEFINITION. The registers of the control pages: for every page of Table 2.5 its registers with their
fields, access codes (Table 0.4), reset values and legal values, written from the register tables of the
chapters, and the fabric address of each register under its own name. -/

namespace Sys2Proof.Machine

/-- The access codes of Table 0.4 that occur; `cnt` is RO for a counter that counts since power-on (Table 16.3). -/
inductive Acc where
  | rw | ro | wo | sc | rwb | cnt
  deriving DecidableEq, Repr

/-- The legal values of a field; every other value is a reserved encoding (R16). -/
inductive Legal where
  | any
  | range (lo hi : Nat)
  | srange (lo hi : Int)
  | zeroOr (lo hi : Nat)
  deriving DecidableEq, Repr

/-- One field: lowest bit, width, access code, reset value, legal values, schedulable (R62). -/
structure Fld where
  lo : Nat
  w : Nat
  acc : Acc
  rst : Nat
  legal : Legal
  sched : Bool
  deriving DecidableEq, Repr

/-- One register or array of registers: page offset, dimensions (count, stride) of an array, fields,
whether a write is protected by the page key (R51), and whether a write outside COMMISSION is refused
with code 0x05. -/
structure RegDesc where
  off : Nat
  dims : List (Nat × Nat)
  flds : List Fld
  prot : Bool
  com : Bool
  deriving DecidableEq, Repr

/-- Whether `v` is a legal value of a field of `w` bits. -/
def Legal.ok : Legal → Nat → Nat → Bool
  | .any, _, _ => true
  | .range lo hi, _, v => decide (lo ≤ v) && decide (v ≤ hi)
  | .srange lo hi, w, v => decide (lo ≤ signedN w v) && decide (signedN w v ≤ hi)
  | .zeroOr lo hi, _, v => v == 0 || (decide (lo ≤ v) && decide (v ≤ hi))

/-- Registers of page DEV beside the header (chapter 02). -/
def regsDEV : List RegDesc :=
  [ ⟨0x040, [], [⟨0, 32, .ro, 0x4B5A2048, .any, false⟩], false, false⟩,  -- DEV_ID
  ⟨0x044, [], [⟨0, 8, .ro, 0xA1, .any, false⟩, ⟨8, 16, .ro, 0x0100, .any, false⟩], false, false⟩,  -- DEV_REV
  ⟨0x080, [(16, 4)], [⟨0, 32, .ro, 0, .any, false⟩], false, false⟩,  -- DEV_CS
  ⟨0x0C0, [], [⟨0, 1, .rw, 0, .any, false⟩, ⟨1, 3, .rw, 0, .range 0 3, false⟩, ⟨8, 24, .rw, 12000, .range 12 1200000, false⟩], true, false⟩,  -- DEV_WDT_CTRL
  ⟨0x0C4, [], [⟨0, 32, .wo, 0, .any, false⟩], false, false⟩ ]  -- DEV_WDT_KICK

/-- Registers of page HST beside the header (chapter 02). -/
def regsHST : List RegDesc :=
  [ ⟨0x040, [], [⟨0, 4, .rw, 1, .any, false⟩], false, false⟩,  -- HST_BAR2_BASE
  ⟨0x044, [], [⟨0, 6, .rw, 16, .range 8 32, false⟩], false, false⟩,  -- HST_QSPI_CFG
  ⟨0x048, [], [⟨0, 1, .rw, 0, .any, false⟩, ⟨1, 1, .ro, 0, .any, false⟩, ⟨4, 12, .rw, 1, .any, false⟩], false, false⟩,  -- HST_NMGT_CFG
  ⟨0x04C, [], [⟨0, 32, .ro, 0, .any, false⟩], false, false⟩,  -- HST_WERR_ADDR
  ⟨0x050, [], [⟨0, 32, .cnt, 0, .any, false⟩], false, false⟩,  -- HST_NMGT_DROP
  ⟨0x058, [], [⟨0, 32, .ro, 0, .any, false⟩], false, false⟩,  -- HST_NMGT_SEQ_LO
  ⟨0x05C, [], [⟨0, 32, .ro, 0, .any, false⟩], false, false⟩,  -- HST_NMGT_SEQ_HI
  ⟨0x060, [(8, 4)], [⟨0, 32, .wo, 0, .any, false⟩], false, false⟩ ]  -- HST_NKEY

/-- Registers of page IRQ beside the header (chapter 02). -/
def regsIRQ : List RegDesc :=
  [ ⟨0x040, [], [⟨0, 1, .rw, 0, .any, false⟩, ⟨1, 1, .rw, 0, .any, false⟩], false, false⟩,  -- IRQ_CFG
  ⟨0x080, [(4, 4)], [⟨0, 32, .ro, 0, .any, false⟩], false, false⟩,  -- IRQ_SUM0
  ⟨0x090, [(4, 4)], [⟨0, 32, .ro, 0, .any, false⟩], false, false⟩ ]  -- IRQ_SUM1

/-- Registers of page ELOG beside the header (chapter 02). -/
def regsELOG : List RegDesc :=
  [ ⟨0x040, [], [⟨0, 32, .ro, 0, .any, false⟩], false, false⟩,  -- ELOG_HEAD
  ⟨0x100, [(512, 4)], [⟨0, 32, .ro, 0, .any, false⟩], false, false⟩ ]  -- ELOG_REC

/-- Registers of page PWR beside the header (chapter 16). -/
def regsPWR : List RegDesc :=
  [ ⟨0x040, [], [⟨0, 1, .ro, 0, .any, false⟩, ⟨1, 1, .ro, 0, .any, false⟩, ⟨4, 1, .ro, 0, .any, false⟩], false, false⟩,  -- PWR_RAIL_STAT
  ⟨0x044, [], [⟨0, 10, .rw, 750, .range 720 800, false⟩], true, true⟩,  -- PWR_MON_CFG
  ⟨0x048, [], [⟨0, 10, .ro, 0, .any, false⟩, ⟨16, 10, .ro, 0, .any, false⟩], false, false⟩,  -- PWR_MON_V
  ⟨0x04C, [], [⟨0, 32, .ro, 0, .any, false⟩], false, false⟩,  -- PWR_BO
  ⟨0x050, [], [⟨0, 32, .cnt, 0, .any, false⟩], false, false⟩,  -- PWR_BO_CNT
  ⟨0x054, [], [⟨0, 4, .ro, 0, .any, false⟩], false, false⟩,  -- PWR_RST_CAUSE
  ⟨0x058, [], [⟨0, 1, .sc, 0, .any, false⟩], true, false⟩,  -- PWR_RST_CMD
  ⟨0x05C, [], [⟨0, 4, .ro, 0, .any, false⟩, ⟨8, 2, .ro, 0, .any, false⟩, ⟨12, 1, .ro, 0, .any, false⟩, ⟨13, 1, .ro, 0, .any, false⟩], false, false⟩,  -- PWR_BOOT_STAT
  ⟨0x060, [], [⟨0, 1, .sc, 0, .any, false⟩], false, false⟩,  -- PWR_BOOT_CTRL
  ⟨0x064, [], [⟨0, 32, .ro, 0, .any, false⟩], false, false⟩,  -- PWR_BOOT_VER
  ⟨0x068, [], [⟨0, 10, .rw, 100, .range 10 1000, false⟩], false, false⟩,  -- PWR_FENCE_TMO
  ⟨0x06C, [], [⟨0, 16, .ro, 0, .any, false⟩, ⟨16, 4, .ro, 0, .any, false⟩, ⟨20, 1, .ro, 0, .any, false⟩, ⟨21, 1, .ro, 0, .any, false⟩], false, false⟩,  -- PWR_DOM_STAT
  ⟨0x070, [], [⟨0, 1, .rw, 0, .any, false⟩], false, false⟩,  -- PWR_DOM_CTRL
  ⟨0x074, [], [⟨0, 1, .sc, 0, .any, false⟩, ⟨8, 1, .ro, 0, .any, false⟩, ⟨9, 1, .ro, 0, .any, false⟩], false, false⟩,  -- PWR_FUSE
  ⟨0x080, [(8, 4)], [⟨0, 32, .ro, 0, .any, false⟩], false, false⟩,  -- PWR_BOOT_DIG
  ⟨0x0A0, [(8, 4)], [⟨0, 32, .wo, 0, .any, false⟩], false, false⟩ ]  -- PWR_KEYH

/-- Registers of page MODE beside the header (chapter 16). -/
def regsMODE : List RegDesc :=
  [ ⟨0x040, [], [⟨0, 3, .ro, 0, .any, false⟩, ⟨4, 3, .ro, 0, .any, false⟩, ⟨8, 1, .ro, 0, .any, false⟩, ⟨12, 3, .ro, 0, .any, false⟩, ⟨16, 1, .ro, 0, .any, false⟩], false, false⟩,  -- MODE_STAT
  ⟨0x044, [], [⟨0, 3, .rw, 0, .any, false⟩, ⟨4, 1, .sc, 0, .any, false⟩], true, false⟩,  -- MODE_REQ
  ⟨0x048, [], [⟨0, 1, .rw, 0, .any, false⟩, ⟨8, 8, .rw, 20, .range 1 255, false⟩], false, false⟩,  -- MODE_QRULE
  ⟨0x04C, [], [⟨0, 1, .rw, 1, .any, false⟩, ⟨8, 4, .ro, 0, .any, false⟩], false, false⟩ ]  -- MODE_WAKE

/-- Registers of page TL beside the header (chapter 03). -/
def regsTL : List RegDesc :=
  [ ⟨0x040, [], [⟨0, 32, .ro, 0, .any, false⟩], false, false⟩,  -- TL_NOW_LO
  ⟨0x044, [], [⟨0, 32, .ro, 0, .any, false⟩], false, false⟩,  -- TL_NOW_HI
  ⟨0x048, [], [⟨0, 10, .ro, 0, .any, false⟩, ⟨16, 1, .ro, 0, .any, false⟩], false, false⟩,  -- TL_POS
  ⟨0x050, [], [⟨0, 32, .ro, 0, .any, false⟩], false, false⟩,  -- TL_OFS_LO
  ⟨0x054, [], [⟨0, 32, .ro, 0, .any, false⟩], false, false⟩,  -- TL_OFS_HI
  ⟨0x060, [], [⟨0, 1, .rw, 0, .any, false⟩, ⟨1, 1, .sc, 0, .any, false⟩], false, false⟩,  -- TL_DEV_CTRL
  ⟨0x064, [], [⟨0, 3, .ro, 0, .any, false⟩, ⟨8, 5, .ro, 0, .any, false⟩, ⟨16, 16, .ro, 0, .any, false⟩], false, false⟩,  -- TL_DEV_STAT
  ⟨0x068, [], [⟨0, 8, .ro, 0, .any, false⟩, ⟨8, 23, .ro, 0, .any, false⟩], false, false⟩,  -- TL_DEV_CHK
  ⟨0x100, [(32, 32)], [⟨0, 32, .rw, 0, .any, false⟩], false, false⟩,  -- TL_ACT_TL_LO
  ⟨0x104, [(32, 32)], [⟨0, 32, .rw, 0, .any, false⟩], false, false⟩,  -- TL_ACT_TL_HI
  ⟨0x108, [(32, 32)], [⟨0, 4, .rw, 0, .range 0 3, false⟩, ⟨4, 1, .wo, 0, .any, false⟩, ⟨5, 1, .wo, 0, .any, false⟩, ⟨8, 3, .ro, 0, .any, false⟩, ⟨28, 4, .ro, 0, .any, false⟩], false, false⟩,  -- TL_ACT_CTRL
  ⟨0x10C, [(32, 32)], [⟨0, 32, .rw, 0, .any, false⟩], false, false⟩,  -- TL_ACT_ADDR
  ⟨0x110, [(32, 32)], [⟨0, 32, .rw, 0, .any, false⟩], false, false⟩ ]  -- TL_ACT_DATA

/-- Registers of page SCH beside the header (chapter 04). -/
def regsSCH : List RegDesc :=
  [ ⟨0x040, [], [⟨0, 1, .rw, 1, .any, false⟩, ⟨1, 1, .rw, 1, .any, false⟩, ⟨4, 2, .rw, 1, .range 1 2, false⟩, ⟨8, 8, .rw, 2, .range 1 255, false⟩], false, false⟩,  -- SCH_CFG
  ⟨0x044, [], [⟨0, 7, .rw, 80, .range 50 100, false⟩, ⟨16, 16, .rw, 64, .range 16 4096, false⟩], false, false⟩,  -- SCH_CAP
  ⟨0x048, [], [⟨0, 32, .ro, 0, .any, false⟩], false, false⟩,  -- SCH_GRAPH_ID
  ⟨0x04C, [], [⟨0, 16, .ro, 0, .any, false⟩, ⟨16, 9, .ro, 0, .any, false⟩, ⟨28, 4, .ro, 0, .any, false⟩], false, false⟩,  -- SCH_GRAPH_INFO
  ⟨0x050, [], [⟨0, 32, .cnt, 0, .any, false⟩], false, false⟩,  -- SCH_LATE
  ⟨0x054, [], [⟨0, 16, .ro, 0, .any, false⟩, ⟨16, 8, .ro, 0, .any, false⟩, ⟨24, 4, .ro, 0, .any, false⟩], false, false⟩,  -- SCH_LATE_LAST
  ⟨0x058, [], [⟨0, 32, .cnt, 0, .any, false⟩], false, false⟩,  -- SCH_RA
  ⟨0x05C, [], [⟨0, 32, .cnt, 0, .any, false⟩], false, false⟩,  -- SCH_RERUN
  ⟨0x060, [], [⟨0, 32, .cnt, 0, .any, false⟩], false, false⟩,  -- SCH_ABANDON
  ⟨0x068, [], [⟨0, 32, .cnt, 0, .any, false⟩], false, false⟩,  -- SCH_GOV
  ⟨0x06C, [], [⟨0, 16, .ro, 0, .any, false⟩, ⟨16, 8, .ro, 0, .any, false⟩, ⟨24, 4, .ro, 0, .any, false⟩], false, false⟩,  -- SCH_GOV_LAST
  ⟨0x070, [], [⟨0, 16, .ro, 0, .any, false⟩, ⟨16, 16, .ro, 0, .any, false⟩], false, false⟩ ]  -- SCH_GATE_STAT

/-- Registers of page FL beside the header (chapter 04). -/
def regsFL : List RegDesc :=
  [ ⟨0x040, [], [⟨0, 13, .ro, 0, .any, false⟩, ⟨16, 13, .ro, 0, .any, false⟩], false, false⟩,  -- FL_QUEUE
  ⟨0x044, [], [⟨0, 11, .ro, 0, .any, false⟩, ⟨16, 10, .ro, 0, .any, false⟩], false, false⟩,  -- FL_CAP
  ⟨0x048, [], [⟨0, 32, .ro, 0, .any, false⟩], false, false⟩,  -- FL_CAP_HEAD
  ⟨0x04C, [], [⟨0, 11, .ro, 0, .any, false⟩, ⟨16, 11, .ro, 0, .any, false⟩], false, false⟩,  -- FL_BUSY
  ⟨0x050, [], [⟨0, 10, .ro, 1023, .any, false⟩], false, false⟩,  -- FL_SLACK
  ⟨0x054, [], [⟨0, 32, .cnt, 0, .any, false⟩], false, false⟩,  -- FL_STEAL_IN
  ⟨0x058, [], [⟨0, 32, .cnt, 0, .any, false⟩], false, false⟩,  -- FL_STEAL_OUT
  ⟨0x05C, [], [⟨0, 32, .cnt, 0, .any, false⟩], false, false⟩,  -- FL_LATE
  ⟨0x060, [], [⟨0, 32, .cnt, 0, .any, false⟩], false, false⟩,  -- FL_OVERRUN
  ⟨0x064, [], [⟨0, 32, .cnt, 0, .any, false⟩], false, false⟩,  -- FL_WIN_ERR
  ⟨0x068, [], [⟨0, 32, .cnt, 0, .any, false⟩], false, false⟩,  -- FL_ECC
  ⟨0x06C, [], [⟨0, 16, .ro, 0, .any, false⟩], false, false⟩ ]  -- FL_WIN_LAST

/-- Registers of page MIX beside the header (chapter 06). -/
def regsMIX : List RegDesc :=
  [ ⟨0x040, [], [⟨0, 1, .rw, 0, .any, false⟩], true, false⟩,  -- MIX_DIRECT_EN
  ⟨0x044, [], [⟨0, 1, .rw, 0, .any, false⟩], false, false⟩,  -- MIX_DIRECT_THRU
  ⟨0x048, [], [⟨0, 5, .rw, 5, .range 1 30, true⟩, ⟨16, 7, .rw, 10, .range 1 100, true⟩], false, false⟩,  -- MIX_STEP
  ⟨0x04C, [], [⟨0, 32, .rw, 0x10000000, .any, false⟩], false, true⟩,  -- MIX_DLY_BASE
  ⟨0x050, [], [⟨0, 27, .rw, 0, .any, false⟩], false, true⟩,  -- MIX_DLY_SIZE
  ⟨0x054, [], [⟨0, 32, .rw, 0x10000000, .any, false⟩], false, true⟩,  -- MIX_FIR_BASE
  ⟨0x058, [], [⟨0, 25, .rw, 0, .any, false⟩], false, true⟩,  -- MIX_FIR_SIZE
  ⟨0x05C, [], [⟨0, 7, .ro, 0, .any, false⟩], false, false⟩,  -- MIX_LONG_USE
  ⟨0x060, [], [⟨0, 12, .rw, 0, .any, false⟩], false, false⟩,  -- MIX_PATH_SEL
  ⟨0x064, [], [⟨0, 16, .ro, 0, .any, false⟩, ⟨16, 4, .ro, 0, .any, false⟩, ⟨20, 1, .ro, 0, .any, false⟩, ⟨24, 8, .ro, 0, .any, false⟩], false, false⟩,  -- MIX_PATH_LAT
  ⟨0x068, [], [⟨0, 18, .ro, 0, .any, false⟩], false, false⟩,  -- MIX_PATH_TAP
  ⟨0x070, [], [⟨0, 10, .rw, 0, .any, false⟩], false, false⟩,  -- MIX_BUS_SEL
  ⟨0x074, [], [⟨0, 12, .ro, 0, .any, false⟩, ⟨12, 4, .ro, 0, .any, false⟩, ⟨16, 1, .ro, 0, .any, false⟩, ⟨17, 1, .ro, 0, .any, false⟩], false, false⟩,  -- MIX_BUS_INFO
  ⟨0x078, [], [⟨0, 32, .ro, 0x20000000, .any, false⟩], false, false⟩,  -- MIX_BUS_SCALE
  ⟨0x080, [], [⟨0, 32, .cnt, 0, .any, false⟩], false, false⟩,  -- MIX_CLAMP
  ⟨0x084, [], [⟨0, 32, .cnt, 0, .any, false⟩], false, false⟩,  -- MIX_DIRECT_CNT
  ⟨0x090, [], [⟨0, 32, .wo, 0, .any, false⟩], false, false⟩,  -- MIX_MTR_CLR
  ⟨0x100, [(32, 16)], [⟨0, 32, .ro, 0, .any, false⟩], false, false⟩,  -- MIX_MTR_PK
  ⟨0x104, [(32, 16)], [⟨0, 32, .ro, 0, .any, false⟩], false, false⟩,  -- MIX_MTR_MS
  ⟨0x108, [(32, 16)], [⟨0, 32, .ro, 0, .any, false⟩], false, false⟩,  -- MIX_MTR_HOLD
  ⟨0x10C, [(32, 16)], [⟨0, 1, .ro, 0, .any, false⟩, ⟨1, 1, .ro, 0, .any, false⟩], false, false⟩ ]  -- MIX_MTR_STAT

/-- Registers of page SRC beside the header (chapter 06). -/
def regsSRC : List RegDesc :=
  [ ⟨0x040, [], [⟨0, 9, .ro, 0, .any, false⟩, ⟨16, 9, .ro, 0, .any, false⟩], false, false⟩,  -- SRC_USE
  ⟨0x044, [], [⟨0, 8, .rw, 0, .any, false⟩], false, false⟩,  -- SRC_CH_SEL
  ⟨0x048, [], [⟨0, 12, .ro, 0, .any, false⟩, ⟨12, 1, .ro, 0, .any, false⟩, ⟨16, 1, .ro, 0, .any, false⟩, ⟨17, 1, .ro, 0, .any, false⟩, ⟨31, 1, .ro, 0, .any, false⟩], false, false⟩,  -- SRC_CH_STAT
  ⟨0x04C, [], [⟨0, 32, .ro, 0, .any, false⟩], false, false⟩,  -- SRC_CH_RATIO
  ⟨0x100, [(16, 8)], [⟨0, 2, .rwb, 0, .any, false⟩, ⟨16, 16, .rwb, 0, .any, false⟩], false, false⟩,  -- SRC_TG_CFG
  ⟨0x104, [(16, 8)], [⟨0, 19, .rwb, 16, .any, false⟩], false, false⟩,  -- SRC_TG_PARAM
  ⟨0x180, [], [⟨0, 32, .ro, 0, .any, false⟩], false, false⟩ ]  -- SRC_TG_ACT

/-- Registers of page SAPG beside the header (chapter 07). -/
def regsSAPG : List RegDesc :=
  [ ⟨0x040, [], [⟨0, 1, .rwb, 0, .any, false⟩, ⟨1, 1, .rwb, 0, .any, false⟩, ⟨2, 1, .rwb, 0, .any, false⟩, ⟨4, 3, .rwb, 0, .range 0 5, false⟩, ⟨8, 2, .rwb, 0, .range 0 2, false⟩, ⟨10, 2, .rwb, 0, .range 0 2, false⟩, ⟨12, 2, .rwb, 0, .any, false⟩], false, false⟩,  -- SAPG_CFG
  ⟨0x044, [], [⟨0, 16, .rwb, 0, .any, false⟩], false, false⟩,  -- SAPG_SLOTMASK_RX
  ⟨0x048, [], [⟨0, 16, .rwb, 0, .any, false⟩], false, false⟩,  -- SAPG_SLOTMASK_TX
  ⟨0x04C, [], [⟨0, 8, .rwb, 0, .any, false⟩, ⟨16, 8, .rwb, 0, .any, false⟩], false, false⟩,  -- SAPG_LANEFMT
  ⟨0x050, [], [⟨0, 8, .rwb, 0, .any, false⟩], false, false⟩,  -- SAPG_VMODE
  ⟨0x054, [], [⟨0, 16, .rw, 1000, .range 100 50000, true⟩], false, false⟩,  -- SAPG_FWIN
  ⟨0x058, [], [⟨0, 1, .sc, 0, .any, false⟩], false, false⟩,  -- SAPG_APPLY
  ⟨0x05C, [], [⟨0, 32, .ro, 0, .any, false⟩], false, false⟩,  -- SAPG_ACT_CFG
  ⟨0x060, [], [⟨0, 16, .ro, 0, .any, false⟩, ⟨16, 16, .ro, 0, .any, false⟩], false, false⟩,  -- SAPG_ACT_MASK
  ⟨0x064, [], [⟨0, 32, .ro, 0, .any, false⟩], false, false⟩,  -- SAPG_ACT_LANEFMT
  ⟨0x068, [], [⟨0, 8, .ro, 0, .any, false⟩], false, false⟩,  -- SAPG_ACT_VMODE
  ⟨0x06C, [], [⟨0, 1, .ro, 0, .any, false⟩, ⟨1, 1, .ro, 0, .any, false⟩, ⟨2, 1, .ro, 0, .any, false⟩, ⟨16, 16, .ro, 0, .any, false⟩], false, false⟩,  -- SAPG_CLK_STAT
  ⟨0x070, [], [⟨0, 32, .rw, 0x10000000, .any, false⟩], false, true⟩,  -- SAPG_BUF_RX
  ⟨0x074, [], [⟨0, 32, .rw, 0x10000000, .any, false⟩], false, true⟩,  -- SAPG_BUF_TX
  ⟨0x078, [], [⟨0, 16, .ro, 0, .any, false⟩], false, false⟩,  -- SAPG_BUF_LVL
  ⟨0x07C, [], [⟨0, 7, .ro, 0, .any, false⟩, ⟨8, 7, .ro, 0, .any, false⟩], false, false⟩,  -- SAPG_MULE
  ⟨0x080, [], [⟨0, 32, .cnt, 0, .any, false⟩], false, false⟩,  -- SAPG_CLKLOSS_CNT
  ⟨0x084, [], [⟨0, 32, .cnt, 0, .any, false⟩], false, false⟩,  -- SAPG_SLIP
  ⟨0x088, [], [⟨0, 32, .cnt, 0, .any, false⟩], false, false⟩,  -- SAPG_VCNT
  ⟨0x08C, [], [⟨0, 32, .cnt, 0, .any, false⟩], false, false⟩,  -- SAPG_PERR
  ⟨0x090, [], [⟨0, 32, .cnt, 0, .any, false⟩], false, false⟩,  -- SAPG_CRCC_ERR
  ⟨0x094, [], [⟨0, 32, .cnt, 0, .any, false⟩], false, false⟩,  -- SAPG_BLK_ERR
  ⟨0x098, [], [⟨0, 32, .cnt, 0, .any, false⟩], false, false⟩,  -- SAPG_FRAME_ERR
  ⟨0x0A0, [], [⟨0, 8, .ro, 0, .any, false⟩, ⟨8, 8, .ro, 0, .any, false⟩, ⟨16, 8, .ro, 0, .any, false⟩], false, false⟩,  -- SAPG_AES_STAT
  ⟨0x0A4, [], [⟨0, 3, .rw, 0, .any, false⟩], false, false⟩,  -- SAPG_AES_SEL
  ⟨0x0A8, [], [⟨0, 18, .ro, 0, .any, false⟩], false, false⟩,  -- SAPG_AES_RATE
  ⟨0x100, [(8, 32), (6, 4)], [⟨0, 32, .ro, 0, .any, false⟩], false, false⟩,  -- SAPG_CS
  ⟨0x200, [(8, 32), (6, 4)], [⟨0, 32, .ro, 0, .any, false⟩], false, false⟩,  -- SAPG_USR
  ⟨0x300, [(8, 32), (6, 4)], [⟨0, 32, .rwb, 0, .any, false⟩], false, false⟩ ]  -- SAPG_TXCS

/-- Registers of page ETH beside the header (chapter 08). -/
def regsETH : List RegDesc :=
  [ ⟨0x040, [], [⟨0, 2, .rw, 0, .any, false⟩, ⟨2, 2, .rw, 0, .any, false⟩, ⟨4, 1, .rw, 1, .any, false⟩, ⟨5, 1, .rw, 0, .any, false⟩, ⟨6, 1, .rw, 0, .any, false⟩, ⟨8, 3, .rw, 0, .any, false⟩, ⟨16, 12, .rw, 1, .range 1 4094, false⟩], false, false⟩,  -- ETH_CFG
  ⟨0x044, [], [⟨0, 14, .rw, 1522, .range 1518 9216, false⟩], false, false⟩,  -- ETH_MAXLEN
  ⟨0x048, [], [⟨0, 17, .rw, 1000, .range 100 100000, true⟩], false, false⟩,  -- ETH_PAUSE
  ⟨0x04C, [], [⟨0, 16, .rw, 1000, .range 1 60000, true⟩], false, false⟩,  -- ETH_PAUSE_HOLD
  ⟨0x050, [], [⟨0, 5, .rw, 20, .any, false⟩, ⟨5, 4, .rw, 0, .any, false⟩, ⟨9, 5, .rw, 8, .any, false⟩], false, false⟩,  -- ETH_SERDES
  ⟨0x054, [], [⟨0, 8, .rw, 0, .any, false⟩, ⟨8, 1, .rw, 0, .any, false⟩], false, false⟩,  -- ETH_WAKE
  ⟨0x060, [], [⟨0, 1, .ro, 0, .any, false⟩, ⟨1, 1, .ro, 0, .any, false⟩, ⟨2, 1, .ro, 0, .any, false⟩, ⟨3, 1, .ro, 0, .any, false⟩, ⟨4, 1, .ro, 0, .any, false⟩, ⟨5, 1, .ro, 0, .any, false⟩], false, false⟩,  -- ETH_STAT
  ⟨0x080, [], [⟨0, 32, .cnt, 0, .any, false⟩], false, false⟩,  -- ETH_RX_OK
  ⟨0x084, [], [⟨0, 32, .cnt, 0, .any, false⟩], false, false⟩,  -- ETH_RX_FCS
  ⟨0x088, [], [⟨0, 32, .cnt, 0, .any, false⟩], false, false⟩,  -- ETH_RX_RUNT
  ⟨0x08C, [], [⟨0, 32, .cnt, 0, .any, false⟩], false, false⟩,  -- ETH_RX_OVERSIZE
  ⟨0x090, [], [⟨0, 32, .cnt, 0, .any, false⟩], false, false⟩,  -- ETH_RX_VLAN
  ⟨0x094, [], [⟨0, 32, .cnt, 0, .any, false⟩], false, false⟩,  -- ETH_RX_PAUSE
  ⟨0x098, [], [⟨0, 32, .cnt, 0, .any, false⟩], false, false⟩,  -- ETH_RX_PAUSE_IGN
  ⟨0x09C, [], [⟨0, 32, .cnt, 0, .any, false⟩], false, false⟩,  -- ETH_RX_PFC
  ⟨0x0A0, [], [⟨0, 32, .cnt, 0, .any, false⟩], false, false⟩,  -- ETH_TX_OK
  ⟨0x0A4, [], [⟨0, 32, .cnt, 0, .any, false⟩], false, false⟩,  -- ETH_TX_STOMP
  ⟨0x0A8, [], [⟨0, 32, .cnt, 0, .any, false⟩], false, false⟩,  -- ETH_TX_OVERSIZE
  ⟨0x0AC, [], [⟨0, 32, .cnt, 0, .any, false⟩], false, false⟩,  -- ETH_TX_DROP
  ⟨0x0B0, [], [⟨0, 32, .cnt, 0, .any, false⟩], false, false⟩,  -- ETH_LINK_DOWN
  ⟨0x0B4, [], [⟨0, 32, .cnt, 0, .any, false⟩], false, false⟩,  -- ETH_PAUSE_BROKEN
  ⟨0x0B8, [], [⟨0, 32, .cnt, 0, .any, false⟩], false, false⟩ ]  -- ETH_AN_FAIL

/-- Registers of page BR beside the header (chapter 08). -/
def regsBR : List RegDesc :=
  [ ⟨0x040, [], [⟨0, 1, .rw, 1, .any, false⟩, ⟨1, 1, .rw, 1, .any, false⟩], false, false⟩,  -- BR_CFG
  ⟨0x044, [], [⟨0, 32, .rw, 0, .any, false⟩], false, false⟩,  -- BR_MAC_LO
  ⟨0x048, [], [⟨0, 16, .rw, 0, .any, false⟩], false, false⟩,  -- BR_MAC_HI
  ⟨0x050, [], [⟨0, 1, .rw, 0, .any, false⟩, ⟨1, 1, .rw, 0, .any, false⟩, ⟨8, 4, .rw, 3, .range 2 15, false⟩], false, false⟩,  -- BR_NET_A
  ⟨0x054, [], [⟨0, 1, .rw, 0, .any, false⟩, ⟨1, 1, .rw, 0, .any, false⟩, ⟨8, 4, .rw, 3, .range 2 15, false⟩], false, false⟩,  -- BR_NET_B
  ⟨0x058, [], [⟨0, 3, .ro, 0, .any, false⟩, ⟨4, 3, .ro, 0, .any, false⟩], false, false⟩,  -- BR_RING_STAT
  ⟨0x05C, [], [⟨0, 12, .rw, 300, .range 10 3600, false⟩], false, false⟩,  -- BR_AGE
  ⟨0x060, [], [⟨0, 24, .rw, 0xFAC688, .any, false⟩], false, false⟩,  -- BR_PCP_MAP
  ⟨0x070, [], [⟨0, 3, .rw, 0, .range 1 5, false⟩, ⟨4, 1, .sc, 0, .any, false⟩, ⟨8, 5, .rw, 0, .any, false⟩], false, false⟩,  -- BR_ATU_CMD
  ⟨0x074, [], [⟨0, 12, .rw, 0, .any, false⟩], false, false⟩,  -- BR_ATU_IDX
  ⟨0x078, [], [⟨0, 32, .rw, 0, .any, false⟩], false, false⟩,  -- BR_ATU_E0
  ⟨0x07C, [], [⟨0, 16, .rw, 0, .any, false⟩, ⟨16, 12, .rw, 0, .any, false⟩], false, false⟩,  -- BR_ATU_E1
  ⟨0x080, [], [⟨0, 5, .rw, 0, .any, false⟩, ⟨8, 1, .rw, 0, .any, false⟩, ⟨9, 1, .rw, 0, .any, false⟩, ⟨10, 1, .rw, 0, .any, false⟩, ⟨12, 3, .rw, 0, .any, false⟩], false, false⟩,  -- BR_ATU_E2
  ⟨0x084, [], [⟨0, 13, .ro, 0, .any, false⟩, ⟨16, 13, .ro, 0, .any, false⟩], false, false⟩,  -- BR_ATU_STAT
  ⟨0x090, [], [⟨0, 10, .rw, 200, .range 40 1000, false⟩], false, false⟩,  -- BR_MDIO_CFG
  ⟨0x094, [], [⟨0, 2, .rw, 0, .any, false⟩, ⟨2, 1, .rw, 0, .any, false⟩, ⟨8, 5, .rw, 0, .any, false⟩, ⟨16, 5, .rw, 0, .any, false⟩, ⟨29, 1, .ro, 0, .any, false⟩, ⟨30, 1, .ro, 0, .any, false⟩, ⟨31, 1, .sc, 0, .any, false⟩], false, false⟩,  -- BR_MDIO_CMD
  ⟨0x098, [], [⟨0, 16, .rw, 0, .any, false⟩], false, false⟩,  -- BR_MDIO_DATA
  ⟨0x0A0, [], [⟨0, 3, .ro, 0, .any, false⟩, ⟨4, 3, .ro, 0, .any, false⟩, ⟨7, 1, .ro, 0, .any, false⟩], false, false⟩,  -- BR_WAKE_STAT
  ⟨0x0C0, [], [⟨0, 32, .cnt, 0, .any, false⟩], false, false⟩,  -- BR_LEARN_FULL
  ⟨0x0C4, [], [⟨0, 32, .cnt, 0, .any, false⟩], false, false⟩,  -- BR_FLOOD
  ⟨0x0C8, [], [⟨0, 32, .cnt, 0, .any, false⟩], false, false⟩,  -- BR_STREAM_NOENT
  ⟨0x0CC, [], [⟨0, 32, .cnt, 0, .any, false⟩], false, false⟩,  -- BR_CT
  ⟨0x0D0, [], [⟨0, 32, .cnt, 0, .any, false⟩], false, false⟩,  -- BR_RING_CHANGE
  ⟨0x200, [], [⟨0, 12, .rw, 1, .range 1 4094, false⟩, ⟨15, 1, .rw, 1, .any, false⟩], false, false⟩,  -- BR_VLAN0_A
  ⟨0x204, [], [⟨0, 5, .rw, 0x1F, .any, false⟩, ⟨8, 5, .rw, 0x1F, .any, false⟩], false, false⟩,  -- BR_VLAN0_B
  ⟨0x208, [(63, 8)], [⟨0, 12, .rw, 0, .range 1 4094, false⟩, ⟨15, 1, .rw, 0, .any, false⟩], false, false⟩,  -- BR_VLANN_A
  ⟨0x20C, [(63, 8)], [⟨0, 5, .rw, 0, .any, false⟩, ⟨8, 5, .rw, 0, .any, false⟩], false, false⟩,  -- BR_VLANN_B
  ⟨0x800, [(8, 4)], [⟨0, 16, .rw, 0, .any, false⟩], false, false⟩,  -- BR_WAKE_CRC
  ⟨0xC00, [(256, 4)], [⟨0, 32, .rw, 0, .any, false⟩], false, false⟩ ]  -- BR_WAKE_MASK

/-- Registers of page STRX beside the header (chapter 09). -/
def regsSTRX : List RegDesc :=
  [ ⟨0x040, [], [⟨0, 10, .rw, 768, .range 1 1007, true⟩, ⟨16, 7, .rw, 64, .range 1 128, false⟩], false, false⟩,  -- STRX_CFG
  ⟨0x044, [], [⟨0, 1, .sc, 0, .any, false⟩], false, false⟩,  -- STRX_APPLY
  ⟨0x048, [], [⟨0, 9, .ro, 0, .any, false⟩, ⟨16, 9, .ro, 0, .any, false⟩], false, false⟩,  -- STRX_USE
  ⟨0x04C, [], [⟨0, 32, .cnt, 0, .any, false⟩], false, false⟩,  -- STRX_NOSTREAM
  ⟨0x060, [], [⟨0, 8, .rw, 0, .any, false⟩], false, false⟩,  -- STRX_SEL
  ⟨0x064, [], [⟨0, 2, .ro, 0, .any, false⟩, ⟨4, 4, .ro, 0, .any, false⟩, ⟨8, 1, .ro, 0, .any, false⟩, ⟨9, 1, .ro, 0, .any, false⟩], false, false⟩,  -- STRX_ST
  ⟨0x068, [], [⟨0, 16, .ro, 0x7FFF, .any, false⟩], false, false⟩,  -- STRX_ST_MARGIN
  ⟨0x070, [(16, 4)], [⟨0, 32, .ro, 0, .any, false⟩], false, false⟩ ]  -- STRX_CNT

/-- Registers of page STTX beside the header (chapter 09). -/
def regsSTTX : List RegDesc :=
  [ ⟨0x040, [], [⟨0, 32, .rw, 0, .any, false⟩], false, false⟩,  -- STTX_IPV4
  ⟨0x044, [], [⟨0, 8, .rw, 16, .range 1 255, false⟩, ⟨8, 6, .rw, 34, .any, false⟩], false, false⟩,  -- STTX_IPHDR
  ⟨0x048, [], [⟨0, 1, .sc, 0, .any, false⟩], false, false⟩,  -- STTX_APPLY
  ⟨0x04C, [], [⟨0, 8, .ro, 0, .any, false⟩, ⟨16, 9, .ro, 0, .any, false⟩], false, false⟩,  -- STTX_USE
  ⟨0x060, [], [⟨0, 7, .rw, 0, .any, false⟩], false, false⟩,  -- STTX_SEL
  ⟨0x064, [], [⟨0, 32, .ro, 0, .any, false⟩], false, false⟩,  -- STTX_SENT
  ⟨0x068, [], [⟨0, 32, .ro, 0, .any, false⟩], false, false⟩ ]  -- STTX_FLAGGED

/-- Registers of page HRD beside the header (chapter 09). -/
def regsHRD : List RegDesc :=
  [ ⟨0x100, [(32, 4)], [⟨0, 1, .rwb, 0, .any, false⟩, ⟨16, 10, .rwb, 0, .any, false⟩], false, false⟩,  -- HRD_CFG
  ⟨0x180, [(32, 4)], [⟨0, 32, .ro, 0, .any, false⟩], false, false⟩,  -- HRD_ACT
  ⟨0x200, [(32, 8)], [⟨0, 9, .ro, 0, .any, false⟩, ⟨16, 1, .ro, 0, .any, false⟩], false, false⟩,  -- HRD_STAT
  ⟨0x204, [(32, 8)], [⟨0, 32, .cnt, 0, .any, false⟩], false, false⟩ ]  -- HRD_UNDER

/-- Registers of page PTP beside the header (chapter 10). -/
def regsPTP : List RegDesc :=
  [ ⟨0x040, [], [⟨0, 2, .rw, 0, .range 0 1, false⟩, ⟨4, 2, .rw, 1, .range 0 2, false⟩, ⟨8, 1, .rw, 1, .any, false⟩, ⟨16, 8, .rw, 0, .range 0 127, false⟩], false, false⟩,  -- PTP_CFG
  ⟨0x044, [], [⟨0, 1, .rw, 1, .any, false⟩], false, false⟩,  -- PTP_TC_CFG
  ⟨0x048, [], [⟨0, 4, .rw, 0xD, .srange (-7) 1, false⟩, ⟨4, 4, .rw, 0, .srange (-3) 4, false⟩, ⟨8, 4, .rw, 0, .srange (-7) 5, false⟩, ⟨16, 4, .rw, 3, .range 2 15, false⟩, ⟨20, 4, .rw, 3, .range 2 10, false⟩], false, false⟩,  -- PTP_INTV
  ⟨0x04C, [], [⟨0, 8, .rw, 128, .any, false⟩, ⟨8, 8, .rw, 128, .any, false⟩], false, false⟩,  -- PTP_PRIO
  ⟨0x050, [], [⟨0, 16, .rw, 45875, .any, false⟩, ⟨16, 16, .rw, 9830, .any, false⟩], false, false⟩,  -- PTP_SERVO
  ⟨0x054, [], [⟨0, 24, .rw, 100000, .range 1000 10000000, false⟩], false, false⟩,  -- PTP_STEP
  ⟨0x058, [], [⟨0, 16, .rw, 500, .range 10 50000, false⟩, ⟨16, 8, .rw, 16, .range 4 255, false⟩], false, false⟩,  -- PTP_LOCK
  ⟨0x060, [], [⟨0, 3, .ro, 0, .any, false⟩, ⟨4, 1, .ro, 0, .any, false⟩, ⟨5, 1, .ro, 0, .any, false⟩, ⟨6, 1, .ro, 0, .any, false⟩, ⟨8, 2, .ro, 0, .any, false⟩], false, false⟩,  -- PTP_STAT
  ⟨0x064, [], [⟨0, 32, .ro, 0, .any, false⟩], false, false⟩,  -- PTP_OFFSET
  ⟨0x068, [], [⟨0, 32, .ro, 0, .any, false⟩], false, false⟩,  -- PTP_MPD
  ⟨0x06C, [], [⟨0, 32, .ro, 0, .any, false⟩], false, false⟩,  -- PTP_FREQ
  ⟨0x070, [], [⟨0, 32, .ro, 0, .any, false⟩], false, false⟩,  -- PTP_GMID_LO
  ⟨0x074, [], [⟨0, 32, .ro, 0, .any, false⟩], false, false⟩,  -- PTP_GMID_HI
  ⟨0x078, [], [⟨0, 16, .ro, 0xFFFF, .any, false⟩, ⟨16, 8, .ro, 0, .any, false⟩], false, false⟩,  -- PTP_GMQ
  ⟨0x080, [], [⟨0, 32, .ro, 0, .any, false⟩], false, false⟩,  -- PTP_NOW_SLO
  ⟨0x084, [], [⟨0, 16, .ro, 0, .any, false⟩], false, false⟩,  -- PTP_NOW_SHI
  ⟨0x088, [], [⟨0, 30, .ro, 0, .any, false⟩], false, false⟩,  -- PTP_NOW_NS
  ⟨0x090, [], [⟨0, 32, .rw, 0, .any, false⟩], false, false⟩,  -- PTP_TOD_LO
  ⟨0x094, [], [⟨0, 16, .rw, 0, .any, false⟩], false, false⟩,  -- PTP_TOD_HI
  ⟨0x0A0, [(4, 4)], [⟨0, 24, .ro, 0, .any, false⟩, ⟨31, 1, .ro, 0, .any, false⟩], false, false⟩,  -- PTP_LINK_DLY
  ⟨0x0C0, [], [⟨0, 32, .cnt, 0, .any, false⟩], false, false⟩,  -- PTP_RX_SYNC
  ⟨0x0C4, [], [⟨0, 32, .cnt, 0, .any, false⟩], false, false⟩,  -- PTP_RX_ANN
  ⟨0x0C8, [], [⟨0, 32, .cnt, 0, .any, false⟩], false, false⟩,  -- PTP_STEPS
  ⟨0x0CC, [], [⟨0, 32, .cnt, 0, .any, false⟩], false, false⟩,  -- PTP_MASTER_CHG
  ⟨0x0D0, [], [⟨0, 32, .cnt, 0, .any, false⟩], false, false⟩ ]  -- PTP_SYNC_LOST

/-- Registers of page REF beside the header (chapter 10). -/
def regsREF : List RegDesc :=
  [ ⟨0x040, [], [⟨0, 2, .rw, 0, .any, false⟩, ⟨4, 1, .rw, 1, .any, false⟩, ⟨16, 16, .rw, 0xF8FE, .any, false⟩], false, false⟩,  -- REF_CFG
  ⟨0x044, [], [⟨0, 10, .rw, 30, .range 0 720, false⟩], false, false⟩,  -- REF_WTR
  ⟨0x048, [], [⟨0, 16, .rw, 100, .range 10 10000, false⟩, ⟨16, 16, .rw, 500, .range 10 10000, false⟩], false, false⟩,  -- REF_LOCK
  ⟨0x04C, [], [⟨0, 6, .rw, 10, .range 1 60, false⟩], false, false⟩,  -- REF_SWT
  ⟨0x050, [], [⟨0, 16, .rw, 1000, .range 1 20000, false⟩, ⟨16, 16, .rw, 50, .range 1 65535, false⟩], false, false⟩,  -- REF_FWIN
  ⟨0x054, [], [⟨0, 10, .rw, 60, .range 0 600, false⟩], false, false⟩,  -- REF_GUARD
  ⟨0x058, [], [⟨0, 4, .rw, 4, .range 0 6, false⟩, ⟨16, 16, .rw, 2000, .range 10 65535, false⟩], false, false⟩,  -- REF_DPLL
  ⟨0x05C, [], [⟨0, 3, .rw, 0, .any, false⟩, ⟨8, 1, .rw, 0, .any, false⟩], false, false⟩,  -- REF_FORCE
  ⟨0x060, [], [⟨0, 2, .rw, 1, .range 0 2, false⟩, ⟨4, 3, .rw, 0, .range 0 4, false⟩], false, false⟩,  -- REF_WCK
  ⟨0x064, [], [⟨0, 16, .rw, 0x0DFE, .any, false⟩, ⟨16, 16, .rw, 0x0EFE, .any, false⟩], false, false⟩,  -- REF_AESQ
  ⟨0x068, [], [⟨0, 16, .rw, 0x07FE, .any, false⟩, ⟨16, 16, .rw, 0x34FE, .any, false⟩], false, false⟩,  -- REF_HOLDQ
  ⟨0x070, [], [⟨0, 3, .ro, 0, .any, false⟩, ⟨4, 2, .ro, 0, .any, false⟩, ⟨8, 3, .ro, 0, .any, false⟩, ⟨11, 1, .ro, 0, .any, false⟩, ⟨12, 1, .ro, 0, .any, false⟩, ⟨13, 1, .ro, 0, .any, false⟩, ⟨14, 1, .ro, 0, .any, false⟩, ⟨15, 1, .ro, 0, .any, false⟩], false, false⟩,  -- REF_STAT
  ⟨0x074, [], [⟨0, 32, .ro, 0, .any, false⟩], false, false⟩,  -- REF_PHASE
  ⟨0x078, [], [⟨0, 16, .ro, 0x8000, .any, false⟩], false, false⟩,  -- REF_DAC
  ⟨0x07C, [], [⟨0, 16, .ro, 0xF8FE, .any, false⟩], false, false⟩,  -- REF_OUT_Q
  ⟨0x080, [], [⟨0, 32, .cnt, 0, .any, false⟩], false, false⟩,  -- REF_SWITCH
  ⟨0x084, [], [⟨0, 32, .cnt, 0, .any, false⟩], false, false⟩,  -- REF_HOLD_CNT
  ⟨0x088, [], [⟨0, 32, .cnt, 0, .any, false⟩], false, false⟩,  -- REF_DISQ
  ⟨0x100, [(2, 16)], [⟨0, 4, .rw, 0, .range 0 8, true⟩], false, false⟩,  -- REF_CAND
  ⟨0x120, [(4, 16)], [⟨0, 4, .rw, 0, .range 0 8, true⟩, ⟨8, 1, .rw, 0, .any, true⟩, ⟨12, 3, .rw, 0, .any, true⟩, ⟨16, 3, .rw, 0, .any, true⟩], false, false⟩,  -- REF_CAND_AES
  ⟨0x160, [(2, 16)], [⟨0, 4, .rw, 0, .range 0 8, true⟩], false, false⟩,  -- REF_CAND_HI
  ⟨0x104, [(8, 16)], [⟨0, 16, .rw, 0xFFFF, .any, true⟩], false, false⟩,  -- REF_QUAL
  ⟨0x108, [(8, 16)], [⟨0, 1, .ro, 0, .any, false⟩, ⟨1, 1, .ro, 0, .any, false⟩, ⟨2, 1, .ro, 0, .any, false⟩, ⟨3, 1, .ro, 0, .any, false⟩, ⟨4, 10, .ro, 0, .any, false⟩, ⟨16, 16, .ro, 0xFFFF, .any, false⟩], false, false⟩,  -- REF_CSTAT
  ⟨0x10C, [(8, 16)], [⟨0, 32, .ro, 0, .any, false⟩], false, false⟩ ]  -- REF_CFREQ

/-- Registers of page HOLD beside the header (chapter 10). -/
def regsHOLD : List RegDesc :=
  [ ⟨0x040, [], [⟨0, 12, .rw, 60, .range 1 3600, false⟩, ⟨16, 2, .rw, 0, .range 0 1, false⟩, ⟨20, 3, .rw, 0, .any, false⟩, ⟨24, 1, .rw, 0, .any, false⟩, ⟨25, 1, .rw, 0, .any, false⟩], false, false⟩,  -- HOLD_CFG
  ⟨0x044, [], [⟨0, 16, .rw, 6400, .any, false⟩], false, false⟩,  -- HOLD_T0
  ⟨0x048, [], [⟨0, 32, .rw, 0, .any, false⟩], false, false⟩,  -- HOLD_TC1
  ⟨0x04C, [], [⟨0, 32, .rw, 0, .any, false⟩], false, false⟩,  -- HOLD_TC2
  ⟨0x050, [], [⟨0, 32, .rw, 0, .any, false⟩], false, false⟩,  -- HOLD_TC3
  ⟨0x054, [], [⟨0, 16, .rw, 3950, .any, false⟩, ⟨16, 16, .rw, 4096, .any, false⟩], false, false⟩,  -- HOLD_THERM
  ⟨0x058, [], [⟨0, 24, .rw, 1526, .any, false⟩], false, false⟩,  -- HOLD_VCXO
  ⟨0x05C, [], [⟨0, 16, .rw, 720, .range 1 8760, false⟩, ⟨16, 16, .rw, 24, .range 1 8760, false⟩], false, false⟩,  -- HOLD_AGE
  ⟨0x060, [], [⟨0, 32, .rw, 0, .any, false⟩], false, false⟩,  -- HOLD_AGE_A
  ⟨0x064, [], [⟨0, 32, .rw, 0, .any, false⟩], false, false⟩,  -- HOLD_AGE_B
  ⟨0x068, [], [⟨0, 16, .rw, 0, .any, false⟩], false, false⟩,  -- HOLD_AGE_H
  ⟨0x06C, [], [⟨0, 16, .ro, 0, .any, false⟩], false, false⟩,  -- HOLD_TEMP
  ⟨0x070, [], [⟨0, 32, .ro, 0, .any, false⟩], false, false⟩,  -- HOLD_FREQ
  ⟨0x074, [], [⟨0, 32, .ro, 0, .any, false⟩], false, false⟩,  -- HOLD_ELAPSED
  ⟨0x078, [], [⟨0, 20, .rw, 86400, .any, false⟩], false, false⟩,  -- HOLD_SPEC
  ⟨0x07C, [], [⟨0, 13, .ro, 0, .any, false⟩], false, false⟩ ]  -- HOLD_HIST_AVAIL

/-- Registers of page TW beside the header (chapter 11). -/
def regsTW : List RegDesc :=
  [ ⟨0x040, [], [⟨0, 1, .rw, 0, .any, false⟩, ⟨1, 1, .rw, 0, .any, false⟩, ⟨16, 16, .rw, 0, .any, false⟩], false, true⟩,  -- TW_CFG
  ⟨0x044, [], [⟨0, 6, .rw, 21, .range 2 32, false⟩], false, false⟩,  -- TW_HB_TMO
  ⟨0x048, [], [⟨0, 4, .rw, 3, .range 2 15, false⟩], false, false⟩,  -- TW_NHB_MISS
  ⟨0x04C, [], [⟨0, 1, .rw, 0, .any, false⟩, ⟨1, 1, .rw, 1, .any, false⟩, ⟨2, 1, .rw, 0, .any, false⟩, ⟨8, 8, .rw, 10, .range 1 255, false⟩], true, false⟩,  -- TW_REL
  ⟨0x050, [], [⟨0, 1, .sc, 0, .any, false⟩, ⟨1, 1, .sc, 0, .any, false⟩, ⟨4, 1, .rw, 0, .any, false⟩], false, false⟩,  -- TW_CTRL
  ⟨0x054, [], [⟨0, 3, .ro, 0, .any, false⟩, ⟨4, 1, .ro, 0, .any, false⟩, ⟨5, 1, .ro, 0, .any, false⟩, ⟨6, 2, .ro, 0, .any, false⟩, ⟨8, 1, .ro, 0, .any, false⟩, ⟨9, 1, .ro, 0, .any, false⟩, ⟨10, 1, .ro, 0, .any, false⟩, ⟨11, 1, .ro, 0, .any, false⟩, ⟨12, 1, .ro, 0, .any, false⟩, ⟨13, 1, .ro, 0, .any, false⟩, ⟨14, 1, .ro, 0, .any, false⟩, ⟨15, 1, .ro, 0, .any, false⟩, ⟨16, 1, .ro, 0, .any, false⟩, ⟨17, 1, .ro, 0, .any, false⟩], false, false⟩,  -- TW_STAT
  ⟨0x058, [], [⟨0, 3, .ro, 0, .any, false⟩, ⟨8, 8, .ro, 0, .any, false⟩, ⟨16, 1, .ro, 0, .any, false⟩], false, false⟩,  -- TW_PEER
  ⟨0x05C, [], [⟨0, 16, .ro, 0, .any, false⟩], false, false⟩,  -- TW_ALIGN
  ⟨0x060, [], [⟨0, 16, .ro, 0, .any, false⟩, ⟨16, 16, .ro, 0, .any, false⟩], false, false⟩,  -- TW_COPY
  ⟨0x064, [], [⟨0, 3, .ro, 0, .any, false⟩, ⟨8, 1, .ro, 0, .any, false⟩], false, false⟩,  -- TW_LAST_HO
  ⟨0x068, [], [⟨0, 32, .ro, 0, .any, false⟩], false, false⟩,  -- TW_LAST_HO_TL_LO
  ⟨0x06C, [], [⟨0, 32, .ro, 0, .any, false⟩], false, false⟩,  -- TW_LAST_HO_TL_HI
  ⟨0x070, [], [⟨0, 32, .ro, 0, .any, false⟩], false, false⟩,  -- TW_DIG_LO
  ⟨0x074, [], [⟨0, 32, .ro, 0, .any, false⟩], false, false⟩,  -- TW_DIG_HI
  ⟨0x078, [], [⟨0, 32, .ro, 0, .any, false⟩], false, false⟩,  -- TW_DIG_PEER_LO
  ⟨0x07C, [], [⟨0, 32, .ro, 0, .any, false⟩], false, false⟩,  -- TW_DIG_PEER_HI
  ⟨0x080, [], [⟨0, 32, .ro, 0, .any, false⟩], false, false⟩,  -- TW_CDA_LO
  ⟨0x084, [], [⟨0, 32, .ro, 0, .any, false⟩], false, false⟩,  -- TW_CDA_HI
  ⟨0x088, [], [⟨0, 32, .ro, 0, .any, false⟩], false, false⟩,  -- TW_CDL_LO
  ⟨0x08C, [], [⟨0, 32, .ro, 0, .any, false⟩], false, false⟩,  -- TW_CDL_HI
  ⟨0x0A0, [], [⟨0, 32, .cnt, 0, .any, false⟩], false, false⟩,  -- TW_MISMATCH
  ⟨0x0A4, [], [⟨0, 32, .cnt, 0, .any, false⟩], false, false⟩,  -- TW_RESYNC
  ⟨0x0A8, [], [⟨0, 32, .cnt, 0, .any, false⟩], false, false⟩,  -- TW_HANDOVER
  ⟨0x0AC, [], [⟨0, 32, .cnt, 0, .any, false⟩], false, false⟩,  -- TW_RELQ_CNT
  ⟨0x0B0, [], [⟨0, 32, .cnt, 0, .any, false⟩], false, false⟩,  -- TW_HB_LOSS
  ⟨0x0B4, [], [⟨0, 32, .cnt, 0, .any, false⟩], false, false⟩,  -- TW_NHB_LOSS
  ⟨0x0B8, [], [⟨0, 32, .cnt, 0, .any, false⟩], false, false⟩,  -- TW_LINK_DOWN
  ⟨0x0BC, [], [⟨0, 32, .cnt, 0, .any, false⟩], false, false⟩,  -- TW_LANE_FAIL
  ⟨0x0C0, [], [⟨0, 32, .cnt, 0, .any, false⟩], false, false⟩ ]  -- TW_NHB_BAD

/-- Registers of page PS beside the header (chapter 12). -/
def regsPS : List RegDesc :=
  [ ⟨0x040, [], [⟨0, 6, .rw, 8, .range 2 63, false⟩, ⟨8, 8, .rw, 32, .range 2 255, false⟩], false, true⟩,  -- PS_DT
  ⟨0x100, [(8, 32)], [⟨0, 11, .rwb, 768, .range 640 1280, false⟩, ⟨12, 3, .rwb, 0, .any, false⟩, ⟨15, 1, .rwb, 0, .any, false⟩, ⟨16, 11, .rwb, 0, .any, false⟩, ⟨28, 1, .rwb, 1, .any, false⟩], false, false⟩,  -- PS_CH_CFG
  ⟨0x104, [(8, 32)], [⟨0, 16, .rwb, 0, .any, false⟩, ⟨16, 16, .rwb, 8000, .range 500 65535, false⟩], false, false⟩,  -- PS_CH_LIM
  ⟨0x108, [(8, 32)], [⟨0, 5, .rwb, 12, .range 7 17, false⟩, ⟨16, 14, .rwb, 960, .range 96 9600, false⟩], false, false⟩,  -- PS_CH_DYN
  ⟨0x10C, [(8, 32)], [⟨0, 32, .ro, 0, .any, false⟩], false, false⟩,  -- PS_CH_ACT_CFG
  ⟨0x110, [(8, 32)], [⟨0, 1, .sc, 0, .any, false⟩, ⟨1, 1, .sc, 0, .any, false⟩], false, false⟩,  -- PS_CH_CMD
  ⟨0x114, [(8, 32)], [⟨0, 3, .ro, 0, .any, false⟩, ⟨8, 4, .ro, 0, .any, false⟩, ⟨16, 13, .ro, 0, .any, false⟩], false, false⟩,  -- PS_CH_STAT
  ⟨0x118, [(8, 32)], [⟨0, 32, .cnt, 0, .any, false⟩], false, false⟩,  -- PS_CH_TRIPS
  ⟨0x11C, [(8, 32)], [⟨0, 32, .cnt, 0, .any, false⟩], false, false⟩ ]  -- PS_CH_CBC

/-- Registers of page PSM beside the header (chapter 12). -/
def regsPSM : List RegDesc :=
  [ ⟨0x040, [(8, 4)], [⟨0, 14, .rw, 0, .zeroOr 100 16383, false⟩, ⟨16, 16, .rw, 0, .any, false⟩], false, false⟩,  -- PSM_RAIL
  ⟨0x060, [(8, 4)], [⟨0, 16, .ro, 0, .any, false⟩], false, false⟩,  -- PSM_RAIL_V
  ⟨0x080, [], [⟨0, 6, .rw, 8, .range 2 32, false⟩, ⟨8, 8, .rw, 48, .range 8 240, false⟩, ⟨16, 12, .rw, 2048, .any, false⟩], false, false⟩,  -- PSM_DIAG
  ⟨0x084, [], [⟨0, 5, .rw, 8, .any, false⟩, ⟨8, 5, .rw, 16, .any, false⟩], false, false⟩,  -- PSM_LIM
  ⟨0x090, [(4, 8)], [⟨0, 16, .rw, 0, .any, false⟩, ⟨16, 16, .rw, 0, .any, false⟩], false, false⟩,  -- PSM_BAND_E
  ⟨0x094, [(4, 8)], [⟨0, 8, .rw, 0, .any, false⟩, ⟨31, 1, .rw, 0, .any, false⟩], false, false⟩,  -- PSM_BAND_M
  ⟨0x0B0, [], [⟨0, 32, .ro, 0, .any, false⟩], false, false⟩,  -- PSM_BAND_HIT
  ⟨0x0B4, [], [⟨0, 1, .ro, 0, .any, false⟩, ⟨1, 1, .ro, 0, .any, false⟩], false, false⟩,  -- PSM_MUTE
  ⟨0x0B8, [], [⟨0, 32, .ro, 0, .any, false⟩], false, false⟩ ]  -- PSM_FEED_CNT

/-- Registers of page MUL beside the header (chapter 13). -/
def regsMUL : List RegDesc :=
  [ ⟨0x040, [], [⟨0, 16, .rw, 4096, .range 16 65535, false⟩], false, false⟩,  -- MUL_BUDGET
  ⟨0x044, [], [⟨0, 10, .rw, 20, .range 1 1000, false⟩], false, false⟩,  -- MUL_TMO
  ⟨0x048, [], [⟨0, 32, .ro, 0, .any, false⟩], false, false⟩,  -- MUL_HFLAG
  ⟨0x04C, [], [⟨0, 32, .wo, 0, .any, false⟩], false, false⟩,  -- MUL_HFLAG_SET
  ⟨0x050, [], [⟨0, 32, .wo, 0, .any, false⟩], false, false⟩,  -- MUL_HFLAG_CLR
  ⟨0x054, [], [⟨0, 32, .cnt, 0, .any, false⟩], false, false⟩,  -- MUL_STOPS
  ⟨0x100, [(8, 64)], [⟨0, 1, .sc, 0, .any, false⟩, ⟨1, 1, .sc, 0, .any, false⟩], false, false⟩,  -- MUL_CTRL
  ⟨0x104, [(8, 64)], [⟨0, 32, .rw, 0x10000000, .any, false⟩], false, false⟩,  -- MUL_PROG
  ⟨0x108, [(8, 64)], [⟨0, 3, .ro, 0, .any, false⟩, ⟨8, 4, .ro, 0, .any, false⟩, ⟨16, 1, .ro, 0, .any, false⟩], false, false⟩,  -- MUL_STAT
  ⟨0x10C, [(8, 64)], [⟨0, 32, .ro, 0, .any, false⟩], false, false⟩,  -- MUL_PC
  ⟨0x110, [(8, 64)], [⟨0, 32, .ro, 0, .any, false⟩], false, false⟩,  -- MUL_CNT
  ⟨0x114, [(8, 64)], [⟨0, 32, .ro, 0, .any, false⟩], false, false⟩,  -- MUL_ERR_ADDR
  ⟨0x118, [(8, 64)], [⟨0, 7, .ro, 0, .any, false⟩], false, false⟩,  -- MUL_TAIL
  ⟨0x11C, [(8, 64)], [⟨0, 32, .ro, 0, .any, false⟩], false, false⟩,  -- MUL_SIG
  ⟨0x120, [(8, 64)], [⟨0, 32, .rw, 0x10000000, .any, false⟩], false, false⟩,  -- MUL_CUR0_BASE
  ⟨0x124, [(8, 64)], [⟨0, 5, .rw, 6, .any, false⟩], false, false⟩,  -- MUL_CUR0_CFG
  ⟨0x128, [(8, 64)], [⟨0, 26, .rw, 0, .any, false⟩], false, false⟩,  -- MUL_CUR0_OFS
  ⟨0x12C, [(8, 64)], [⟨0, 32, .rw, 0x10000000, .any, false⟩], false, false⟩,  -- MUL_CUR1_BASE
  ⟨0x130, [(8, 64)], [⟨0, 5, .rw, 6, .any, false⟩], false, false⟩,  -- MUL_CUR1_CFG
  ⟨0x134, [(8, 64)], [⟨0, 26, .rw, 0, .any, false⟩], false, false⟩,  -- MUL_CUR1_OFS
  ⟨0x138, [(8, 64)], [⟨0, 24, .rw, 83333, .any, false⟩], false, false⟩ ]  -- MUL_SLACK

/-- Registers of page FAB beside the header (chapter 14). -/
def regsFAB : List RegDesc :=
  [ ⟨0x040, [], [⟨0, 1, .rw, 0, .any, false⟩, ⟨8, 6, .rw, 8, .range 2 64, false⟩], false, false⟩,  -- FAB_CFG
  ⟨0x044, [], [⟨0, 16, .rw, 1000, .range 64 65535, false⟩], false, false⟩,  -- FAB_LOCK_WDT
  ⟨0x048, [], [⟨0, 24, .rw, 20000, .any, false⟩], false, false⟩,  -- FAB_HOST
  ⟨0x060, [], [⟨0, 32, .ro, 0, .any, false⟩], false, false⟩,  -- FAB_DERR_ADDR
  ⟨0x064, [], [⟨0, 5, .ro, 0, .any, false⟩, ⟨8, 1, .ro, 0, .any, false⟩, ⟨12, 4, .ro, 0, .any, false⟩], false, false⟩,  -- FAB_DERR_INFO
  ⟨0x068, [], [⟨0, 32, .cnt, 0, .any, false⟩], false, false⟩,  -- FAB_DERR_CNT
  ⟨0x070, [], [⟨0, 32, .ro, 0, .any, false⟩], false, false⟩,  -- FAB_LOCK_ADDR
  ⟨0x074, [], [⟨0, 5, .ro, 0, .any, false⟩, ⟨8, 2, .ro, 0, .any, false⟩, ⟨16, 16, .ro, 0, .any, false⟩], false, false⟩,  -- FAB_LOCK_INFO
  ⟨0x078, [], [⟨0, 32, .cnt, 0, .any, false⟩], false, false⟩,  -- FAB_LOCK_BRK
  ⟨0x07C, [], [⟨0, 32, .cnt, 0, .any, false⟩], false, false⟩,  -- FAB_LOCK_ABN
  ⟨0x080, [], [⟨0, 5, .ro, 0, .any, false⟩, ⟨8, 7, .ro, 0, .any, false⟩, ⟨16, 15, .ro, 0, .any, false⟩], false, false⟩,  -- FAB_RST_INFO
  ⟨0x084, [], [⟨0, 32, .cnt, 0, .any, false⟩], false, false⟩,  -- FAB_MRST_CNT
  ⟨0x088, [], [⟨0, 6, .rw, 0, .any, false⟩], false, false⟩,  -- FAB_WAIT_SEL
  ⟨0x08C, [], [⟨0, 16, .ro, 0, .any, false⟩], false, false⟩ ]  -- FAB_WAIT_MAX

/-- Registers of page SHM beside the header (chapter 14). -/
def regsSHM : List RegDesc :=
  [ ⟨0x040, [], [⟨0, 8, .rw, 16, .range 1 255, false⟩, ⟨16, 1, .rw, 1, .any, false⟩, ⟨17, 1, .sc, 0, .any, false⟩], false, false⟩,  -- SHM_SCRUB
  ⟨0x044, [], [⟨0, 16, .ro, 0, .any, false⟩, ⟨16, 1, .ro, 0, .any, false⟩], false, false⟩,  -- SHM_SCRUB_STAT
  ⟨0x048, [], [⟨0, 16, .ro, 0, .any, false⟩, ⟨16, 16, .ro, 0, .any, false⟩], false, false⟩,  -- SHM_PRIO_RES
  ⟨0x050, [(3, 4)], [⟨0, 32, .cnt, 0, .any, false⟩], false, false⟩,  -- SHM_CE
  ⟨0x060, [(3, 4)], [⟨0, 32, .cnt, 0, .any, false⟩], false, false⟩,  -- SHM_UE
  ⟨0x070, [], [⟨0, 32, .ro, 0, .any, false⟩], false, false⟩,  -- SHM_CE_ADDR
  ⟨0x074, [], [⟨0, 32, .ro, 0, .any, false⟩], false, false⟩,  -- SHM_UE_ADDR
  ⟨0x078, [], [⟨0, 5, .ro, 0, .any, false⟩, ⟨8, 2, .ro, 0, .any, false⟩, ⟨12, 1, .ro, 0, .any, false⟩], false, false⟩ ]  -- SHM_UE_INFO

/-- Registers of page LPM beside the header (chapter 15). -/
def regsLPM : List RegDesc :=
  [ ⟨0x040, [], [⟨0, 1, .ro, 0, .any, false⟩, ⟨1, 1, .ro, 0, .any, false⟩, ⟨2, 1, .ro, 0, .any, false⟩, ⟨3, 1, .ro, 0, .any, false⟩, ⟨4, 1, .ro, 0, .any, false⟩, ⟨5, 1, .ro, 0, .any, false⟩, ⟨6, 1, .ro, 0, .any, false⟩, ⟨7, 1, .ro, 0, .any, false⟩, ⟨16, 8, .ro, 0, .any, false⟩], false, false⟩,  -- LPM_STAT
  ⟨0x044, [], [⟨0, 32, .ro, 0, .any, false⟩], false, false⟩,  -- LPM_TIME_LO
  ⟨0x048, [], [⟨0, 32, .ro, 0, .any, false⟩], false, false⟩,  -- LPM_TIME_HI
  ⟨0x04C, [], [⟨0, 32, .ro, 0, .any, false⟩], false, false⟩,  -- LPM_UID_LO
  ⟨0x050, [], [⟨0, 32, .ro, 0, .any, false⟩], false, false⟩,  -- LPM_UID_HI
  ⟨0x054, [], [⟨0, 32, .ro, 0, .any, false⟩], false, false⟩,  -- LPM_HEAD
  ⟨0x058, [], [⟨0, 32, .ro, 0, .any, false⟩], false, false⟩,  -- LPM_TAIL
  ⟨0x05C, [], [⟨0, 16, .ro, 0, .any, false⟩], false, false⟩,  -- LPM_VER
  ⟨0x060, [], [⟨0, 1, .rw, 0, .any, false⟩], false, false⟩,  -- LPM_CFG
  ⟨0x064, [], [⟨0, 32, .rw, 0, .any, false⟩], false, false⟩,  -- LPM_REQ_SEQ
  ⟨0x068, [], [⟨0, 1, .sc, 0, .any, false⟩, ⟨8, 3, .ro, 0, .any, false⟩], false, false⟩,  -- LPM_REQ
  ⟨0x080, [(16, 4)], [⟨0, 32, .ro, 0, .any, false⟩], false, false⟩,  -- LPM_REC
  ⟨0x100, [(2, 64), (14, 4)], [⟨0, 16, .ro, 0, .any, false⟩], false, false⟩,  -- LPM_LIVE
  ⟨0x180, [], [⟨0, 16, .ro, 0, .any, false⟩, ⟨16, 8, .ro, 0, .any, false⟩, ⟨24, 2, .ro, 0, .any, false⟩], false, false⟩ ]  -- LPM_ALERT

/-- The registers of a page by its number (Table 2.5). -/
def pageRegs (page : Nat) : List RegDesc :=
  if page == 0x00 then regsDEV
  else if page == 0x01 then regsHST
  else if page == 0x02 then regsIRQ
  else if page == 0x03 then regsELOG
  else if page == 0x04 then regsPWR
  else if page == 0x05 then regsMODE
  else if page == 0x08 then regsTL
  else if page == 0x0F then regsSCH
  else if decide (0x10 ≤ page) && decide (page ≤ 0x1F) then regsFL
  else if page == 0x20 then regsMIX
  else if page == 0x21 then regsSRC
  else if decide (0x28 ≤ page) && decide (page ≤ 0x2F) then regsSAPG
  else if decide (0x30 ≤ page) && decide (page ≤ 0x33) then regsETH
  else if page == 0x34 then regsBR
  else if page == 0x38 then regsSTRX
  else if page == 0x39 then regsSTTX
  else if page == 0x3A then regsHRD
  else if page == 0x40 then regsPTP
  else if page == 0x41 then regsREF
  else if page == 0x42 then regsHOLD
  else if page == 0x48 then regsTW
  else if decide (0x50 ≤ page) && decide (page ≤ 0x53) then regsPS
  else if page == 0x54 then regsPSM
  else if decide (0x58 ≤ page) && decide (page ≤ 0x63) then regsMUL
  else if page == 0x68 then regsFAB
  else if page == 0x69 then regsSHM
  else if page == 0x70 then regsLPM
  else []

/-- The index path of offset remainder `r` in an array's dimensions, none outside it. -/
def dimsHit : List (Nat × Nat) → Nat → Bool
  | [], r => r == 0
  | (n, st) :: ds, r => decide (r / st < n) && dimsHit ds (r % st)

/-- The register of a page at a page offset. -/
def findReg (page off : Nat) : Option RegDesc :=
  (pageRegs page).find? fun d => decide (d.off ≤ off) && dimsHit d.dims (off - d.off)

/-- The word a register's fields reset to. -/
def RegDesc.resetVal (d : RegDesc) : Nat :=
  d.flds.foldl (fun a f => a + f.rst * 2 ^ f.lo) 0

/-- The pages of Table 2.5 by first page number, count and PAGE_ID.TYPE. -/
def pageTable : List (Nat × Nat × Nat) :=
  [(0x00, 1, 0x0001), (0x01, 1, 0x0002), (0x02, 1, 0x0003), (0x03, 1, 0x0004), (0x04, 1, 0x0005),
   (0x05, 1, 0x0006), (0x08, 1, 0x0008), (0x0F, 1, 0x000F), (0x10, 16, 0x0010), (0x20, 1, 0x0020),
   (0x21, 1, 0x0021), (0x28, 8, 0x0028), (0x30, 4, 0x0030), (0x34, 1, 0x0034), (0x38, 1, 0x0038),
   (0x39, 1, 0x0039), (0x3A, 1, 0x003A), (0x40, 1, 0x0040), (0x41, 1, 0x0041), (0x42, 1, 0x0042),
   (0x48, 1, 0x0048), (0x50, 4, 0x0050), (0x54, 1, 0x0054), (0x58, 12, 0x0058), (0x68, 1, 0x0068),
   (0x69, 1, 0x0069), (0x70, 1, 0x0070)]

/-- Whether a page number is in Table 2.5 (R46). -/
def isPage (page : Nat) : Bool :=
  pageTable.any fun (f, n, _) => decide (f ≤ page) && decide (page < f + n)

/-- The 66 page numbers of Table 2.5, ascending. -/
def allPages : List Nat := (List.range 0x71).filter isPage

/-- PAGE_ID of a page (R47). -/
def pageId (page : Nat) : Nat :=
  match pageTable.find? (fun (f, n, _) => decide (f ≤ page) && decide (page < f + n)) with
  | some (f, _, t) => t * 0x10000 + (page - f)
  | none => 0

/-- CTRL.ENABLE after reset: 0 on SAPG, ETH, PTP and PS, 1 elsewhere. DESIGN CHOICE for DEV, HST, IRQ,
ELOG and TL, whose chapters give none (log entry 9). -/
def enableReset (page : Nat) : Nat :=
  if (decide (0x28 ≤ page) && decide (page ≤ 0x2F)) || (decide (0x30 ≤ page) && decide (page ≤ 0x33))
    || page == 0x40 || (decide (0x50 ≤ page) && decide (page ≤ 0x53)) then 0 else 1

/-- What a register word reads as when nothing has been written to it: the Reset column (R11). -/
def resetWord (addr : Nat) : Word :=
  let page := addr / 0x1000 % 0x400
  let off := addr % 0x1000
  if off == 0x008 then BitVec.ofNat 32 (enableReset page)
  else if decide (off < 0x040) then 0
  else match findReg page off with
    | some d => BitVec.ofNat 32 d.resetVal
    | none => 0

/-- The fabric address of offset `off` of a page (R46). -/
def pageAddr (page off : Nat) : Nat := 0x40000000 + page * 0x1000 + off

/-! Fabric addresses of the registers by name (R4); `p` is the page's instance, `i j k` the indices. -/
namespace A

abbrev DEV_ID : Nat := 0x40000040
abbrev DEV_REV : Nat := 0x40000044
abbrev DEV_CS (i : Nat) : Nat := 0x40000080 + 4 * i
abbrev DEV_WDT_CTRL : Nat := 0x400000C0
abbrev DEV_WDT_KICK : Nat := 0x400000C4
abbrev HST_BAR2_BASE : Nat := 0x40001040
abbrev HST_QSPI_CFG : Nat := 0x40001044
abbrev HST_NMGT_CFG : Nat := 0x40001048
abbrev HST_WERR_ADDR : Nat := 0x4000104C
abbrev HST_NMGT_DROP : Nat := 0x40001050
abbrev HST_NMGT_SEQ_LO : Nat := 0x40001058
abbrev HST_NMGT_SEQ_HI : Nat := 0x4000105C
abbrev HST_NKEY (i : Nat) : Nat := 0x40001060 + 4 * i
abbrev IRQ_CFG : Nat := 0x40002040
abbrev IRQ_SUM0 (i : Nat) : Nat := 0x40002080 + 4 * i
abbrev IRQ_SUM1 (i : Nat) : Nat := 0x40002090 + 4 * i
abbrev ELOG_HEAD : Nat := 0x40003040
abbrev ELOG_REC (i : Nat) : Nat := 0x40003100 + 4 * i
abbrev PWR_RAIL_STAT : Nat := 0x40004040
abbrev PWR_MON_CFG : Nat := 0x40004044
abbrev PWR_MON_V : Nat := 0x40004048
abbrev PWR_BO : Nat := 0x4000404C
abbrev PWR_BO_CNT : Nat := 0x40004050
abbrev PWR_RST_CAUSE : Nat := 0x40004054
abbrev PWR_RST_CMD : Nat := 0x40004058
abbrev PWR_BOOT_STAT : Nat := 0x4000405C
abbrev PWR_BOOT_CTRL : Nat := 0x40004060
abbrev PWR_BOOT_VER : Nat := 0x40004064
abbrev PWR_FENCE_TMO : Nat := 0x40004068
abbrev PWR_DOM_STAT : Nat := 0x4000406C
abbrev PWR_DOM_CTRL : Nat := 0x40004070
abbrev PWR_FUSE : Nat := 0x40004074
abbrev PWR_BOOT_DIG (i : Nat) : Nat := 0x40004080 + 4 * i
abbrev PWR_KEYH (i : Nat) : Nat := 0x400040A0 + 4 * i
abbrev MODE_STAT : Nat := 0x40005040
abbrev MODE_REQ : Nat := 0x40005044
abbrev MODE_QRULE : Nat := 0x40005048
abbrev MODE_WAKE : Nat := 0x4000504C
abbrev TL_NOW_LO : Nat := 0x40008040
abbrev TL_NOW_HI : Nat := 0x40008044
abbrev TL_POS : Nat := 0x40008048
abbrev TL_OFS_LO : Nat := 0x40008050
abbrev TL_OFS_HI : Nat := 0x40008054
abbrev TL_DEV_CTRL : Nat := 0x40008060
abbrev TL_DEV_STAT : Nat := 0x40008064
abbrev TL_DEV_CHK : Nat := 0x40008068
abbrev TL_ACT_TL_LO (i : Nat) : Nat := 0x40008100 + 32 * i
abbrev TL_ACT_TL_HI (i : Nat) : Nat := 0x40008104 + 32 * i
abbrev TL_ACT_CTRL (i : Nat) : Nat := 0x40008108 + 32 * i
abbrev TL_ACT_ADDR (i : Nat) : Nat := 0x4000810C + 32 * i
abbrev TL_ACT_DATA (i : Nat) : Nat := 0x40008110 + 32 * i
abbrev SCH_CFG : Nat := 0x4000F040
abbrev SCH_CAP : Nat := 0x4000F044
abbrev SCH_GRAPH_ID : Nat := 0x4000F048
abbrev SCH_GRAPH_INFO : Nat := 0x4000F04C
abbrev SCH_LATE : Nat := 0x4000F050
abbrev SCH_LATE_LAST : Nat := 0x4000F054
abbrev SCH_RA : Nat := 0x4000F058
abbrev SCH_RERUN : Nat := 0x4000F05C
abbrev SCH_ABANDON : Nat := 0x4000F060
abbrev SCH_GOV : Nat := 0x4000F068
abbrev SCH_GOV_LAST : Nat := 0x4000F06C
abbrev SCH_GATE_STAT : Nat := 0x4000F070
abbrev FL_QUEUE (p : Nat) : Nat := 0x40010040 + 0x1000 * p
abbrev FL_CAP (p : Nat) : Nat := 0x40010044 + 0x1000 * p
abbrev FL_CAP_HEAD (p : Nat) : Nat := 0x40010048 + 0x1000 * p
abbrev FL_BUSY (p : Nat) : Nat := 0x4001004C + 0x1000 * p
abbrev FL_SLACK (p : Nat) : Nat := 0x40010050 + 0x1000 * p
abbrev FL_STEAL_IN (p : Nat) : Nat := 0x40010054 + 0x1000 * p
abbrev FL_STEAL_OUT (p : Nat) : Nat := 0x40010058 + 0x1000 * p
abbrev FL_LATE (p : Nat) : Nat := 0x4001005C + 0x1000 * p
abbrev FL_OVERRUN (p : Nat) : Nat := 0x40010060 + 0x1000 * p
abbrev FL_WIN_ERR (p : Nat) : Nat := 0x40010064 + 0x1000 * p
abbrev FL_ECC (p : Nat) : Nat := 0x40010068 + 0x1000 * p
abbrev FL_WIN_LAST (p : Nat) : Nat := 0x4001006C + 0x1000 * p
abbrev MIX_DIRECT_EN : Nat := 0x40020040
abbrev MIX_DIRECT_THRU : Nat := 0x40020044
abbrev MIX_STEP : Nat := 0x40020048
abbrev MIX_DLY_BASE : Nat := 0x4002004C
abbrev MIX_DLY_SIZE : Nat := 0x40020050
abbrev MIX_FIR_BASE : Nat := 0x40020054
abbrev MIX_FIR_SIZE : Nat := 0x40020058
abbrev MIX_LONG_USE : Nat := 0x4002005C
abbrev MIX_PATH_SEL : Nat := 0x40020060
abbrev MIX_PATH_LAT : Nat := 0x40020064
abbrev MIX_PATH_TAP : Nat := 0x40020068
abbrev MIX_BUS_SEL : Nat := 0x40020070
abbrev MIX_BUS_INFO : Nat := 0x40020074
abbrev MIX_BUS_SCALE : Nat := 0x40020078
abbrev MIX_CLAMP : Nat := 0x40020080
abbrev MIX_DIRECT_CNT : Nat := 0x40020084
abbrev MIX_MTR_CLR : Nat := 0x40020090
abbrev MIX_MTR_PK (i : Nat) : Nat := 0x40020100 + 16 * i
abbrev MIX_MTR_MS (i : Nat) : Nat := 0x40020104 + 16 * i
abbrev MIX_MTR_HOLD (i : Nat) : Nat := 0x40020108 + 16 * i
abbrev MIX_MTR_STAT (i : Nat) : Nat := 0x4002010C + 16 * i
abbrev SRC_USE : Nat := 0x40021040
abbrev SRC_CH_SEL : Nat := 0x40021044
abbrev SRC_CH_STAT : Nat := 0x40021048
abbrev SRC_CH_RATIO : Nat := 0x4002104C
abbrev SRC_TG_CFG (i : Nat) : Nat := 0x40021100 + 8 * i
abbrev SRC_TG_PARAM (i : Nat) : Nat := 0x40021104 + 8 * i
abbrev SRC_TG_ACT : Nat := 0x40021180
abbrev SAPG_CFG (p : Nat) : Nat := 0x40028040 + 0x1000 * p
abbrev SAPG_SLOTMASK_RX (p : Nat) : Nat := 0x40028044 + 0x1000 * p
abbrev SAPG_SLOTMASK_TX (p : Nat) : Nat := 0x40028048 + 0x1000 * p
abbrev SAPG_LANEFMT (p : Nat) : Nat := 0x4002804C + 0x1000 * p
abbrev SAPG_VMODE (p : Nat) : Nat := 0x40028050 + 0x1000 * p
abbrev SAPG_FWIN (p : Nat) : Nat := 0x40028054 + 0x1000 * p
abbrev SAPG_APPLY (p : Nat) : Nat := 0x40028058 + 0x1000 * p
abbrev SAPG_ACT_CFG (p : Nat) : Nat := 0x4002805C + 0x1000 * p
abbrev SAPG_ACT_MASK (p : Nat) : Nat := 0x40028060 + 0x1000 * p
abbrev SAPG_ACT_LANEFMT (p : Nat) : Nat := 0x40028064 + 0x1000 * p
abbrev SAPG_ACT_VMODE (p : Nat) : Nat := 0x40028068 + 0x1000 * p
abbrev SAPG_CLK_STAT (p : Nat) : Nat := 0x4002806C + 0x1000 * p
abbrev SAPG_BUF_RX (p : Nat) : Nat := 0x40028070 + 0x1000 * p
abbrev SAPG_BUF_TX (p : Nat) : Nat := 0x40028074 + 0x1000 * p
abbrev SAPG_BUF_LVL (p : Nat) : Nat := 0x40028078 + 0x1000 * p
abbrev SAPG_MULE (p : Nat) : Nat := 0x4002807C + 0x1000 * p
abbrev SAPG_CLKLOSS_CNT (p : Nat) : Nat := 0x40028080 + 0x1000 * p
abbrev SAPG_SLIP (p : Nat) : Nat := 0x40028084 + 0x1000 * p
abbrev SAPG_VCNT (p : Nat) : Nat := 0x40028088 + 0x1000 * p
abbrev SAPG_PERR (p : Nat) : Nat := 0x4002808C + 0x1000 * p
abbrev SAPG_CRCC_ERR (p : Nat) : Nat := 0x40028090 + 0x1000 * p
abbrev SAPG_BLK_ERR (p : Nat) : Nat := 0x40028094 + 0x1000 * p
abbrev SAPG_FRAME_ERR (p : Nat) : Nat := 0x40028098 + 0x1000 * p
abbrev SAPG_AES_STAT (p : Nat) : Nat := 0x400280A0 + 0x1000 * p
abbrev SAPG_AES_SEL (p : Nat) : Nat := 0x400280A4 + 0x1000 * p
abbrev SAPG_AES_RATE (p : Nat) : Nat := 0x400280A8 + 0x1000 * p
abbrev SAPG_CS (p i j : Nat) : Nat := 0x40028100 + 0x1000 * p + 32 * i + 4 * j
abbrev SAPG_USR (p i j : Nat) : Nat := 0x40028200 + 0x1000 * p + 32 * i + 4 * j
abbrev SAPG_TXCS (p i j : Nat) : Nat := 0x40028300 + 0x1000 * p + 32 * i + 4 * j
abbrev ETH_CFG (p : Nat) : Nat := 0x40030040 + 0x1000 * p
abbrev ETH_MAXLEN (p : Nat) : Nat := 0x40030044 + 0x1000 * p
abbrev ETH_PAUSE (p : Nat) : Nat := 0x40030048 + 0x1000 * p
abbrev ETH_PAUSE_HOLD (p : Nat) : Nat := 0x4003004C + 0x1000 * p
abbrev ETH_SERDES (p : Nat) : Nat := 0x40030050 + 0x1000 * p
abbrev ETH_WAKE (p : Nat) : Nat := 0x40030054 + 0x1000 * p
abbrev ETH_STAT (p : Nat) : Nat := 0x40030060 + 0x1000 * p
abbrev ETH_RX_OK (p : Nat) : Nat := 0x40030080 + 0x1000 * p
abbrev ETH_RX_FCS (p : Nat) : Nat := 0x40030084 + 0x1000 * p
abbrev ETH_RX_RUNT (p : Nat) : Nat := 0x40030088 + 0x1000 * p
abbrev ETH_RX_OVERSIZE (p : Nat) : Nat := 0x4003008C + 0x1000 * p
abbrev ETH_RX_VLAN (p : Nat) : Nat := 0x40030090 + 0x1000 * p
abbrev ETH_RX_PAUSE (p : Nat) : Nat := 0x40030094 + 0x1000 * p
abbrev ETH_RX_PAUSE_IGN (p : Nat) : Nat := 0x40030098 + 0x1000 * p
abbrev ETH_RX_PFC (p : Nat) : Nat := 0x4003009C + 0x1000 * p
abbrev ETH_TX_OK (p : Nat) : Nat := 0x400300A0 + 0x1000 * p
abbrev ETH_TX_STOMP (p : Nat) : Nat := 0x400300A4 + 0x1000 * p
abbrev ETH_TX_OVERSIZE (p : Nat) : Nat := 0x400300A8 + 0x1000 * p
abbrev ETH_TX_DROP (p : Nat) : Nat := 0x400300AC + 0x1000 * p
abbrev ETH_LINK_DOWN (p : Nat) : Nat := 0x400300B0 + 0x1000 * p
abbrev ETH_PAUSE_BROKEN (p : Nat) : Nat := 0x400300B4 + 0x1000 * p
abbrev ETH_AN_FAIL (p : Nat) : Nat := 0x400300B8 + 0x1000 * p
abbrev BR_CFG : Nat := 0x40034040
abbrev BR_MAC_LO : Nat := 0x40034044
abbrev BR_MAC_HI : Nat := 0x40034048
abbrev BR_NET_A : Nat := 0x40034050
abbrev BR_NET_B : Nat := 0x40034054
abbrev BR_RING_STAT : Nat := 0x40034058
abbrev BR_AGE : Nat := 0x4003405C
abbrev BR_PCP_MAP : Nat := 0x40034060
abbrev BR_ATU_CMD : Nat := 0x40034070
abbrev BR_ATU_IDX : Nat := 0x40034074
abbrev BR_ATU_E0 : Nat := 0x40034078
abbrev BR_ATU_E1 : Nat := 0x4003407C
abbrev BR_ATU_E2 : Nat := 0x40034080
abbrev BR_ATU_STAT : Nat := 0x40034084
abbrev BR_MDIO_CFG : Nat := 0x40034090
abbrev BR_MDIO_CMD : Nat := 0x40034094
abbrev BR_MDIO_DATA : Nat := 0x40034098
abbrev BR_WAKE_STAT : Nat := 0x400340A0
abbrev BR_LEARN_FULL : Nat := 0x400340C0
abbrev BR_FLOOD : Nat := 0x400340C4
abbrev BR_STREAM_NOENT : Nat := 0x400340C8
abbrev BR_CT : Nat := 0x400340CC
abbrev BR_RING_CHANGE : Nat := 0x400340D0
abbrev BR_VLAN0_A : Nat := 0x40034200
abbrev BR_VLAN0_B : Nat := 0x40034204
abbrev BR_VLANN_A (i : Nat) : Nat := 0x40034208 + 8 * i
abbrev BR_VLANN_B (i : Nat) : Nat := 0x4003420C + 8 * i
abbrev BR_WAKE_CRC (i : Nat) : Nat := 0x40034800 + 4 * i
abbrev BR_WAKE_MASK (i : Nat) : Nat := 0x40034C00 + 4 * i
abbrev STRX_CFG : Nat := 0x40038040
abbrev STRX_APPLY : Nat := 0x40038044
abbrev STRX_USE : Nat := 0x40038048
abbrev STRX_NOSTREAM : Nat := 0x4003804C
abbrev STRX_SEL : Nat := 0x40038060
abbrev STRX_ST : Nat := 0x40038064
abbrev STRX_ST_MARGIN : Nat := 0x40038068
abbrev STRX_CNT (i : Nat) : Nat := 0x40038070 + 4 * i
abbrev STTX_IPV4 : Nat := 0x40039040
abbrev STTX_IPHDR : Nat := 0x40039044
abbrev STTX_APPLY : Nat := 0x40039048
abbrev STTX_USE : Nat := 0x4003904C
abbrev STTX_SEL : Nat := 0x40039060
abbrev STTX_SENT : Nat := 0x40039064
abbrev STTX_FLAGGED : Nat := 0x40039068
abbrev HRD_CFG (i : Nat) : Nat := 0x4003A100 + 4 * i
abbrev HRD_ACT (i : Nat) : Nat := 0x4003A180 + 4 * i
abbrev HRD_STAT (i : Nat) : Nat := 0x4003A200 + 8 * i
abbrev HRD_UNDER (i : Nat) : Nat := 0x4003A204 + 8 * i
abbrev PTP_CFG : Nat := 0x40040040
abbrev PTP_TC_CFG : Nat := 0x40040044
abbrev PTP_INTV : Nat := 0x40040048
abbrev PTP_PRIO : Nat := 0x4004004C
abbrev PTP_SERVO : Nat := 0x40040050
abbrev PTP_STEP : Nat := 0x40040054
abbrev PTP_LOCK : Nat := 0x40040058
abbrev PTP_STAT : Nat := 0x40040060
abbrev PTP_OFFSET : Nat := 0x40040064
abbrev PTP_MPD : Nat := 0x40040068
abbrev PTP_FREQ : Nat := 0x4004006C
abbrev PTP_GMID_LO : Nat := 0x40040070
abbrev PTP_GMID_HI : Nat := 0x40040074
abbrev PTP_GMQ : Nat := 0x40040078
abbrev PTP_NOW_SLO : Nat := 0x40040080
abbrev PTP_NOW_SHI : Nat := 0x40040084
abbrev PTP_NOW_NS : Nat := 0x40040088
abbrev PTP_TOD_LO : Nat := 0x40040090
abbrev PTP_TOD_HI : Nat := 0x40040094
abbrev PTP_LINK_DLY (i : Nat) : Nat := 0x400400A0 + 4 * i
abbrev PTP_RX_SYNC : Nat := 0x400400C0
abbrev PTP_RX_ANN : Nat := 0x400400C4
abbrev PTP_STEPS : Nat := 0x400400C8
abbrev PTP_MASTER_CHG : Nat := 0x400400CC
abbrev PTP_SYNC_LOST : Nat := 0x400400D0
abbrev REF_CFG : Nat := 0x40041040
abbrev REF_WTR : Nat := 0x40041044
abbrev REF_LOCK : Nat := 0x40041048
abbrev REF_SWT : Nat := 0x4004104C
abbrev REF_FWIN : Nat := 0x40041050
abbrev REF_GUARD : Nat := 0x40041054
abbrev REF_DPLL : Nat := 0x40041058
abbrev REF_FORCE : Nat := 0x4004105C
abbrev REF_WCK : Nat := 0x40041060
abbrev REF_AESQ : Nat := 0x40041064
abbrev REF_HOLDQ : Nat := 0x40041068
abbrev REF_STAT : Nat := 0x40041070
abbrev REF_PHASE : Nat := 0x40041074
abbrev REF_DAC : Nat := 0x40041078
abbrev REF_OUT_Q : Nat := 0x4004107C
abbrev REF_SWITCH : Nat := 0x40041080
abbrev REF_HOLD_CNT : Nat := 0x40041084
abbrev REF_DISQ : Nat := 0x40041088
abbrev REF_CAND (i : Nat) : Nat := 0x40041100 + 16 * i
abbrev REF_CAND_AES (i : Nat) : Nat := 0x40041120 + 16 * i
abbrev REF_CAND_HI (i : Nat) : Nat := 0x40041160 + 16 * i
abbrev REF_QUAL (i : Nat) : Nat := 0x40041104 + 16 * i
abbrev REF_CSTAT (i : Nat) : Nat := 0x40041108 + 16 * i
abbrev REF_CFREQ (i : Nat) : Nat := 0x4004110C + 16 * i
abbrev HOLD_CFG : Nat := 0x40042040
abbrev HOLD_T0 : Nat := 0x40042044
abbrev HOLD_TC1 : Nat := 0x40042048
abbrev HOLD_TC2 : Nat := 0x4004204C
abbrev HOLD_TC3 : Nat := 0x40042050
abbrev HOLD_THERM : Nat := 0x40042054
abbrev HOLD_VCXO : Nat := 0x40042058
abbrev HOLD_AGE : Nat := 0x4004205C
abbrev HOLD_AGE_A : Nat := 0x40042060
abbrev HOLD_AGE_B : Nat := 0x40042064
abbrev HOLD_AGE_H : Nat := 0x40042068
abbrev HOLD_TEMP : Nat := 0x4004206C
abbrev HOLD_FREQ : Nat := 0x40042070
abbrev HOLD_ELAPSED : Nat := 0x40042074
abbrev HOLD_SPEC : Nat := 0x40042078
abbrev HOLD_HIST_AVAIL : Nat := 0x4004207C
abbrev TW_CFG : Nat := 0x40048040
abbrev TW_HB_TMO : Nat := 0x40048044
abbrev TW_NHB_MISS : Nat := 0x40048048
abbrev TW_REL : Nat := 0x4004804C
abbrev TW_CTRL : Nat := 0x40048050
abbrev TW_STAT : Nat := 0x40048054
abbrev TW_PEER : Nat := 0x40048058
abbrev TW_ALIGN : Nat := 0x4004805C
abbrev TW_COPY : Nat := 0x40048060
abbrev TW_LAST_HO : Nat := 0x40048064
abbrev TW_LAST_HO_TL_LO : Nat := 0x40048068
abbrev TW_LAST_HO_TL_HI : Nat := 0x4004806C
abbrev TW_DIG_LO : Nat := 0x40048070
abbrev TW_DIG_HI : Nat := 0x40048074
abbrev TW_DIG_PEER_LO : Nat := 0x40048078
abbrev TW_DIG_PEER_HI : Nat := 0x4004807C
abbrev TW_CDA_LO : Nat := 0x40048080
abbrev TW_CDA_HI : Nat := 0x40048084
abbrev TW_CDL_LO : Nat := 0x40048088
abbrev TW_CDL_HI : Nat := 0x4004808C
abbrev TW_MISMATCH : Nat := 0x400480A0
abbrev TW_RESYNC : Nat := 0x400480A4
abbrev TW_HANDOVER : Nat := 0x400480A8
abbrev TW_RELQ_CNT : Nat := 0x400480AC
abbrev TW_HB_LOSS : Nat := 0x400480B0
abbrev TW_NHB_LOSS : Nat := 0x400480B4
abbrev TW_LINK_DOWN : Nat := 0x400480B8
abbrev TW_LANE_FAIL : Nat := 0x400480BC
abbrev TW_NHB_BAD : Nat := 0x400480C0
abbrev PS_DT (p : Nat) : Nat := 0x40050040 + 0x1000 * p
abbrev PS_CH_CFG (p i : Nat) : Nat := 0x40050100 + 0x1000 * p + 32 * i
abbrev PS_CH_LIM (p i : Nat) : Nat := 0x40050104 + 0x1000 * p + 32 * i
abbrev PS_CH_DYN (p i : Nat) : Nat := 0x40050108 + 0x1000 * p + 32 * i
abbrev PS_CH_ACT_CFG (p i : Nat) : Nat := 0x4005010C + 0x1000 * p + 32 * i
abbrev PS_CH_CMD (p i : Nat) : Nat := 0x40050110 + 0x1000 * p + 32 * i
abbrev PS_CH_STAT (p i : Nat) : Nat := 0x40050114 + 0x1000 * p + 32 * i
abbrev PS_CH_TRIPS (p i : Nat) : Nat := 0x40050118 + 0x1000 * p + 32 * i
abbrev PS_CH_CBC (p i : Nat) : Nat := 0x4005011C + 0x1000 * p + 32 * i
abbrev PSM_RAIL (i : Nat) : Nat := 0x40054040 + 4 * i
abbrev PSM_RAIL_V (i : Nat) : Nat := 0x40054060 + 4 * i
abbrev PSM_DIAG : Nat := 0x40054080
abbrev PSM_LIM : Nat := 0x40054084
abbrev PSM_BAND_E (i : Nat) : Nat := 0x40054090 + 8 * i
abbrev PSM_BAND_M (i : Nat) : Nat := 0x40054094 + 8 * i
abbrev PSM_BAND_HIT : Nat := 0x400540B0
abbrev PSM_MUTE : Nat := 0x400540B4
abbrev PSM_FEED_CNT : Nat := 0x400540B8
abbrev MUL_BUDGET (p : Nat) : Nat := 0x40058040 + 0x1000 * p
abbrev MUL_TMO (p : Nat) : Nat := 0x40058044 + 0x1000 * p
abbrev MUL_HFLAG (p : Nat) : Nat := 0x40058048 + 0x1000 * p
abbrev MUL_HFLAG_SET (p : Nat) : Nat := 0x4005804C + 0x1000 * p
abbrev MUL_HFLAG_CLR (p : Nat) : Nat := 0x40058050 + 0x1000 * p
abbrev MUL_STOPS (p : Nat) : Nat := 0x40058054 + 0x1000 * p
abbrev MUL_CTRL (p i : Nat) : Nat := 0x40058100 + 0x1000 * p + 64 * i
abbrev MUL_PROG (p i : Nat) : Nat := 0x40058104 + 0x1000 * p + 64 * i
abbrev MUL_STAT (p i : Nat) : Nat := 0x40058108 + 0x1000 * p + 64 * i
abbrev MUL_PC (p i : Nat) : Nat := 0x4005810C + 0x1000 * p + 64 * i
abbrev MUL_CNT (p i : Nat) : Nat := 0x40058110 + 0x1000 * p + 64 * i
abbrev MUL_ERR_ADDR (p i : Nat) : Nat := 0x40058114 + 0x1000 * p + 64 * i
abbrev MUL_TAIL (p i : Nat) : Nat := 0x40058118 + 0x1000 * p + 64 * i
abbrev MUL_SIG (p i : Nat) : Nat := 0x4005811C + 0x1000 * p + 64 * i
abbrev MUL_CUR0_BASE (p i : Nat) : Nat := 0x40058120 + 0x1000 * p + 64 * i
abbrev MUL_CUR0_CFG (p i : Nat) : Nat := 0x40058124 + 0x1000 * p + 64 * i
abbrev MUL_CUR0_OFS (p i : Nat) : Nat := 0x40058128 + 0x1000 * p + 64 * i
abbrev MUL_CUR1_BASE (p i : Nat) : Nat := 0x4005812C + 0x1000 * p + 64 * i
abbrev MUL_CUR1_CFG (p i : Nat) : Nat := 0x40058130 + 0x1000 * p + 64 * i
abbrev MUL_CUR1_OFS (p i : Nat) : Nat := 0x40058134 + 0x1000 * p + 64 * i
abbrev MUL_SLACK (p i : Nat) : Nat := 0x40058138 + 0x1000 * p + 64 * i
abbrev FAB_CFG : Nat := 0x40068040
abbrev FAB_LOCK_WDT : Nat := 0x40068044
abbrev FAB_HOST : Nat := 0x40068048
abbrev FAB_DERR_ADDR : Nat := 0x40068060
abbrev FAB_DERR_INFO : Nat := 0x40068064
abbrev FAB_DERR_CNT : Nat := 0x40068068
abbrev FAB_LOCK_ADDR : Nat := 0x40068070
abbrev FAB_LOCK_INFO : Nat := 0x40068074
abbrev FAB_LOCK_BRK : Nat := 0x40068078
abbrev FAB_LOCK_ABN : Nat := 0x4006807C
abbrev FAB_RST_INFO : Nat := 0x40068080
abbrev FAB_MRST_CNT : Nat := 0x40068084
abbrev FAB_WAIT_SEL : Nat := 0x40068088
abbrev FAB_WAIT_MAX : Nat := 0x4006808C
abbrev SHM_SCRUB : Nat := 0x40069040
abbrev SHM_SCRUB_STAT : Nat := 0x40069044
abbrev SHM_PRIO_RES : Nat := 0x40069048
abbrev SHM_CE (i : Nat) : Nat := 0x40069050 + 4 * i
abbrev SHM_UE (i : Nat) : Nat := 0x40069060 + 4 * i
abbrev SHM_CE_ADDR : Nat := 0x40069070
abbrev SHM_UE_ADDR : Nat := 0x40069074
abbrev SHM_UE_INFO : Nat := 0x40069078
abbrev LPM_STAT : Nat := 0x40070040
abbrev LPM_TIME_LO : Nat := 0x40070044
abbrev LPM_TIME_HI : Nat := 0x40070048
abbrev LPM_UID_LO : Nat := 0x4007004C
abbrev LPM_UID_HI : Nat := 0x40070050
abbrev LPM_HEAD : Nat := 0x40070054
abbrev LPM_TAIL : Nat := 0x40070058
abbrev LPM_VER : Nat := 0x4007005C
abbrev LPM_CFG : Nat := 0x40070060
abbrev LPM_REQ_SEQ : Nat := 0x40070064
abbrev LPM_REQ : Nat := 0x40070068
abbrev LPM_REC (i : Nat) : Nat := 0x40070080 + 4 * i
abbrev LPM_LIVE (i j : Nat) : Nat := 0x40070100 + 64 * i + 4 * j
abbrev LPM_ALERT : Nat := 0x40070180

end A

/-! Page numbers (Table 2.5). -/
namespace Pg
abbrev DEV : Nat := 0x00
abbrev HST : Nat := 0x01
abbrev IRQ : Nat := 0x02
abbrev ELOG : Nat := 0x03
abbrev PWR : Nat := 0x04
abbrev MODE : Nat := 0x05
abbrev TL : Nat := 0x08
abbrev SCH : Nat := 0x0F
abbrev FL (p : Nat) : Nat := 0x10 + p
abbrev MIX : Nat := 0x20
abbrev SRC : Nat := 0x21
abbrev SAPG (p : Nat) : Nat := 0x28 + p
abbrev ETH (p : Nat) : Nat := 0x30 + p
abbrev BR : Nat := 0x34
abbrev STRX : Nat := 0x38
abbrev STTX : Nat := 0x39
abbrev HRD : Nat := 0x3A
abbrev PTP : Nat := 0x40
abbrev REF : Nat := 0x41
abbrev HOLD : Nat := 0x42
abbrev TW : Nat := 0x48
abbrev PS (p : Nat) : Nat := 0x50 + p
abbrev PSM : Nat := 0x54
abbrev MUL (p : Nat) : Nat := 0x58 + p
abbrev FAB : Nat := 0x68
abbrev SHM : Nat := 0x69
abbrev LPM : Nat := 0x70

end Pg

end Sys2Proof.Machine
end

