-- ==== Sys2Proof/Machine/RegFields.lean ====
section
/-! DEFINITION. The register fields by name (R4): PAGE_REGISTER_FIELD is the fabric address of the register,
the field's lowest bit and its width; `p` is the page's instance, `i j k` the indices. -/

namespace Sys2Proof.Machine

/-- A field of a register: fabric address, lowest bit, width. -/
structure RField where
  addr : Nat
  lo : Nat
  w : Nat
  deriving DecidableEq, Repr

namespace R

/-! Page DEV. -/
abbrev DEV_ID_ID : RField := ⟨A.DEV_ID, 0, 32⟩
abbrev DEV_REV_SI_REV : RField := ⟨A.DEV_REV, 0, 8⟩
abbrev DEV_REV_ROM_VER : RField := ⟨A.DEV_REV, 8, 16⟩
abbrev DEV_CS_CS (i : Nat) : RField := ⟨(A.DEV_CS i), 0, 32⟩
abbrev DEV_WDT_CTRL_EN : RField := ⟨A.DEV_WDT_CTRL, 0, 1⟩
abbrev DEV_WDT_CTRL_ACTION : RField := ⟨A.DEV_WDT_CTRL, 1, 3⟩
abbrev DEV_WDT_CTRL_PERIOD : RField := ⟨A.DEV_WDT_CTRL, 8, 24⟩
abbrev DEV_WDT_KICK_KICK : RField := ⟨A.DEV_WDT_KICK, 0, 32⟩

/-! Page HST. -/
abbrev HST_BAR2_BASE_BASE : RField := ⟨A.HST_BAR2_BASE, 0, 4⟩
abbrev HST_QSPI_CFG_DUMMY : RField := ⟨A.HST_QSPI_CFG, 0, 6⟩
abbrev HST_NMGT_CFG_EN : RField := ⟨A.HST_NMGT_CFG, 0, 1⟩
abbrev HST_NMGT_CFG_KEY_VALID : RField := ⟨A.HST_NMGT_CFG, 1, 1⟩
abbrev HST_NMGT_CFG_VID : RField := ⟨A.HST_NMGT_CFG, 4, 12⟩
abbrev HST_WERR_ADDR_ADDR : RField := ⟨A.HST_WERR_ADDR, 0, 32⟩
abbrev HST_NMGT_DROP_COUNT : RField := ⟨A.HST_NMGT_DROP, 0, 32⟩
abbrev HST_NMGT_SEQ_LO_SEQ : RField := ⟨A.HST_NMGT_SEQ_LO, 0, 32⟩
abbrev HST_NMGT_SEQ_HI_SEQ : RField := ⟨A.HST_NMGT_SEQ_HI, 0, 32⟩
abbrev HST_NKEY_KEY (i : Nat) : RField := ⟨(A.HST_NKEY i), 0, 32⟩

/-! Page IRQ. -/
abbrev IRQ_CFG_PP0 : RField := ⟨A.IRQ_CFG, 0, 1⟩
abbrev IRQ_CFG_PP1 : RField := ⟨A.IRQ_CFG, 1, 1⟩
abbrev IRQ_SUM0_SUM (i : Nat) : RField := ⟨(A.IRQ_SUM0 i), 0, 32⟩
abbrev IRQ_SUM1_SUM (i : Nat) : RField := ⟨(A.IRQ_SUM1 i), 0, 32⟩

/-! Page ELOG. -/
abbrev ELOG_HEAD_SEQ : RField := ⟨A.ELOG_HEAD, 0, 32⟩
abbrev ELOG_REC_WORD (i : Nat) : RField := ⟨(A.ELOG_REC i), 0, 32⟩

/-! Page PWR. -/
abbrev PWR_RAIL_STAT_CORE_WARN : RField := ⟨A.PWR_RAIL_STAT, 0, 1⟩
abbrev PWR_RAIL_STAT_MEM_WARN : RField := ⟨A.PWR_RAIL_STAT, 1, 1⟩
abbrev PWR_RAIL_STAT_IOA_3V3 : RField := ⟨A.PWR_RAIL_STAT, 4, 1⟩
abbrev PWR_MON_CFG_CORE_NOM : RField := ⟨A.PWR_MON_CFG, 0, 10⟩
abbrev PWR_MON_V_CORE : RField := ⟨A.PWR_MON_V, 0, 10⟩
abbrev PWR_MON_V_MEM : RField := ⟨A.PWR_MON_V, 16, 10⟩
abbrev PWR_BO_DATA : RField := ⟨A.PWR_BO, 0, 32⟩
abbrev PWR_BO_CNT_COUNT : RField := ⟨A.PWR_BO_CNT, 0, 32⟩
abbrev PWR_RST_CAUSE_CAUSE : RField := ⟨A.PWR_RST_CAUSE, 0, 4⟩
abbrev PWR_RST_CMD_DEVICE : RField := ⟨A.PWR_RST_CMD, 0, 1⟩
abbrev PWR_BOOT_STAT_CODE : RField := ⟨A.PWR_BOOT_STAT, 0, 4⟩
abbrev PWR_BOOT_STAT_SRC : RField := ⟨A.PWR_BOOT_STAT, 8, 2⟩
abbrev PWR_BOOT_STAT_UNSEALED : RField := ⟨A.PWR_BOOT_STAT, 12, 1⟩
abbrev PWR_BOOT_STAT_WAIT_PUSH : RField := ⟨A.PWR_BOOT_STAT, 13, 1⟩
abbrev PWR_BOOT_CTRL_PUSH : RField := ⟨A.PWR_BOOT_CTRL, 0, 1⟩
abbrev PWR_BOOT_VER_VER : RField := ⟨A.PWR_BOOT_VER, 0, 32⟩
abbrev PWR_FENCE_TMO_US : RField := ⟨A.PWR_FENCE_TMO, 0, 10⟩
abbrev PWR_DOM_STAT_FLOCK : RField := ⟨A.PWR_DOM_STAT, 0, 16⟩
abbrev PWR_DOM_STAT_ETH : RField := ⟨A.PWR_DOM_STAT, 16, 4⟩
abbrev PWR_DOM_STAT_AUDIO : RField := ⟨A.PWR_DOM_STAT, 20, 1⟩
abbrev PWR_DOM_STAT_TWL : RField := ⟨A.PWR_DOM_STAT, 21, 1⟩
abbrev PWR_DOM_CTRL_TWL_OFF : RField := ⟨A.PWR_DOM_CTRL, 0, 1⟩
abbrev PWR_FUSE_PROG : RField := ⟨A.PWR_FUSE, 0, 1⟩
abbrev PWR_FUSE_KEYH_SET : RField := ⟨A.PWR_FUSE, 8, 1⟩
abbrev PWR_FUSE_BUSY : RField := ⟨A.PWR_FUSE, 9, 1⟩
abbrev PWR_BOOT_DIG_DIG (i : Nat) : RField := ⟨(A.PWR_BOOT_DIG i), 0, 32⟩
abbrev PWR_KEYH_KEYH (i : Nat) : RField := ⟨(A.PWR_KEYH i), 0, 32⟩

/-! Page MODE. -/
abbrev MODE_STAT_CUR : RField := ⟨A.MODE_STAT, 0, 3⟩
abbrev MODE_STAT_PREV : RField := ⟨A.MODE_STAT, 4, 3⟩
abbrev MODE_STAT_PEND : RField := ⟨A.MODE_STAT, 8, 1⟩
abbrev MODE_STAT_TGT : RField := ⟨A.MODE_STAT, 12, 3⟩
abbrev MODE_STAT_AUDIO_READY : RField := ⟨A.MODE_STAT, 16, 1⟩
abbrev MODE_REQ_TGT : RField := ⟨A.MODE_REQ, 0, 3⟩
abbrev MODE_REQ_GO : RField := ⟨A.MODE_REQ, 4, 1⟩
abbrev MODE_QRULE_SUPPLY : RField := ⟨A.MODE_QRULE, 0, 1⟩
abbrev MODE_QRULE_SUP_MS : RField := ⟨A.MODE_QRULE, 8, 8⟩
abbrev MODE_WAKE_PIN_EN : RField := ⟨A.MODE_WAKE, 0, 1⟩
abbrev MODE_WAKE_SRC : RField := ⟨A.MODE_WAKE, 8, 4⟩

/-! Page TL. -/
abbrev TL_NOW_LO_TL : RField := ⟨A.TL_NOW_LO, 0, 32⟩
abbrev TL_NOW_HI_TL : RField := ⟨A.TL_NOW_HI, 0, 32⟩
abbrev TL_POS_TICK : RField := ⟨A.TL_POS, 0, 10⟩
abbrev TL_POS_SRC_PTP : RField := ⟨A.TL_POS, 16, 1⟩
abbrev TL_OFS_LO_OFS : RField := ⟨A.TL_OFS_LO, 0, 32⟩
abbrev TL_OFS_HI_OFS : RField := ⟨A.TL_OFS_HI, 0, 32⟩
abbrev TL_DEV_CTRL_KEEP : RField := ⟨A.TL_DEV_CTRL, 0, 1⟩
abbrev TL_DEV_CTRL_REFILL : RField := ⟨A.TL_DEV_CTRL, 1, 1⟩
abbrev TL_DEV_STAT_STATE : RField := ⟨A.TL_DEV_STAT, 0, 3⟩
abbrev TL_DEV_STAT_SLOT : RField := ⟨A.TL_DEV_STAT, 8, 5⟩
abbrev TL_DEV_STAT_COUNT : RField := ⟨A.TL_DEV_STAT, 16, 16⟩
abbrev TL_DEV_CHK_CODE : RField := ⟨A.TL_DEV_CHK, 0, 8⟩
abbrev TL_DEV_CHK_OFFSET : RField := ⟨A.TL_DEV_CHK, 8, 23⟩
abbrev TL_ACT_TL_LO_TL (i : Nat) : RField := ⟨(A.TL_ACT_TL_LO i), 0, 32⟩
abbrev TL_ACT_TL_HI_TL (i : Nat) : RField := ⟨(A.TL_ACT_TL_HI i), 0, 32⟩
abbrev TL_ACT_CTRL_TYPE (i : Nat) : RField := ⟨(A.TL_ACT_CTRL i), 0, 4⟩
abbrev TL_ACT_CTRL_ARM (i : Nat) : RField := ⟨(A.TL_ACT_CTRL i), 4, 1⟩
abbrev TL_ACT_CTRL_CANCEL (i : Nat) : RField := ⟨(A.TL_ACT_CTRL i), 5, 1⟩
abbrev TL_ACT_CTRL_STATE (i : Nat) : RField := ⟨(A.TL_ACT_CTRL i), 8, 3⟩
abbrev TL_ACT_CTRL_PATH (i : Nat) : RField := ⟨(A.TL_ACT_CTRL i), 28, 4⟩
abbrev TL_ACT_ADDR_ADDR (i : Nat) : RField := ⟨(A.TL_ACT_ADDR i), 0, 32⟩
abbrev TL_ACT_DATA_DATA (i : Nat) : RField := ⟨(A.TL_ACT_DATA i), 0, 32⟩

/-! Page SCH. -/
abbrev SCH_CFG_STEAL_EN : RField := ⟨A.SCH_CFG, 0, 1⟩
abbrev SCH_CFG_RA_EN : RField := ⟨A.SCH_CFG, 1, 1⟩
abbrev SCH_CFG_RANGE : RField := ⟨A.SCH_CFG, 4, 2⟩
abbrev SCH_CFG_STEAL_MIN : RField := ⟨A.SCH_CFG, 8, 8⟩
abbrev SCH_CAP_LIMIT : RField := ⟨A.SCH_CAP, 0, 7⟩
abbrev SCH_CAP_OVH : RField := ⟨A.SCH_CAP, 16, 16⟩
abbrev SCH_GRAPH_ID_ID : RField := ⟨A.SCH_GRAPH_ID, 0, 32⟩
abbrev SCH_GRAPH_INFO_NJOB : RField := ⟨A.SCH_GRAPH_INFO, 0, 16⟩
abbrev SCH_GRAPH_INFO_NPROG : RField := ⟨A.SCH_GRAPH_INFO, 16, 9⟩
abbrev SCH_GRAPH_INFO_DEPTH : RField := ⟨A.SCH_GRAPH_INFO, 28, 4⟩
abbrev SCH_LATE_COUNT : RField := ⟨A.SCH_LATE, 0, 32⟩
abbrev SCH_LATE_LAST_INST : RField := ⟨A.SCH_LATE_LAST, 0, 16⟩
abbrev SCH_LATE_LAST_PROG : RField := ⟨A.SCH_LATE_LAST, 16, 8⟩
abbrev SCH_LATE_LAST_FLOCK : RField := ⟨A.SCH_LATE_LAST, 24, 4⟩
abbrev SCH_RA_COUNT : RField := ⟨A.SCH_RA, 0, 32⟩
abbrev SCH_RERUN_COUNT : RField := ⟨A.SCH_RERUN, 0, 32⟩
abbrev SCH_ABANDON_COUNT : RField := ⟨A.SCH_ABANDON, 0, 32⟩
abbrev SCH_GOV_COUNT : RField := ⟨A.SCH_GOV, 0, 32⟩
abbrev SCH_GOV_LAST_INST : RField := ⟨A.SCH_GOV_LAST, 0, 16⟩
abbrev SCH_GOV_LAST_PROG : RField := ⟨A.SCH_GOV_LAST, 16, 8⟩
abbrev SCH_GOV_LAST_FLOCK : RField := ⟨A.SCH_GOV_LAST, 24, 4⟩
abbrev SCH_GATE_STAT_GATED : RField := ⟨A.SCH_GATE_STAT, 0, 16⟩
abbrev SCH_GATE_STAT_PEND : RField := ⟨A.SCH_GATE_STAT, 16, 16⟩

/-! Page FL. -/
abbrev FL_QUEUE_DEPTH (p : Nat) : RField := ⟨(A.FL_QUEUE p), 0, 13⟩
abbrev FL_QUEUE_PEAK (p : Nat) : RField := ⟨(A.FL_QUEUE p), 16, 13⟩
abbrev FL_CAP_LOAD (p : Nat) : RField := ⟨(A.FL_CAP p), 0, 11⟩
abbrev FL_CAP_TIGHT (p : Nat) : RField := ⟨(A.FL_CAP p), 16, 10⟩
abbrev FL_CAP_HEAD_HEAD (p : Nat) : RField := ⟨(A.FL_CAP_HEAD p), 0, 32⟩
abbrev FL_BUSY_LAST (p : Nat) : RField := ⟨(A.FL_BUSY p), 0, 11⟩
abbrev FL_BUSY_PEAK (p : Nat) : RField := ⟨(A.FL_BUSY p), 16, 11⟩
abbrev FL_SLACK_MIN (p : Nat) : RField := ⟨(A.FL_SLACK p), 0, 10⟩
abbrev FL_STEAL_IN_COUNT (p : Nat) : RField := ⟨(A.FL_STEAL_IN p), 0, 32⟩
abbrev FL_STEAL_OUT_COUNT (p : Nat) : RField := ⟨(A.FL_STEAL_OUT p), 0, 32⟩
abbrev FL_LATE_COUNT (p : Nat) : RField := ⟨(A.FL_LATE p), 0, 32⟩
abbrev FL_OVERRUN_COUNT (p : Nat) : RField := ⟨(A.FL_OVERRUN p), 0, 32⟩
abbrev FL_WIN_ERR_COUNT (p : Nat) : RField := ⟨(A.FL_WIN_ERR p), 0, 32⟩
abbrev FL_ECC_COUNT (p : Nat) : RField := ⟨(A.FL_ECC p), 0, 32⟩
abbrev FL_WIN_LAST_INST (p : Nat) : RField := ⟨(A.FL_WIN_LAST p), 0, 16⟩

/-! Page MIX. -/
abbrev MIX_DIRECT_EN_EN : RField := ⟨A.MIX_DIRECT_EN, 0, 1⟩
abbrev MIX_DIRECT_THRU_EN : RField := ⟨A.MIX_DIRECT_THRU, 0, 1⟩
abbrev MIX_STEP_DB : RField := ⟨A.MIX_STEP, 0, 5⟩
abbrev MIX_STEP_TMO : RField := ⟨A.MIX_STEP, 16, 7⟩
abbrev MIX_DLY_BASE_ADDR : RField := ⟨A.MIX_DLY_BASE, 0, 32⟩
abbrev MIX_DLY_SIZE_SIZE : RField := ⟨A.MIX_DLY_SIZE, 0, 27⟩
abbrev MIX_FIR_BASE_ADDR : RField := ⟨A.MIX_FIR_BASE, 0, 32⟩
abbrev MIX_FIR_SIZE_SIZE : RField := ⟨A.MIX_FIR_SIZE, 0, 25⟩
abbrev MIX_LONG_USE_LINES : RField := ⟨A.MIX_LONG_USE, 0, 7⟩
abbrev MIX_PATH_SEL_ECH : RField := ⟨A.MIX_PATH_SEL, 0, 12⟩
abbrev MIX_PATH_LAT_LAT : RField := ⟨A.MIX_PATH_LAT, 0, 16⟩
abbrev MIX_PATH_LAT_N : RField := ⟨A.MIX_PATH_LAT, 16, 4⟩
abbrev MIX_PATH_LAT_VALID : RField := ⟨A.MIX_PATH_LAT, 20, 1⟩
abbrev MIX_PATH_LAT_CONV : RField := ⟨A.MIX_PATH_LAT, 24, 8⟩
abbrev MIX_PATH_TAP_TAP : RField := ⟨A.MIX_PATH_TAP, 0, 18⟩
abbrev MIX_BUS_SEL_BUS : RField := ⟨A.MIX_BUS_SEL, 0, 10⟩
abbrev MIX_BUS_INFO_NACT : RField := ⟨A.MIX_BUS_INFO, 0, 12⟩
abbrev MIX_BUS_INFO_K : RField := ⟨A.MIX_BUS_INFO, 12, 4⟩
abbrev MIX_BUS_INFO_STEPPING : RField := ⟨A.MIX_BUS_INFO, 16, 1⟩
abbrev MIX_BUS_INFO_XFADE : RField := ⟨A.MIX_BUS_INFO, 17, 1⟩
abbrev MIX_BUS_SCALE_S : RField := ⟨A.MIX_BUS_SCALE, 0, 32⟩
abbrev MIX_CLAMP_COUNT : RField := ⟨A.MIX_CLAMP, 0, 32⟩
abbrev MIX_DIRECT_CNT_COUNT : RField := ⟨A.MIX_DIRECT_CNT, 0, 32⟩
abbrev MIX_MTR_CLR_CLR : RField := ⟨A.MIX_MTR_CLR, 0, 32⟩
abbrev MIX_MTR_PK_PK (i : Nat) : RField := ⟨(A.MIX_MTR_PK i), 0, 32⟩
abbrev MIX_MTR_MS_MS (i : Nat) : RField := ⟨(A.MIX_MTR_MS i), 0, 32⟩
abbrev MIX_MTR_HOLD_HOLD (i : Nat) : RField := ⟨(A.MIX_MTR_HOLD i), 0, 32⟩
abbrev MIX_MTR_STAT_TAINT (i : Nat) : RField := ⟨(A.MIX_MTR_STAT i), 0, 1⟩
abbrev MIX_MTR_STAT_FULL (i : Nat) : RField := ⟨(A.MIX_MTR_STAT i), 1, 1⟩

/-! Page SRC. -/
abbrev SRC_USE_IN : RField := ⟨A.SRC_USE, 0, 9⟩
abbrev SRC_USE_OUT : RField := ⟨A.SRC_USE, 16, 9⟩
abbrev SRC_CH_SEL_SEL : RField := ⟨A.SRC_CH_SEL, 0, 8⟩
abbrev SRC_CH_STAT_CHAN : RField := ⟨A.SRC_CH_STAT, 0, 12⟩
abbrev SRC_CH_STAT_DIR : RField := ⟨A.SRC_CH_STAT, 12, 1⟩
abbrev SRC_CH_STAT_LOCK : RField := ⟨A.SRC_CH_STAT, 16, 1⟩
abbrev SRC_CH_STAT_RANGE : RField := ⟨A.SRC_CH_STAT, 17, 1⟩
abbrev SRC_CH_STAT_USED : RField := ⟨A.SRC_CH_STAT, 31, 1⟩
abbrev SRC_CH_RATIO_RATIO : RField := ⟨A.SRC_CH_RATIO, 0, 32⟩
abbrev SRC_TG_CFG_TYPE (i : Nat) : RField := ⟨(A.SRC_TG_CFG i), 0, 2⟩
abbrev SRC_TG_CFG_LEVEL (i : Nat) : RField := ⟨(A.SRC_TG_CFG i), 16, 16⟩
abbrev SRC_TG_PARAM_VALUE (i : Nat) : RField := ⟨(A.SRC_TG_PARAM i), 0, 19⟩
abbrev SRC_TG_ACT_TYPES : RField := ⟨A.SRC_TG_ACT, 0, 32⟩

/-! Page SAPG. -/
abbrev SAPG_CFG_MASTER (p : Nat) : RField := ⟨(A.SAPG_CFG p), 0, 1⟩
abbrev SAPG_CFG_BUFLOOP (p : Nat) : RField := ⟨(A.SAPG_CFG p), 1, 1⟩
abbrev SAPG_CFG_FMT (p : Nat) : RField := ⟨(A.SAPG_CFG p), 2, 1⟩
abbrev SAPG_CFG_FS (p : Nat) : RField := ⟨(A.SAPG_CFG p), 4, 3⟩
abbrev SAPG_CFG_WLEN (p : Nat) : RField := ⟨(A.SAPG_CFG p), 8, 2⟩
abbrev SAPG_CFG_SLOT (p : Nat) : RField := ⟨(A.SAPG_CFG p), 10, 2⟩
abbrev SAPG_CFG_BUF (p : Nat) : RField := ⟨(A.SAPG_CFG p), 12, 2⟩
abbrev SAPG_SLOTMASK_RX_EN (p : Nat) : RField := ⟨(A.SAPG_SLOTMASK_RX p), 0, 16⟩
abbrev SAPG_SLOTMASK_TX_EN (p : Nat) : RField := ⟨(A.SAPG_SLOTMASK_TX p), 0, 16⟩
abbrev SAPG_LANEFMT_RX_BP (p : Nat) : RField := ⟨(A.SAPG_LANEFMT p), 0, 8⟩
abbrev SAPG_LANEFMT_TX_BP (p : Nat) : RField := ⟨(A.SAPG_LANEFMT p), 16, 8⟩
abbrev SAPG_VMODE_PASS (p : Nat) : RField := ⟨(A.SAPG_VMODE p), 0, 8⟩
abbrev SAPG_FWIN_PPM (p : Nat) : RField := ⟨(A.SAPG_FWIN p), 0, 16⟩
abbrev SAPG_APPLY_NEXT (p : Nat) : RField := ⟨(A.SAPG_APPLY p), 0, 1⟩
abbrev SAPG_ACT_CFG_CFG (p : Nat) : RField := ⟨(A.SAPG_ACT_CFG p), 0, 32⟩
abbrev SAPG_ACT_MASK_RX (p : Nat) : RField := ⟨(A.SAPG_ACT_MASK p), 0, 16⟩
abbrev SAPG_ACT_MASK_TX (p : Nat) : RField := ⟨(A.SAPG_ACT_MASK p), 16, 16⟩
abbrev SAPG_ACT_LANEFMT_FMT (p : Nat) : RField := ⟨(A.SAPG_ACT_LANEFMT p), 0, 32⟩
abbrev SAPG_ACT_VMODE_PASS (p : Nat) : RField := ⟨(A.SAPG_ACT_VMODE p), 0, 8⟩
abbrev SAPG_CLK_STAT_PRESENT (p : Nat) : RField := ⟨(A.SAPG_CLK_STAT p), 0, 1⟩
abbrev SAPG_CLK_STAT_LOST (p : Nat) : RField := ⟨(A.SAPG_CLK_STAT p), 1, 1⟩
abbrev SAPG_CLK_STAT_QUAL (p : Nat) : RField := ⟨(A.SAPG_CLK_STAT p), 2, 1⟩
abbrev SAPG_CLK_STAT_OFFSET (p : Nat) : RField := ⟨(A.SAPG_CLK_STAT p), 16, 16⟩
abbrev SAPG_BUF_RX_ADDR (p : Nat) : RField := ⟨(A.SAPG_BUF_RX p), 0, 32⟩
abbrev SAPG_BUF_TX_ADDR (p : Nat) : RField := ⟨(A.SAPG_BUF_TX p), 0, 32⟩
abbrev SAPG_BUF_LVL_L (p : Nat) : RField := ⟨(A.SAPG_BUF_LVL p), 0, 16⟩
abbrev SAPG_MULE_IN (p : Nat) : RField := ⟨(A.SAPG_MULE p), 0, 7⟩
abbrev SAPG_MULE_OUT (p : Nat) : RField := ⟨(A.SAPG_MULE p), 8, 7⟩
abbrev SAPG_CLKLOSS_CNT_COUNT (p : Nat) : RField := ⟨(A.SAPG_CLKLOSS_CNT p), 0, 32⟩
abbrev SAPG_SLIP_COUNT (p : Nat) : RField := ⟨(A.SAPG_SLIP p), 0, 32⟩
abbrev SAPG_VCNT_COUNT (p : Nat) : RField := ⟨(A.SAPG_VCNT p), 0, 32⟩
abbrev SAPG_PERR_COUNT (p : Nat) : RField := ⟨(A.SAPG_PERR p), 0, 32⟩
abbrev SAPG_CRCC_ERR_COUNT (p : Nat) : RField := ⟨(A.SAPG_CRCC_ERR p), 0, 32⟩
abbrev SAPG_BLK_ERR_COUNT (p : Nat) : RField := ⟨(A.SAPG_BLK_ERR p), 0, 32⟩
abbrev SAPG_FRAME_ERR_COUNT (p : Nat) : RField := ⟨(A.SAPG_FRAME_ERR p), 0, 32⟩
abbrev SAPG_AES_STAT_LOCK (p : Nat) : RField := ⟨(A.SAPG_AES_STAT p), 0, 8⟩
abbrev SAPG_AES_STAT_PRO (p : Nat) : RField := ⟨(A.SAPG_AES_STAT p), 8, 8⟩
abbrev SAPG_AES_STAT_CS_DIFF (p : Nat) : RField := ⟨(A.SAPG_AES_STAT p), 16, 8⟩
abbrev SAPG_AES_SEL_LANE (p : Nat) : RField := ⟨(A.SAPG_AES_SEL p), 0, 3⟩
abbrev SAPG_AES_RATE_HZ (p : Nat) : RField := ⟨(A.SAPG_AES_RATE p), 0, 18⟩
abbrev SAPG_CS_CS (p i j : Nat) : RField := ⟨(A.SAPG_CS p i j), 0, 32⟩
abbrev SAPG_USR_USR (p i j : Nat) : RField := ⟨(A.SAPG_USR p i j), 0, 32⟩
abbrev SAPG_TXCS_TXCS (p i j : Nat) : RField := ⟨(A.SAPG_TXCS p i j), 0, 32⟩

/-! Page ETH. -/
abbrev ETH_CFG_MODE (p : Nat) : RField := ⟨(A.ETH_CFG p), 0, 2⟩
abbrev ETH_CFG_FEC (p : Nat) : RField := ⟨(A.ETH_CFG p), 2, 2⟩
abbrev ETH_CFG_AN_EN (p : Nat) : RField := ⟨(A.ETH_CFG p), 4, 1⟩
abbrev ETH_CFG_TX_INV (p : Nat) : RField := ⟨(A.ETH_CFG p), 5, 1⟩
abbrev ETH_CFG_RX_INV (p : Nat) : RField := ⟨(A.ETH_CFG p), 6, 1⟩
abbrev ETH_CFG_DEF_PCP (p : Nat) : RField := ⟨(A.ETH_CFG p), 8, 3⟩
abbrev ETH_CFG_PVID (p : Nat) : RField := ⟨(A.ETH_CFG p), 16, 12⟩
abbrev ETH_MAXLEN_LEN (p : Nat) : RField := ⟨(A.ETH_MAXLEN p), 0, 14⟩
abbrev ETH_PAUSE_WDT (p : Nat) : RField := ⟨(A.ETH_PAUSE p), 0, 17⟩
abbrev ETH_PAUSE_HOLD_MS (p : Nat) : RField := ⟨(A.ETH_PAUSE_HOLD p), 0, 16⟩
abbrev ETH_SERDES_TX_AMP (p : Nat) : RField := ⟨(A.ETH_SERDES p), 0, 5⟩
abbrev ETH_SERDES_TX_PRE (p : Nat) : RField := ⟨(A.ETH_SERDES p), 5, 4⟩
abbrev ETH_SERDES_TX_POST (p : Nat) : RField := ⟨(A.ETH_SERDES p), 9, 5⟩
abbrev ETH_WAKE_PAT_EN (p : Nat) : RField := ⟨(A.ETH_WAKE p), 0, 8⟩
abbrev ETH_WAKE_KEEP (p : Nat) : RField := ⟨(A.ETH_WAKE p), 8, 1⟩
abbrev ETH_STAT_LINK (p : Nat) : RField := ⟨(A.ETH_STAT p), 0, 1⟩
abbrev ETH_STAT_AN_DONE (p : Nat) : RField := ⟨(A.ETH_STAT p), 1, 1⟩
abbrev ETH_STAT_FEC_LOCK (p : Nat) : RField := ⟨(A.ETH_STAT p), 2, 1⟩
abbrev ETH_STAT_PAUSED (p : Nat) : RField := ⟨(A.ETH_STAT p), 3, 1⟩
abbrev ETH_STAT_HOLD (p : Nat) : RField := ⟨(A.ETH_STAT p), 4, 1⟩
abbrev ETH_STAT_BLOCKED (p : Nat) : RField := ⟨(A.ETH_STAT p), 5, 1⟩
abbrev ETH_RX_OK_COUNT (p : Nat) : RField := ⟨(A.ETH_RX_OK p), 0, 32⟩
abbrev ETH_RX_FCS_COUNT (p : Nat) : RField := ⟨(A.ETH_RX_FCS p), 0, 32⟩
abbrev ETH_RX_RUNT_COUNT (p : Nat) : RField := ⟨(A.ETH_RX_RUNT p), 0, 32⟩
abbrev ETH_RX_OVERSIZE_COUNT (p : Nat) : RField := ⟨(A.ETH_RX_OVERSIZE p), 0, 32⟩
abbrev ETH_RX_VLAN_COUNT (p : Nat) : RField := ⟨(A.ETH_RX_VLAN p), 0, 32⟩
abbrev ETH_RX_PAUSE_COUNT (p : Nat) : RField := ⟨(A.ETH_RX_PAUSE p), 0, 32⟩
abbrev ETH_RX_PAUSE_IGN_COUNT (p : Nat) : RField := ⟨(A.ETH_RX_PAUSE_IGN p), 0, 32⟩
abbrev ETH_RX_PFC_COUNT (p : Nat) : RField := ⟨(A.ETH_RX_PFC p), 0, 32⟩
abbrev ETH_TX_OK_COUNT (p : Nat) : RField := ⟨(A.ETH_TX_OK p), 0, 32⟩
abbrev ETH_TX_STOMP_COUNT (p : Nat) : RField := ⟨(A.ETH_TX_STOMP p), 0, 32⟩
abbrev ETH_TX_OVERSIZE_COUNT (p : Nat) : RField := ⟨(A.ETH_TX_OVERSIZE p), 0, 32⟩
abbrev ETH_TX_DROP_COUNT (p : Nat) : RField := ⟨(A.ETH_TX_DROP p), 0, 32⟩
abbrev ETH_LINK_DOWN_COUNT (p : Nat) : RField := ⟨(A.ETH_LINK_DOWN p), 0, 32⟩
abbrev ETH_PAUSE_BROKEN_COUNT (p : Nat) : RField := ⟨(A.ETH_PAUSE_BROKEN p), 0, 32⟩
abbrev ETH_AN_FAIL_COUNT (p : Nat) : RField := ⟨(A.ETH_AN_FAIL p), 0, 32⟩

/-! Page BR. -/
abbrev BR_CFG_LEARN : RField := ⟨A.BR_CFG, 0, 1⟩
abbrev BR_CFG_CT_EN : RField := ⟨A.BR_CFG, 1, 1⟩
abbrev BR_MAC_LO_MAC : RField := ⟨A.BR_MAC_LO, 0, 32⟩
abbrev BR_MAC_HI_MAC : RField := ⟨A.BR_MAC_HI, 0, 16⟩
abbrev BR_NET_A_RING : RField := ⟨A.BR_NET_A, 0, 1⟩
abbrev BR_NET_A_MANAGER : RField := ⟨A.BR_NET_A, 1, 1⟩
abbrev BR_NET_A_TMO : RField := ⟨A.BR_NET_A, 8, 4⟩
abbrev BR_NET_B_RING : RField := ⟨A.BR_NET_B, 0, 1⟩
abbrev BR_NET_B_MANAGER : RField := ⟨A.BR_NET_B, 1, 1⟩
abbrev BR_NET_B_TMO : RField := ⟨A.BR_NET_B, 8, 4⟩
abbrev BR_RING_STAT_A_STATE : RField := ⟨A.BR_RING_STAT, 0, 3⟩
abbrev BR_RING_STAT_B_STATE : RField := ⟨A.BR_RING_STAT, 4, 3⟩
abbrev BR_AGE_SEC : RField := ⟨A.BR_AGE, 0, 12⟩
abbrev BR_PCP_MAP_MAP : RField := ⟨A.BR_PCP_MAP, 0, 24⟩
abbrev BR_ATU_CMD_OP : RField := ⟨A.BR_ATU_CMD, 0, 3⟩
abbrev BR_ATU_CMD_GO : RField := ⟨A.BR_ATU_CMD, 4, 1⟩
abbrev BR_ATU_CMD_PORTS : RField := ⟨A.BR_ATU_CMD, 8, 5⟩
abbrev BR_ATU_IDX_IDX : RField := ⟨A.BR_ATU_IDX, 0, 12⟩
abbrev BR_ATU_E0_MAC : RField := ⟨A.BR_ATU_E0, 0, 32⟩
abbrev BR_ATU_E1_MAC : RField := ⟨A.BR_ATU_E1, 0, 16⟩
abbrev BR_ATU_E1_VID : RField := ⟨A.BR_ATU_E1, 16, 12⟩
abbrev BR_ATU_E2_PORTS : RField := ⟨A.BR_ATU_E2, 0, 5⟩
abbrev BR_ATU_E2_STATIC : RField := ⟨A.BR_ATU_E2, 8, 1⟩
abbrev BR_ATU_E2_STREAM : RField := ⟨A.BR_ATU_E2, 9, 1⟩
abbrev BR_ATU_E2_VALID : RField := ⟨A.BR_ATU_E2, 10, 1⟩
abbrev BR_ATU_E2_QUEUE : RField := ⟨A.BR_ATU_E2, 12, 3⟩
abbrev BR_ATU_STAT_USED : RField := ⟨A.BR_ATU_STAT, 0, 13⟩
abbrev BR_ATU_STAT_STATICS : RField := ⟨A.BR_ATU_STAT, 16, 13⟩
abbrev BR_MDIO_CFG_DIV : RField := ⟨A.BR_MDIO_CFG, 0, 10⟩
abbrev BR_MDIO_CMD_OP : RField := ⟨A.BR_MDIO_CMD, 0, 2⟩
abbrev BR_MDIO_CMD_CL45 : RField := ⟨A.BR_MDIO_CMD, 2, 1⟩
abbrev BR_MDIO_CMD_PHY : RField := ⟨A.BR_MDIO_CMD, 8, 5⟩
abbrev BR_MDIO_CMD_REG : RField := ⟨A.BR_MDIO_CMD, 16, 5⟩
abbrev BR_MDIO_CMD_NORESP : RField := ⟨A.BR_MDIO_CMD, 29, 1⟩
abbrev BR_MDIO_CMD_BUSY : RField := ⟨A.BR_MDIO_CMD, 30, 1⟩
abbrev BR_MDIO_CMD_GO : RField := ⟨A.BR_MDIO_CMD, 31, 1⟩
abbrev BR_MDIO_DATA_DATA : RField := ⟨A.BR_MDIO_DATA, 0, 16⟩
abbrev BR_WAKE_STAT_PAT : RField := ⟨A.BR_WAKE_STAT, 0, 3⟩
abbrev BR_WAKE_STAT_PORT : RField := ⟨A.BR_WAKE_STAT, 4, 3⟩
abbrev BR_WAKE_STAT_VALID : RField := ⟨A.BR_WAKE_STAT, 7, 1⟩
abbrev BR_LEARN_FULL_COUNT : RField := ⟨A.BR_LEARN_FULL, 0, 32⟩
abbrev BR_FLOOD_COUNT : RField := ⟨A.BR_FLOOD, 0, 32⟩
abbrev BR_STREAM_NOENT_COUNT : RField := ⟨A.BR_STREAM_NOENT, 0, 32⟩
abbrev BR_CT_COUNT : RField := ⟨A.BR_CT, 0, 32⟩
abbrev BR_RING_CHANGE_COUNT : RField := ⟨A.BR_RING_CHANGE, 0, 32⟩
abbrev BR_VLAN0_A_VID : RField := ⟨A.BR_VLAN0_A, 0, 12⟩
abbrev BR_VLAN0_A_VALID : RField := ⟨A.BR_VLAN0_A, 15, 1⟩
abbrev BR_VLAN0_B_MEMBER : RField := ⟨A.BR_VLAN0_B, 0, 5⟩
abbrev BR_VLAN0_B_UNTAG : RField := ⟨A.BR_VLAN0_B, 8, 5⟩
abbrev BR_VLANN_A_VID (i : Nat) : RField := ⟨(A.BR_VLANN_A i), 0, 12⟩
abbrev BR_VLANN_A_VALID (i : Nat) : RField := ⟨(A.BR_VLANN_A i), 15, 1⟩
abbrev BR_VLANN_B_MEMBER (i : Nat) : RField := ⟨(A.BR_VLANN_B i), 0, 5⟩
abbrev BR_VLANN_B_UNTAG (i : Nat) : RField := ⟨(A.BR_VLANN_B i), 8, 5⟩
abbrev BR_WAKE_CRC_CRC (i : Nat) : RField := ⟨(A.BR_WAKE_CRC i), 0, 16⟩
abbrev BR_WAKE_MASK_MASK (i : Nat) : RField := ⟨(A.BR_WAKE_MASK i), 0, 32⟩

/-! Page STRX. -/
abbrev STRX_CFG_UND_TICK : RField := ⟨A.STRX_CFG, 0, 10⟩
abbrev STRX_CFG_AHEAD : RField := ⟨A.STRX_CFG, 16, 7⟩
abbrev STRX_APPLY_NEXT : RField := ⟨A.STRX_APPLY, 0, 1⟩
abbrev STRX_USE_STREAMS : RField := ⟨A.STRX_USE, 0, 9⟩
abbrev STRX_USE_AES67_CH : RField := ⟨A.STRX_USE, 16, 9⟩
abbrev STRX_NOSTREAM_COUNT : RField := ⟨A.STRX_NOSTREAM, 0, 32⟩
abbrev STRX_SEL_STREAM : RField := ⟨A.STRX_SEL, 0, 8⟩
abbrev STRX_ST_STATE : RField := ⟨A.STRX_ST, 0, 2⟩
abbrev STRX_ST_SRC_SEEN : RField := ⟨A.STRX_ST, 4, 4⟩
abbrev STRX_ST_UNDER : RField := ⟨A.STRX_ST, 8, 1⟩
abbrev STRX_ST_TAINT : RField := ⟨A.STRX_ST, 9, 1⟩
abbrev STRX_ST_MARGIN_MARGIN : RField := ⟨A.STRX_ST_MARGIN, 0, 16⟩
abbrev STRX_CNT_COUNT (i : Nat) : RField := ⟨(A.STRX_CNT i), 0, 32⟩

/-! Page STTX. -/
abbrev STTX_IPV4_ADDR : RField := ⟨A.STTX_IPV4, 0, 32⟩
abbrev STTX_IPHDR_TTL : RField := ⟨A.STTX_IPHDR, 0, 8⟩
abbrev STTX_IPHDR_DSCP : RField := ⟨A.STTX_IPHDR, 8, 6⟩
abbrev STTX_APPLY_NEXT : RField := ⟨A.STTX_APPLY, 0, 1⟩
abbrev STTX_USE_STREAMS : RField := ⟨A.STTX_USE, 0, 8⟩
abbrev STTX_USE_AES67_CH : RField := ⟨A.STTX_USE, 16, 9⟩
abbrev STTX_SEL_STREAM : RField := ⟨A.STTX_SEL, 0, 7⟩
abbrev STTX_SENT_COUNT : RField := ⟨A.STTX_SENT, 0, 32⟩
abbrev STTX_FLAGGED_COUNT : RField := ⟨A.STTX_FLAGGED, 0, 32⟩

/-! Page HRD. -/
abbrev HRD_CFG_GANGED (i : Nat) : RField := ⟨(A.HRD_CFG i), 0, 1⟩
abbrev HRD_CFG_RX_OFS (i : Nat) : RField := ⟨(A.HRD_CFG i), 16, 10⟩
abbrev HRD_ACT_ACT (i : Nat) : RField := ⟨(A.HRD_ACT i), 0, 32⟩
abbrev HRD_STAT_MEMBERS (i : Nat) : RField := ⟨(A.HRD_STAT i), 0, 9⟩
abbrev HRD_STAT_UNDER (i : Nat) : RField := ⟨(A.HRD_STAT i), 16, 1⟩
abbrev HRD_UNDER_COUNT (i : Nat) : RField := ⟨(A.HRD_UNDER i), 0, 32⟩

/-! Page PTP. -/
abbrev PTP_CFG_PROFILE : RField := ⟨A.PTP_CFG, 0, 2⟩
abbrev PTP_CFG_ROLE : RField := ⟨A.PTP_CFG, 4, 2⟩
abbrev PTP_CFG_STEP_EN : RField := ⟨A.PTP_CFG, 8, 1⟩
abbrev PTP_CFG_DOMAIN : RField := ⟨A.PTP_CFG, 16, 8⟩
abbrev PTP_TC_CFG_P2P : RField := ⟨A.PTP_TC_CFG, 0, 1⟩
abbrev PTP_INTV_SYNC : RField := ⟨A.PTP_INTV, 0, 4⟩
abbrev PTP_INTV_ANN : RField := ⟨A.PTP_INTV, 4, 4⟩
abbrev PTP_INTV_DLY : RField := ⟨A.PTP_INTV, 8, 4⟩
abbrev PTP_INTV_SYNC_TMO : RField := ⟨A.PTP_INTV, 16, 4⟩
abbrev PTP_INTV_ANN_TMO : RField := ⟨A.PTP_INTV, 20, 4⟩
abbrev PTP_PRIO_PRIO1 : RField := ⟨A.PTP_PRIO, 0, 8⟩
abbrev PTP_PRIO_PRIO2 : RField := ⟨A.PTP_PRIO, 8, 8⟩
abbrev PTP_SERVO_KP : RField := ⟨A.PTP_SERVO, 0, 16⟩
abbrev PTP_SERVO_KI : RField := ⟨A.PTP_SERVO, 16, 16⟩
abbrev PTP_STEP_NS : RField := ⟨A.PTP_STEP, 0, 24⟩
abbrev PTP_LOCK_NS : RField := ⟨A.PTP_LOCK, 0, 16⟩
abbrev PTP_LOCK_COUNT : RField := ⟨A.PTP_LOCK, 16, 8⟩
abbrev PTP_STAT_STATE : RField := ⟨A.PTP_STAT, 0, 3⟩
abbrev PTP_STAT_LOCK : RField := ⟨A.PTP_STAT, 4, 1⟩
abbrev PTP_STAT_HOLD : RField := ⟨A.PTP_STAT, 5, 1⟩
abbrev PTP_STAT_GM : RField := ⟨A.PTP_STAT, 6, 1⟩
abbrev PTP_STAT_PORT : RField := ⟨A.PTP_STAT, 8, 2⟩
abbrev PTP_OFFSET_O : RField := ⟨A.PTP_OFFSET, 0, 32⟩
abbrev PTP_MPD_D : RField := ⟨A.PTP_MPD, 0, 32⟩
abbrev PTP_FREQ_ADJ : RField := ⟨A.PTP_FREQ, 0, 32⟩
abbrev PTP_GMID_LO_ID : RField := ⟨A.PTP_GMID_LO, 0, 32⟩
abbrev PTP_GMID_HI_ID : RField := ⟨A.PTP_GMID_HI, 0, 32⟩
abbrev PTP_GMQ_Q : RField := ⟨A.PTP_GMQ, 0, 16⟩
abbrev PTP_GMQ_PRIO1 : RField := ⟨A.PTP_GMQ, 16, 8⟩
abbrev PTP_NOW_SLO_S : RField := ⟨A.PTP_NOW_SLO, 0, 32⟩
abbrev PTP_NOW_SHI_S : RField := ⟨A.PTP_NOW_SHI, 0, 16⟩
abbrev PTP_NOW_NS_NS : RField := ⟨A.PTP_NOW_NS, 0, 30⟩
abbrev PTP_TOD_LO_S : RField := ⟨A.PTP_TOD_LO, 0, 32⟩
abbrev PTP_TOD_HI_S : RField := ⟨A.PTP_TOD_HI, 0, 16⟩
abbrev PTP_LINK_DLY_NS (i : Nat) : RField := ⟨(A.PTP_LINK_DLY i), 0, 24⟩
abbrev PTP_LINK_DLY_VALID (i : Nat) : RField := ⟨(A.PTP_LINK_DLY i), 31, 1⟩
abbrev PTP_RX_SYNC_COUNT : RField := ⟨A.PTP_RX_SYNC, 0, 32⟩
abbrev PTP_RX_ANN_COUNT : RField := ⟨A.PTP_RX_ANN, 0, 32⟩
abbrev PTP_STEPS_COUNT : RField := ⟨A.PTP_STEPS, 0, 32⟩
abbrev PTP_MASTER_CHG_COUNT : RField := ⟨A.PTP_MASTER_CHG, 0, 32⟩
abbrev PTP_SYNC_LOST_COUNT : RField := ⟨A.PTP_SYNC_LOST, 0, 32⟩

/-! Page REF. -/
abbrev REF_CFG_SVC : RField := ⟨A.REF_CFG, 0, 2⟩
abbrev REF_CFG_REVERT : RField := ⟨A.REF_CFG, 4, 1⟩
abbrev REF_CFG_QMAX : RField := ⟨A.REF_CFG, 16, 16⟩
abbrev REF_WTR_S : RField := ⟨A.REF_WTR, 0, 10⟩
abbrev REF_LOCK_NS : RField := ⟨A.REF_LOCK, 0, 16⟩
abbrev REF_LOCK_MS : RField := ⟨A.REF_LOCK, 16, 16⟩
abbrev REF_SWT_S : RField := ⟨A.REF_SWT, 0, 6⟩
abbrev REF_FWIN_PPM : RField := ⟨A.REF_FWIN, 0, 16⟩
abbrev REF_FWIN_RATE : RField := ⟨A.REF_FWIN, 16, 16⟩
abbrev REF_GUARD_S : RField := ⟨A.REF_GUARD, 0, 10⟩
abbrev REF_DPLL_BW : RField := ⟨A.REF_DPLL, 0, 4⟩
abbrev REF_DPLL_PSL : RField := ⟨A.REF_DPLL, 16, 16⟩
abbrev REF_FORCE_CAND : RField := ⟨A.REF_FORCE, 0, 3⟩
abbrev REF_FORCE_EN : RField := ⟨A.REF_FORCE, 8, 1⟩
abbrev REF_WCK_IN_FS : RField := ⟨A.REF_WCK, 0, 2⟩
abbrev REF_WCK_OUT : RField := ⟨A.REF_WCK, 4, 3⟩
abbrev REF_AESQ_G1 : RField := ⟨A.REF_AESQ, 0, 16⟩
abbrev REF_AESQ_G2 : RField := ⟨A.REF_AESQ, 16, 16⟩
abbrev REF_HOLDQ_Q1 : RField := ⟨A.REF_HOLDQ, 0, 16⟩
abbrev REF_HOLDQ_Q2 : RField := ⟨A.REF_HOLDQ, 16, 16⟩
abbrev REF_STAT_ACT : RField := ⟨A.REF_STAT, 0, 3⟩
abbrev REF_STAT_STATE : RField := ⟨A.REF_STAT, 4, 2⟩
abbrev REF_STAT_PEND : RField := ⟨A.REF_STAT, 8, 3⟩
abbrev REF_STAT_PEND_V : RField := ⟨A.REF_STAT, 11, 1⟩
abbrev REF_STAT_APLL : RField := ⟨A.REF_STAT, 12, 1⟩
abbrev REF_STAT_RAIL : RField := ⟨A.REF_STAT, 13, 1⟩
abbrev REF_STAT_DRIFT_HOLD : RField := ⟨A.REF_STAT, 14, 1⟩
abbrev REF_STAT_LEADER : RField := ⟨A.REF_STAT, 15, 1⟩
abbrev REF_PHASE_NS : RField := ⟨A.REF_PHASE, 0, 32⟩
abbrev REF_DAC_CODE : RField := ⟨A.REF_DAC, 0, 16⟩
abbrev REF_OUT_Q_Q : RField := ⟨A.REF_OUT_Q, 0, 16⟩
abbrev REF_SWITCH_COUNT : RField := ⟨A.REF_SWITCH, 0, 32⟩
abbrev REF_HOLD_CNT_COUNT : RField := ⟨A.REF_HOLD_CNT, 0, 32⟩
abbrev REF_DISQ_COUNT : RField := ⟨A.REF_DISQ, 0, 32⟩
abbrev REF_CAND_PRIO (i : Nat) : RField := ⟨(A.REF_CAND i), 0, 4⟩
abbrev REF_CAND_AES_PRIO (i : Nat) : RField := ⟨(A.REF_CAND_AES i), 0, 4⟩
abbrev REF_CAND_AES_SRC (i : Nat) : RField := ⟨(A.REF_CAND_AES i), 8, 1⟩
abbrev REF_CAND_AES_GRP (i : Nat) : RField := ⟨(A.REF_CAND_AES i), 12, 3⟩
abbrev REF_CAND_AES_LANE (i : Nat) : RField := ⟨(A.REF_CAND_AES i), 16, 3⟩
abbrev REF_CAND_HI_PRIO (i : Nat) : RField := ⟨(A.REF_CAND_HI i), 0, 4⟩
abbrev REF_QUAL_Q (i : Nat) : RField := ⟨(A.REF_QUAL i), 0, 16⟩
abbrev REF_CSTAT_PRESENT (i : Nat) : RField := ⟨(A.REF_CSTAT i), 0, 1⟩
abbrev REF_CSTAT_ELIG (i : Nat) : RField := ⟨(A.REF_CSTAT i), 1, 1⟩
abbrev REF_CSTAT_DISQ (i : Nat) : RField := ⟨(A.REF_CSTAT i), 2, 1⟩
abbrev REF_CSTAT_WTR (i : Nat) : RField := ⟨(A.REF_CSTAT i), 3, 1⟩
abbrev REF_CSTAT_WTR_LEFT (i : Nat) : RField := ⟨(A.REF_CSTAT i), 4, 10⟩
abbrev REF_CSTAT_Q (i : Nat) : RField := ⟨(A.REF_CSTAT i), 16, 16⟩
abbrev REF_CFREQ_F (i : Nat) : RField := ⟨(A.REF_CFREQ i), 0, 32⟩

/-! Page HOLD. -/
abbrev HOLD_CFG_HIST : RField := ⟨A.HOLD_CFG, 0, 12⟩
abbrev HOLD_CFG_TSRC : RField := ⟨A.HOLD_CFG, 16, 2⟩
abbrev HOLD_CFG_SENSE : RField := ⟨A.HOLD_CFG, 20, 3⟩
abbrev HOLD_CFG_TEMP_EN : RField := ⟨A.HOLD_CFG, 24, 1⟩
abbrev HOLD_CFG_AGE_EN : RField := ⟨A.HOLD_CFG, 25, 1⟩
abbrev HOLD_T0_T0 : RField := ⟨A.HOLD_T0, 0, 16⟩
abbrev HOLD_TC1_TC : RField := ⟨A.HOLD_TC1, 0, 32⟩
abbrev HOLD_TC2_TC : RField := ⟨A.HOLD_TC2, 0, 32⟩
abbrev HOLD_TC3_TC : RField := ⟨A.HOLD_TC3, 0, 32⟩
abbrev HOLD_THERM_B : RField := ⟨A.HOLD_THERM, 0, 16⟩
abbrev HOLD_THERM_RATIO : RField := ⟨A.HOLD_THERM, 16, 16⟩
abbrev HOLD_VCXO_GAIN : RField := ⟨A.HOLD_VCXO, 0, 24⟩
abbrev HOLD_AGE_TAU : RField := ⟨A.HOLD_AGE, 0, 16⟩
abbrev HOLD_AGE_MINH : RField := ⟨A.HOLD_AGE, 16, 16⟩
abbrev HOLD_AGE_A_A : RField := ⟨A.HOLD_AGE_A, 0, 32⟩
abbrev HOLD_AGE_B_B : RField := ⟨A.HOLD_AGE_B, 0, 32⟩
abbrev HOLD_AGE_H_H : RField := ⟨A.HOLD_AGE_H, 0, 16⟩
abbrev HOLD_TEMP_T : RField := ⟨A.HOLD_TEMP, 0, 16⟩
abbrev HOLD_FREQ_U : RField := ⟨A.HOLD_FREQ, 0, 32⟩
abbrev HOLD_ELAPSED_S : RField := ⟨A.HOLD_ELAPSED, 0, 32⟩
abbrev HOLD_SPEC_S : RField := ⟨A.HOLD_SPEC, 0, 20⟩
abbrev HOLD_HIST_AVAIL_N : RField := ⟨A.HOLD_HIST_AVAIL, 0, 13⟩

/-! Page TW. -/
abbrev TW_CFG_EN : RField := ⟨A.TW_CFG, 0, 1⟩
abbrev TW_CFG_INMIR : RField := ⟨A.TW_CFG, 1, 1⟩
abbrev TW_CFG_PAIR_ID : RField := ⟨A.TW_CFG, 16, 16⟩
abbrev TW_HB_TMO_US : RField := ⟨A.TW_HB_TMO, 0, 6⟩
abbrev TW_NHB_MISS_BLK : RField := ⟨A.TW_NHB_MISS, 0, 4⟩
abbrev TW_REL_ECC : RField := ⟨A.TW_REL, 0, 1⟩
abbrev TW_REL_FEED : RField := ⟨A.TW_REL, 1, 1⟩
abbrev TW_REL_SUPPLY : RField := ⟨A.TW_REL, 2, 1⟩
abbrev TW_REL_SUP_MS : RField := ⟨A.TW_REL, 8, 8⟩
abbrev TW_CTRL_RELINQUISH : RField := ⟨A.TW_CTRL, 0, 1⟩
abbrev TW_CTRL_RESYNC : RField := ⟨A.TW_CTRL, 1, 1⟩
abbrev TW_CTRL_LOCAL_WR : RField := ⟨A.TW_CTRL, 4, 1⟩
abbrev TW_STAT_ROLE : RField := ⟨A.TW_STAT, 0, 3⟩
abbrev TW_STAT_POS : RField := ⟨A.TW_STAT, 4, 1⟩
abbrev TW_STAT_LINK : RField := ⟨A.TW_STAT, 5, 1⟩
abbrev TW_STAT_LANES : RField := ⟨A.TW_STAT, 6, 2⟩
abbrev TW_STAT_HB_LINK : RField := ⟨A.TW_STAT, 8, 1⟩
abbrev TW_STAT_HB_NETA : RField := ⟨A.TW_STAT, 9, 1⟩
abbrev TW_STAT_HB_NETB : RField := ⟨A.TW_STAT, 10, 1⟩
abbrev TW_STAT_DRIVE_OUT : RField := ⟨A.TW_STAT, 11, 1⟩
abbrev TW_STAT_DRIVE_IN : RField := ⟨A.TW_STAT, 12, 1⟩
abbrev TW_STAT_INSTEP : RField := ⟨A.TW_STAT, 13, 1⟩
abbrev TW_STAT_RESYNC : RField := ⟨A.TW_STAT, 14, 1⟩
abbrev TW_STAT_TWIN_DEG : RField := ⟨A.TW_STAT, 15, 1⟩
abbrev TW_STAT_NPART : RField := ⟨A.TW_STAT, 16, 1⟩
abbrev TW_STAT_PAIR_OK : RField := ⟨A.TW_STAT, 17, 1⟩
abbrev TW_PEER_ROLE : RField := ⟨A.TW_PEER, 0, 3⟩
abbrev TW_PEER_SI_REV : RField := ⟨A.TW_PEER, 8, 8⟩
abbrev TW_PEER_POS : RField := ⟨A.TW_PEER, 16, 1⟩
abbrev TW_ALIGN_NS : RField := ⟨A.TW_ALIGN, 0, 16⟩
abbrev TW_COPY_DONE : RField := ⟨A.TW_COPY, 0, 16⟩
abbrev TW_COPY_TOTAL : RField := ⟨A.TW_COPY, 16, 16⟩
abbrev TW_LAST_HO_CAUSE : RField := ⟨A.TW_LAST_HO, 0, 3⟩
abbrev TW_LAST_HO_LEAD : RField := ⟨A.TW_LAST_HO, 8, 1⟩
abbrev TW_LAST_HO_TL_LO_TL : RField := ⟨A.TW_LAST_HO_TL_LO, 0, 32⟩
abbrev TW_LAST_HO_TL_HI_TL : RField := ⟨A.TW_LAST_HO_TL_HI, 0, 32⟩
abbrev TW_DIG_LO_D : RField := ⟨A.TW_DIG_LO, 0, 32⟩
abbrev TW_DIG_HI_D : RField := ⟨A.TW_DIG_HI, 0, 32⟩
abbrev TW_DIG_PEER_LO_D : RField := ⟨A.TW_DIG_PEER_LO, 0, 32⟩
abbrev TW_DIG_PEER_HI_D : RField := ⟨A.TW_DIG_PEER_HI, 0, 32⟩
abbrev TW_CDA_LO_D : RField := ⟨A.TW_CDA_LO, 0, 32⟩
abbrev TW_CDA_HI_D : RField := ⟨A.TW_CDA_HI, 0, 32⟩
abbrev TW_CDL_LO_D : RField := ⟨A.TW_CDL_LO, 0, 32⟩
abbrev TW_CDL_HI_D : RField := ⟨A.TW_CDL_HI, 0, 32⟩
abbrev TW_MISMATCH_COUNT : RField := ⟨A.TW_MISMATCH, 0, 32⟩
abbrev TW_RESYNC_COUNT : RField := ⟨A.TW_RESYNC, 0, 32⟩
abbrev TW_HANDOVER_COUNT : RField := ⟨A.TW_HANDOVER, 0, 32⟩
abbrev TW_RELQ_CNT_COUNT : RField := ⟨A.TW_RELQ_CNT, 0, 32⟩
abbrev TW_HB_LOSS_COUNT : RField := ⟨A.TW_HB_LOSS, 0, 32⟩
abbrev TW_NHB_LOSS_COUNT : RField := ⟨A.TW_NHB_LOSS, 0, 32⟩
abbrev TW_LINK_DOWN_COUNT : RField := ⟨A.TW_LINK_DOWN, 0, 32⟩
abbrev TW_LANE_FAIL_COUNT : RField := ⟨A.TW_LANE_FAIL, 0, 32⟩
abbrev TW_NHB_BAD_COUNT : RField := ⟨A.TW_NHB_BAD, 0, 32⟩

/-! Page PS. -/
abbrev PS_DT_DT (p : Nat) : RField := ⟨(A.PS_DT p), 0, 6⟩
abbrev PS_DT_MINW (p : Nat) : RField := ⟨(A.PS_DT p), 8, 8⟩
abbrev PS_CH_CFG_N (p i : Nat) : RField := ⟨(A.PS_CH_CFG p i), 0, 11⟩
abbrev PS_CH_CFG_RAIL (p i : Nat) : RField := ⟨(A.PS_CH_CFG p i), 12, 3⟩
abbrev PS_CH_CFG_EN (p i : Nat) : RField := ⟨(A.PS_CH_CFG p i), 15, 1⟩
abbrev PS_CH_CFG_PHASE (p i : Nat) : RField := ⟨(A.PS_CH_CFG p i), 16, 11⟩
abbrev PS_CH_CFG_DIAG_EN (p i : Nat) : RField := ⟨(A.PS_CH_CFG p i), 28, 1⟩
abbrev PS_CH_LIM_W (p i : Nat) : RField := ⟨(A.PS_CH_LIM p i), 0, 16⟩
abbrev PS_CH_LIM_RNOM (p i : Nat) : RField := ⟨(A.PS_CH_LIM p i), 16, 16⟩
abbrev PS_CH_DYN_TAU (p i : Nat) : RField := ⟨(A.PS_CH_DYN p i), 0, 5⟩
abbrev PS_CH_DYN_RAMP (p i : Nat) : RField := ⟨(A.PS_CH_DYN p i), 16, 14⟩
abbrev PS_CH_ACT_CFG_CFG (p i : Nat) : RField := ⟨(A.PS_CH_ACT_CFG p i), 0, 32⟩
abbrev PS_CH_CMD_RESTART (p i : Nat) : RField := ⟨(A.PS_CH_CMD p i), 0, 1⟩
abbrev PS_CH_CMD_DIAG (p i : Nat) : RField := ⟨(A.PS_CH_CMD p i), 1, 1⟩
abbrev PS_CH_STAT_STATE (p i : Nat) : RField := ⟨(A.PS_CH_STAT p i), 0, 3⟩
abbrev PS_CH_STAT_DIAG (p i : Nat) : RField := ⟨(A.PS_CH_STAT p i), 8, 4⟩
abbrev PS_CH_STAT_LIMIT (p i : Nat) : RField := ⟨(A.PS_CH_STAT p i), 16, 13⟩
abbrev PS_CH_TRIPS_COUNT (p i : Nat) : RField := ⟨(A.PS_CH_TRIPS p i), 0, 32⟩
abbrev PS_CH_CBC_COUNT (p i : Nat) : RField := ⟨(A.PS_CH_CBC p i), 0, 32⟩

/-! Page PSM. -/
abbrev PSM_RAIL_VNOM (i : Nat) : RField := ⟨(A.PSM_RAIL i), 0, 14⟩
abbrev PSM_RAIL_SCALE (i : Nat) : RField := ⟨(A.PSM_RAIL i), 16, 16⟩
abbrev PSM_RAIL_V_V (i : Nat) : RField := ⟨(A.PSM_RAIL_V i), 0, 16⟩
abbrev PSM_DIAG_PULSE : RField := ⟨A.PSM_DIAG, 0, 6⟩
abbrev PSM_DIAG_SETTLE : RField := ⟨A.PSM_DIAG, 8, 8⟩
abbrev PSM_DIAG_OPEN_THR : RField := ⟨A.PSM_DIAG, 16, 12⟩
abbrev PSM_LIM_K : RField := ⟨A.PSM_LIM, 0, 5⟩
abbrev PSM_LIM_M : RField := ⟨A.PSM_LIM, 8, 5⟩
abbrev PSM_BAND_E_LO (i : Nat) : RField := ⟨(A.PSM_BAND_E i), 0, 16⟩
abbrev PSM_BAND_E_HI (i : Nat) : RField := ⟨(A.PSM_BAND_E i), 16, 16⟩
abbrev PSM_BAND_M_MARGIN (i : Nat) : RField := ⟨(A.PSM_BAND_M i), 0, 8⟩
abbrev PSM_BAND_M_EN (i : Nat) : RField := ⟨(A.PSM_BAND_M i), 31, 1⟩
abbrev PSM_BAND_HIT_HIT : RField := ⟨A.PSM_BAND_HIT, 0, 32⟩
abbrev PSM_MUTE_FEED : RField := ⟨A.PSM_MUTE, 0, 1⟩
abbrev PSM_MUTE_APLL : RField := ⟨A.PSM_MUTE, 1, 1⟩
abbrev PSM_FEED_CNT_COUNT : RField := ⟨A.PSM_FEED_CNT, 0, 32⟩

/-! Page MUL. -/
abbrev MUL_BUDGET_N (p : Nat) : RField := ⟨(A.MUL_BUDGET p), 0, 16⟩
abbrev MUL_TMO_T (p : Nat) : RField := ⟨(A.MUL_TMO p), 0, 10⟩
abbrev MUL_HFLAG_F (p : Nat) : RField := ⟨(A.MUL_HFLAG p), 0, 32⟩
abbrev MUL_HFLAG_SET_F (p : Nat) : RField := ⟨(A.MUL_HFLAG_SET p), 0, 32⟩
abbrev MUL_HFLAG_CLR_F (p : Nat) : RField := ⟨(A.MUL_HFLAG_CLR p), 0, 32⟩
abbrev MUL_STOPS_COUNT (p : Nat) : RField := ⟨(A.MUL_STOPS p), 0, 32⟩
abbrev MUL_CTRL_START (p i : Nat) : RField := ⟨(A.MUL_CTRL p i), 0, 1⟩
abbrev MUL_CTRL_STOP (p i : Nat) : RField := ⟨(A.MUL_CTRL p i), 1, 1⟩
abbrev MUL_PROG_ADDR (p i : Nat) : RField := ⟨(A.MUL_PROG p i), 0, 32⟩
abbrev MUL_STAT_STATE (p i : Nat) : RField := ⟨(A.MUL_STAT p i), 0, 3⟩
abbrev MUL_STAT_ERR (p i : Nat) : RField := ⟨(A.MUL_STAT p i), 8, 4⟩
abbrev MUL_STAT_HOST (p i : Nat) : RField := ⟨(A.MUL_STAT p i), 16, 1⟩
abbrev MUL_PC_PC (p i : Nat) : RField := ⟨(A.MUL_PC p i), 0, 32⟩
abbrev MUL_CNT_CNT (p i : Nat) : RField := ⟨(A.MUL_CNT p i), 0, 32⟩
abbrev MUL_ERR_ADDR_ADDR (p i : Nat) : RField := ⟨(A.MUL_ERR_ADDR p i), 0, 32⟩
abbrev MUL_TAIL_TAIL (p i : Nat) : RField := ⟨(A.MUL_TAIL p i), 0, 7⟩
abbrev MUL_SIG_SIG (p i : Nat) : RField := ⟨(A.MUL_SIG p i), 0, 32⟩
abbrev MUL_CUR0_BASE_BASE (p i : Nat) : RField := ⟨(A.MUL_CUR0_BASE p i), 0, 32⟩
abbrev MUL_CUR0_CFG_SIZE (p i : Nat) : RField := ⟨(A.MUL_CUR0_CFG p i), 0, 5⟩
abbrev MUL_CUR0_OFS_OFS (p i : Nat) : RField := ⟨(A.MUL_CUR0_OFS p i), 0, 26⟩
abbrev MUL_CUR1_BASE_BASE (p i : Nat) : RField := ⟨(A.MUL_CUR1_BASE p i), 0, 32⟩
abbrev MUL_CUR1_CFG_SIZE (p i : Nat) : RField := ⟨(A.MUL_CUR1_CFG p i), 0, 5⟩
abbrev MUL_CUR1_OFS_OFS (p i : Nat) : RField := ⟨(A.MUL_CUR1_OFS p i), 0, 26⟩
abbrev MUL_SLACK_CYC (p i : Nat) : RField := ⟨(A.MUL_SLACK p i), 0, 24⟩

/-! Page FAB. -/
abbrev FAB_CFG_REMAP : RField := ⟨A.FAB_CFG, 0, 1⟩
abbrev FAB_CFG_ARB_N : RField := ⟨A.FAB_CFG, 8, 6⟩
abbrev FAB_LOCK_WDT_CYC : RField := ⟨A.FAB_LOCK_WDT, 0, 16⟩
abbrev FAB_HOST_SLACK : RField := ⟨A.FAB_HOST, 0, 24⟩
abbrev FAB_DERR_ADDR_ADDR : RField := ⟨A.FAB_DERR_ADDR, 0, 32⟩
abbrev FAB_DERR_INFO_MASTER : RField := ⟨A.FAB_DERR_INFO, 0, 5⟩
abbrev FAB_DERR_INFO_WRITE : RField := ⟨A.FAB_DERR_INFO, 8, 1⟩
abbrev FAB_DERR_INFO_PATH : RField := ⟨A.FAB_DERR_INFO, 12, 4⟩
abbrev FAB_DERR_CNT_COUNT : RField := ⟨A.FAB_DERR_CNT, 0, 32⟩
abbrev FAB_LOCK_ADDR_ADDR : RField := ⟨A.FAB_LOCK_ADDR, 0, 32⟩
abbrev FAB_LOCK_INFO_MASTER : RField := ⟨A.FAB_LOCK_INFO, 0, 5⟩
abbrev FAB_LOCK_INFO_KIND : RField := ⟨A.FAB_LOCK_INFO, 8, 2⟩
abbrev FAB_LOCK_INFO_HELD : RField := ⟨A.FAB_LOCK_INFO, 16, 16⟩
abbrev FAB_LOCK_BRK_COUNT : RField := ⟨A.FAB_LOCK_BRK, 0, 32⟩
abbrev FAB_LOCK_ABN_COUNT : RField := ⟨A.FAB_LOCK_ABN, 0, 32⟩
abbrev FAB_RST_INFO_MASTER : RField := ⟨A.FAB_RST_INFO, 0, 5⟩
abbrev FAB_RST_INFO_WRITTEN : RField := ⟨A.FAB_RST_INFO, 8, 7⟩
abbrev FAB_RST_INFO_DROPPED : RField := ⟨A.FAB_RST_INFO, 16, 15⟩
abbrev FAB_MRST_CNT_COUNT : RField := ⟨A.FAB_MRST_CNT, 0, 32⟩
abbrev FAB_WAIT_SEL_SEL : RField := ⟨A.FAB_WAIT_SEL, 0, 6⟩
abbrev FAB_WAIT_MAX_MAX : RField := ⟨A.FAB_WAIT_MAX, 0, 16⟩

/-! Page SHM. -/
abbrev SHM_SCRUB_INT : RField := ⟨A.SHM_SCRUB, 0, 8⟩
abbrev SHM_SCRUB_EN : RField := ⟨A.SHM_SCRUB, 16, 1⟩
abbrev SHM_SCRUB_PRIO : RField := ⟨A.SHM_SCRUB, 17, 1⟩
abbrev SHM_SCRUB_STAT_PASSES : RField := ⟨A.SHM_SCRUB_STAT, 0, 16⟩
abbrev SHM_SCRUB_STAT_PRIO_RUN : RField := ⟨A.SHM_SCRUB_STAT, 16, 1⟩
abbrev SHM_PRIO_RES_CE : RField := ⟨A.SHM_PRIO_RES, 0, 16⟩
abbrev SHM_PRIO_RES_UE : RField := ⟨A.SHM_PRIO_RES, 16, 16⟩
abbrev SHM_CE_COUNT (i : Nat) : RField := ⟨(A.SHM_CE i), 0, 32⟩
abbrev SHM_UE_COUNT (i : Nat) : RField := ⟨(A.SHM_UE i), 0, 32⟩
abbrev SHM_CE_ADDR_ADDR : RField := ⟨A.SHM_CE_ADDR, 0, 32⟩
abbrev SHM_UE_ADDR_ADDR : RField := ⟨A.SHM_UE_ADDR, 0, 32⟩
abbrev SHM_UE_INFO_MASTER : RField := ⟨A.SHM_UE_INFO, 0, 5⟩
abbrev SHM_UE_INFO_MEM : RField := ⟨A.SHM_UE_INFO, 8, 2⟩
abbrev SHM_UE_INFO_SCRUB : RField := ⟨A.SHM_UE_INFO, 12, 1⟩

/-! Page LPM. -/
abbrev LPM_STAT_PRESENT : RField := ⟨A.LPM_STAT, 0, 1⟩
abbrev LPM_STAT_TIME_VALID : RField := ⟨A.LPM_STAT, 1, 1⟩
abbrev LPM_STAT_KEY : RField := ⟨A.LPM_STAT, 2, 1⟩
abbrev LPM_STAT_CAL_EN : RField := ⟨A.LPM_STAT, 3, 1⟩
abbrev LPM_STAT_ALERT : RField := ⟨A.LPM_STAT, 4, 1⟩
abbrev LPM_STAT_FLASH_FAULT : RField := ⟨A.LPM_STAT, 5, 1⟩
abbrev LPM_STAT_CAL_MISMATCH : RField := ⟨A.LPM_STAT, 6, 1⟩
abbrev LPM_STAT_LOGSEC : RField := ⟨A.LPM_STAT, 7, 1⟩
abbrev LPM_STAT_SEAL : RField := ⟨A.LPM_STAT, 16, 8⟩
abbrev LPM_TIME_LO_T : RField := ⟨A.LPM_TIME_LO, 0, 32⟩
abbrev LPM_TIME_HI_T : RField := ⟨A.LPM_TIME_HI, 0, 32⟩
abbrev LPM_UID_LO_UID : RField := ⟨A.LPM_UID_LO, 0, 32⟩
abbrev LPM_UID_HI_UID : RField := ⟨A.LPM_UID_HI, 0, 32⟩
abbrev LPM_HEAD_SEQ : RField := ⟨A.LPM_HEAD, 0, 32⟩
abbrev LPM_TAIL_SEQ : RField := ⟨A.LPM_TAIL, 0, 32⟩
abbrev LPM_VER_VER : RField := ⟨A.LPM_VER, 0, 16⟩
abbrev LPM_CFG_WAKE_EN : RField := ⟨A.LPM_CFG, 0, 1⟩
abbrev LPM_REQ_SEQ_SEQ : RField := ⟨A.LPM_REQ_SEQ, 0, 32⟩
abbrev LPM_REQ_GO : RField := ⟨A.LPM_REQ, 0, 1⟩
abbrev LPM_REQ_RES : RField := ⟨A.LPM_REQ, 8, 3⟩
abbrev LPM_REC_W (i : Nat) : RField := ⟨(A.LPM_REC i), 0, 32⟩
abbrev LPM_LIVE_LEVEL (i j : Nat) : RField := ⟨(A.LPM_LIVE i j), 0, 16⟩
abbrev LPM_ALERT_LEVEL : RField := ⟨A.LPM_ALERT, 0, 16⟩
abbrev LPM_ALERT_HYST : RField := ⟨A.LPM_ALERT, 16, 8⟩
abbrev LPM_ALERT_QTY : RField := ⟨A.LPM_ALERT, 24, 2⟩

end R

end Sys2Proof.Machine
end

