-- ==== Sys2Proof/Machine/Tables.lean ====
section
/-! DEFINITION. The named operations over sparse tables (`Sparse`) and over byte memories: reading a key,
writing a key in canonical form, and the little-endian words and byte strings built from single bytes (R5). -/

namespace Sys2Proof.Machine

/-- What a table reads at a key; an unlisted key reads as the default `d`. -/
def tget {α : Type} (d : Nat → α) : Sparse α → Nat → α
  | [], k => d k
  | (k', v) :: t, k => if k = k' then v else tget d t k

/-- A table without a key. -/
def tdel {α : Type} : Sparse α → Nat → Sparse α
  | [], _ => []
  | (k', v') :: t, k => if k = k' then tdel t k else (k', v') :: tdel t k

/-- A table with a key listed with a value, keys rising. -/
def tins {α : Type} : Sparse α → Nat → α → Sparse α
  | [], k, v => [(k, v)]
  | (k', v') :: t, k, v =>
    if k < k' then (k, v) :: (k', v') :: t
    else if k = k' then (k, v) :: t
    else (k', v') :: tins t k v

/-- A table with one key rewritten, kept canonical: keys rising, no value equal to its default. -/
def tset {α : Type} [DecidableEq α] (d : Nat → α) (m : Sparse α) (k : Nat) (v : α) : Sparse α :=
  if v = d k then tdel m k else tins m k v

/-- The canonical form of a table: keys rising, no value equal to its key's default. -/
def twf {α : Type} [DecidableEq α] (d : Nat → α) : Sparse α → Bool
  | [] => true
  | [(k, v)] => !decide (v = d k)
  | (k, v) :: (k', v') :: t => !decide (v = d k) && decide (k < k') && twf d ((k', v') :: t)

/-- A table with one key changed by a function. -/
def tmod {α : Type} [DecidableEq α] (d : Nat → α) (m : Sparse α) (k : Nat) (f : α → α) : Sparse α :=
  tset d m k (f (tget d m k))

/-- A table with every listed value changed by a function, kept canonical. -/
def tmap {α : Type} [DecidableEq α] (d : Nat → α) (f : α → α) : Sparse α → Sparse α
  | [] => []
  | (k, v) :: t => if f v = d k then tmap d f t else (k, f v) :: tmap d f t

/-- A table with every value rewritten by its key; of a key that stood twice the first value counts. -/
def tkeep {α : Type} [DecidableEq α] (d : Nat → α) (f : Nat → α → α) : Sparse α → Sparse α
  | [] => []
  | (k, v) :: t => tset d (tkeep d f t) k (f k v)

/-- The number that a little-endian byte string spells (R5). -/
def leNat : Bytes → Nat
  | [] => 0
  | b :: t => b.toNat + 256 * leNat t

/-- The number that a big-endian byte string spells (network byte order, R5). -/
def beNat (b : Bytes) : Nat := b.foldl (fun a x => a * 256 + x.toNat) 0

/-- `n` little-endian bytes of a number. -/
def toLe : Nat → Nat → Bytes
  | 0, _ => []
  | n + 1, v => BitVec.ofNat 8 v :: toLe n (v / 256)

/-- `n` big-endian bytes of a number. -/
def toBe (n v : Nat) : Bytes := (toLe n v).reverse

/-- `n` bytes of a memory from an address, given what unlisted bytes read as. -/
def mBytes (d : Nat → Byte) (m : Mem) (a : Nat) : Nat → Bytes
  | 0 => []
  | n + 1 => tget d m a :: mBytes d m (a + 1) n

/-- The little-endian number of `n` bytes of a memory. -/
def mNat (d : Nat → Byte) (m : Mem) (a n : Nat) : Nat := leNat (mBytes d m a n)

/-- Bytes stored from an address; `none` leaves its byte as it is (byte enables). -/
def mPut (d : Nat → Byte) (m : Mem) (a : Nat) : List (Option Byte) → Mem
  | [] => m
  | none :: t => mPut d m (a + 1) t
  | some b :: t => mPut d (tset d m a b) (a + 1) t

/-- A byte string stored from an address. -/
def mPutB (d : Nat → Byte) (m : Mem) (a : Nat) (b : Bytes) : Mem := mPut d m a (b.map some)

/-- What an unlisted byte of shared memory, a bank without reset contents or a hen memory reads as (R417, R422). -/
def zeroByte (_ : Nat) : Byte := 0

/-- A memory with the addresses `lo` to `hi - 1` as another memory has them. -/
def spliceM (a b : Mem) (lo hi : Nat) : Mem :=
  a.filter (fun x => decide (x.1 < lo)) ++ b.filter (fun x => decide (lo ≤ x.1) && decide (x.1 < hi)) ++ a.filter (fun x => decide (hi ≤ x.1))

/-- Element `i` of a list, or a default. -/
def nth {α : Type} (d : α) : List α → Nat → α
  | [], _ => d
  | a :: _, 0 => a
  | _ :: t, i + 1 => nth d t i

/-- A list with element `i` replaced (unchanged where there is none). -/
def setNth {α : Type} : List α → Nat → α → List α
  | [], _, _ => []
  | _ :: t, 0, v => v :: t
  | a :: t, i + 1, v => a :: setNth t i v

end Sys2Proof.Machine
end

