-- ==== Sys2Proof/Machine/State.lean ====
section
/-! DEFINITION. The state of the block: plain data holding every register, memory, buffer, counter, mode and
pin that the spec gives the device, and the queue of the commands that wait. -/

namespace Sys2Proof.Machine

/-- Why a step could stop. The spec gives every command of its table an effect, so no meaning answers this. -/
inductive Fault where
  /-- Raised by no meaning; it closes the type of reasons. Safe. -/
  | unused
  deriving DecidableEq, Repr

/-- Why a command could be refused. -/
inductive Refusal where
  /-- Answered by the arms of `exec` whose command has no meaning yet. Safe. -/
  | notModelled (mnemonic : String)
  deriving DecidableEq, Repr

/-- The major modes (R29, Table 16.5). -/
inductive Mode where
  | boot | commission | standalone | leader | follower | orphan | quiesce | dark
  deriving DecidableEq, Repr

/-- Table 16.5. -/
def Mode.code : Mode → Nat
  | .boot => 0 | .commission => 1 | .standalone => 2 | .leader => 3
  | .follower => 4 | .orphan => 5 | .quiesce => 6 | .dark => 7

/-- Table 16.5, read from a three-bit value. -/
def Mode.ofCode : Nat → Mode
  | 0 => .boot | 1 => .commission | 2 => .standalone | 3 => .leader
  | 4 => .follower | 5 => .orphan | 6 => .quiesce | _ => .dark

/-- The output pins whose level follows from the state: the two interrupt pins (R49), the word clock (R286), and of a serial port group the
bit clock, the word select and the output lanes (Table 7.4). -/
inductive OutPin where
  | irq (n : Nat)
  | wck
  | bclk (g : Nat)
  | ws (g : Nat)
  | txd (g l : Nat)
  deriving DecidableEq, Repr

/-- What drives a pin: a level, a running clock or data, an output without edges, high impedance (an input), or a weak pull-down. -/
inductive PinLevel where
  | low | high | runs | still | highZ | pulledDown
  deriving DecidableEq, Repr

/-- A message on the twin link (Table 11.2): a heartbeat (R310); RELINQUISH (R319); a block message (R296); a mirrored write (R297); a mirrored serial
input block (R295); a taint mask and an output digest (R301); a bank copy, with the boundary at which an active one is taken (R305); a slice of the
state copy (R306); the power stage channels at a rejoin boundary (R341); and what a joining chip takes over (R326). -/
inductive TwinMsg where
  | heartbeat (h : Heartbeat)
  | relinquish
  | block (m : BlockMsg)
  | write (seq : Nat) (req : WriteReq) (boundary : Nat)
  | inputs (block : Nat) (samples : List Word) (concealed taint : List Bool)
  | mask (block : Nat) (taint : List Bool)
  | digest (block : Nat) (od : BitVec 64)
  | bank (latent : Bool) (bytes : Mem) (boundary : Nat)
  | slice (convs : List ConvCopy) (insts : List InstCopy) (last : Bool)
  | rejoin (channels : List ChanCopy)
  | takeover (tl : Nat) (ofs : Int) (slots : List SlotCopy)
  deriving DecidableEq, Repr

/-- What leaves the device. -/
inductive Emit where
  /-- A read or write response on a path: error response or not, and the words read. -/
  | response (path : Nat) (ok : Bool) (words : List Word)
  /-- A message signalled interrupt (R49): its vector, and the address and data of that vector's entry of the MSI-X table. -/
  | msix (vector addr : Nat) (data : Word)
  /-- An output pin takes a level, or stops being driven. -/
  | pin (pin : OutPin) (level : PinLevel)
  /-- An Ethernet frame or packet leaving a port of the bridge (4 is the internal port's own frame source). -/
  | frame (port : Nat) (bytes : Bytes)
  /-- The ability that a port advertises in a Clause 37 exchange (R201): full duplex, half duplex, PAUSE and ASM_DIR. -/
  | ability (port : Nat) (full half pause asmDir : Bool)
  /-- A message on the twin link. -/
  | twin (m : TwinMsg)
  /-- A frame clocked out of a serial lane (R175): its bits, the first in bit clock `first` after the frame edge, counted from 0. -/
  | serial (group lane first : Nat) (bits : List Bool)
  /-- A frame of a bi-phase lane (R181): whether it begins with a Z preamble, and its two subframes from bit 4 on, bit 4 in bit 0. -/
  | biphase (group lane : Nat) (z : Bool) (sub1 sub2 : Nat)
  /-- Gate edges of a power stage channel: channel and the two pulse widths. -/
  | gate (ch : Nat) (widths : List Nat)
  /-- An MDIO frame: opcode, PHY, register, data. -/
  | mdio (op phy reg data : Nat)
  /-- Data of a UART answer of the Loupe, as numbers. -/
  | uartData (values : List Nat)
  /-- A record read over the UART. -/
  | uartRecord (bytes : Bytes)
  /-- The UART answer OK. -/
  | uartOk
  /-- The UART answer ERR with its code (R405). -/
  | uartErr (code : Nat)
  /-- A stream packet handed to the bridge on both networks. -/
  | packet (stream : Nat) (bytes : Bytes)
  /-- The answer to a beat of a master other than the host access port: ok or an error response, and the words read. -/
  | beat (master : Nat) (ok : Bool) (words : List Word)
  /-- The TW_DRIVE_OUT pin changes level. -/
  | drive (level : Bool)
  deriving DecidableEq, Repr

/-- The key of a page: holder and the time of its last counted write in ticks (R51). -/
structure PageKey where
  holder : Nat
  since : Nat
  deriving DecidableEq, Repr

/-- A captured high word (R14): path code, address of the high word, value. -/
structure Capture where
  path : Nat
  addr : Nat
  value : Word
  deriving DecidableEq, Repr

/-- A word transaction of the QSPI and SPI slave while chip select stays low (R39): whether it writes, the address of its next word, and how many
bits of that word have come. -/
structure SlaveTx where
  write : Bool
  next : Nat
  bits : Nat
  deriving DecidableEq, Repr

/-- What comes with a write: its path; of a mirrored write the block that its boundary begins (R297); event bits that occur in the same cycle
(R48); TW_WAKE's level (R425); host flags signalled in the same cycle; what ECC finds in the words that a write covers in part (R384). -/
structure WCtx where
  path : Nat
  bnd : Option Nat
  fresh : Nat
  wakePin : Bool
  signalled : Nat
  ecc : List Ecc
  deriving DecidableEq, Repr

/-- A write that comes with nothing but its path. -/
def onPath (path : Nat) : WCtx := ⟨path, none, 0, false, 0, []⟩

/-- An accepted management request whose ops are being carried out (R42): source MAC address, VLAN, payload, ops done, and the ops of the
response so far. -/
structure MgmtReq where
  mac : Nat
  vid : Nat
  body : Bytes
  next : Nat
  acc : Bytes
  deriving DecidableEq, Repr

/-- An access of a host path (R33, R34): a write of bytes to a fabric address, or to a register, a window or a memory; a read; a management
request, and one whose ops have begun. `answer`: it gets a response. -/
inductive HostOp where
  | write (c : WCtx) (addr : Nat) (data : List (Option Byte)) (answer : Bool)
  | req (c : WCtx) (r : WriteReq) (answer : Bool)
  | read (path addr size : Nat) (answer : Bool)
  | mgmt (mac vid : Nat) (body : Bytes)
  | ops (q : MgmtReq)
  deriving DecidableEq, Repr

/-- What the PCIe endpoint reports of itself and of its link (R35): identity, class code, greatest payload and read request, and the lanes and
the generation that the link has trained to. Its Revision ID is DEV_REV.SI_REV. -/
structure Endpoint where
  vendor : Nat
  device : Nat
  cls : Nat
  maxPayload : Nat
  maxRead : Nat
  lanes : Nat
  gen : Nat
  deriving DecidableEq, Repr

/-- The endpoint as R35 gives it, trained to two lanes at 8 GT/s. -/
def endpoint0 : Endpoint := ⟨0x1F4B, 0x2048, 0x040100, 256, 512, 2, 3⟩

/-- The host paths: the endpoint (R35); the management key in force, the words written for the next one and, as a mask, which of them have been
written since HST_NKEY0 (R44); slave status and transaction (R39, R40); MSI-X (R49), with the address and data words of its table; captures
(R14, R52); page keys (R51); snapshots of frozen pages (R47); the _LO words written and not yet in force (R14); the watchdog (R55). -/
structure HostSt where
  ep : Endpoint
  nkey : List Word
  nkeyNew : List Word
  keyValid : Bool
  seq : Nat
  spiErr : Bool
  spiLate : Bool
  slave : Option SlaveTx
  nkeySet : Nat
  pcieUp : Bool
  msixOn : Bool
  msixFmask : Bool
  msixTbl : Sparse Word
  msixMask : BitVec 32
  msixPend : BitVec 32
  hiCap : List Capture
  wideCap : List (Nat × Nat × List Word)
  keys : Sparse (Option PageKey)
  snap : Sparse (Option (List (Nat × Word)))
  loStage : Sparse (Option Word)
  wdtNext : Bool
  wdtSince : Nat
  wdtWarned : Bool
  deriving DecidableEq, Repr

/-- One record of the error log (Table 2.7). -/
structure ElogRec where
  seq : Nat
  tl : Nat
  cal : Nat
  page : Nat
  code : Nat
  off : Nat
  path : Nat
  data : Word
  deriving DecidableEq, Repr

/-- States of an action slot (TL_ACT_CTRL). -/
inductive SlotState where
  | empty | armed | done | late | cancelled | refused | checkFailed
  deriving DecidableEq, Repr

/-- The STATE encoding of TL_ACT_CTRL. -/
def SlotState.code : SlotState → Nat
  | .empty => 0 | .armed => 1 | .done => 2 | .late => 3 | .cancelled => 4 | .refused => 5 | .checkFailed => 6

/-- One of the 32 action slots. -/
structure Slot where
  tl : Nat
  addr : Word
  data : Word
  type : Nat
  state : SlotState
  path : Nat
  deriving DecidableEq, Repr

/-- DEVELOP_STATE. -/
inductive DevState where
  | idle | armed | refilling | undoHeld | checkFailed
  deriving DecidableEq, Repr

/-- The DEVELOP_STATE encoding. -/
def DevState.code : DevState → Nat
  | .idle => 0 | .armed => 1 | .refilling => 2 | .undoHeld => 3 | .checkFailed => 4

/-- The develop in progress (R67 to R72): state, slot, state to return to on a cancel, TL, whether it is
checked and draining, KEEP at its TL, depths of the two graphs, deepest job and egress stage switched (counts
of stages), end of a refill in blocks, completed count, last check, SCH_CAP when it was armed (R100). -/
structure DevSt where
  state : DevState
  slot : Nat
  back : DevState
  t : Nat
  armedAt : Nat
  checked : Bool
  draining : Bool
  keep : Bool
  depth : Nat
  jobsDone : Nat
  egressDone : Nat
  refillEnd : Nat
  count : Nat
  chkCode : Nat
  chkOfs : Nat
  cap : Word
  deriving DecidableEq, Repr

/-- Mode state (R423, R425, R427). -/
structure ModeSt where
  cur : Mode
  prev : Mode
  pend : Option Mode
  pendAt : Nat
  audioReady : Bool
  wakeAt : Option Nat
  entering : Bool
  deriving DecidableEq, Repr

/-- A dip in progress on a rail (R414): start in ticks, least voltage, and which of its timed effects have
been acted on. -/
structure Dip where
  since : Nat
  min : Nat
  scrubbed : Bool
  relq : Bool
  quiesced : Bool
  deriving DecidableEq, Repr

/-- Supplies, boot and fuses (R413 to R424). -/
structure PwrSt where
  coreMv : Nat
  memMv : Nat
  dipCore : Option Dip
  dipMem : Option Dip
  dipEnded : Nat
  ioa3v3 : Bool
  keyh : List Word
  fuseHash : Option (List Word)
  fuseBusy : Option Nat
  twlOff : Bool
  wakePin : Bool
  booting : Bool
  image : Option Bytes
  imageSrc : Nat
  posA : Bool
  deriving DecidableEq, Repr

/-- Island power states (Table 15.1). -/
inductive LpPower where
  | measure | clock | off
  deriving DecidableEq, Repr

/-- What an interval has gathered for one channel (R395): sums of squares of the A-, C- and Z-weighted
samples, greatest F and S time-weighted mean squares of A, greatest absolute C- and Z-weighted sample, and
whether a sample was not zero. -/
structure LpChanAcc where
  eA : Nat
  eC : Nat
  eZ : Nat
  maxF : Nat
  maxS : Nat
  pkC : Nat
  pkZ : Nat
  signal : Bool
  deriving DecidableEq, Repr

/-- One interval in progress (R396): samples, whether it began at its own boundary, overloads, LP_CAL_EN seen
high, and the two channels. -/
structure LpAcc where
  n : Nat
  whole : Bool
  ovl : Nat
  cal : Bool
  c0 : LpChanAcc
  c1 : LpChanAcc
  deriving DecidableEq, Repr

/-- A finished second for the sliding windows: samples and A and C energies of both channels. -/
structure LpSec where
  n : Nat
  a0 : Nat
  c0 : Nat
  a1 : Nat
  c1 : Nat
  deriving DecidableEq, Repr

/-- A calibration in progress (R401): channel, reference level, samples and Z energy so far. -/
structure LpCalSt where
  k : Nat
  level : Int
  n : Nat
  eZ : Nat
  deriving DecidableEq, Repr

/-- The Loupe island (R387 to R409). Calendar time is held in 1/1,024 s since 2000-01-01 00:00:00 (R391);
`sub` counts the measurement samples of the present second (R394). -/
structure LpSt where
  power : LpPower
  held : Bool
  sec : Nat
  sub : Nat
  due : Bool
  timeValid : Bool
  lostAt : Option Nat
  trim : Int
  ofs0 : Int
  ofs1 : Int
  sealCount : Nat
  key : Option (List Word)
  flashSize : Nat
  flashFault : Bool
  calMismatch : Bool
  calEn : Bool
  flash : Sparse Bytes
  slot : Nat
  seqNew : Nat
  qty : Nat
  level : Nat
  hyst : Nat
  alert : Bool
  logSec : Bool
  iSec : LpAcc
  iMin : LpAcc
  iQtr : LpAcc
  lafSq : List Nat
  secs : List LpSec
  live : Sparse Nat
  cal : Option LpCalSt
  laf : Nat
  deriving DecidableEq, Repr

/-! Jobs and hens (chapters 04 and 05). -/

/-- One block of one channel: its 8 samples, whether it is tainted (R95), whether it was concealed (R27), and,
for a stream receive channel, whether the stream engine still owes it (R89). -/
structure Chan where
  smp : List Word
  taint : Bool
  conc : Bool
  missing : Bool
  deriving DecidableEq, Repr

/-- Digital zero. -/
def chan0 : Chan := ⟨List.replicate 8 0, false, false, false⟩

/-- The default of every channel table. -/
def chanD (_ : Nat) : Chan := chan0

/-- An accumulator with its GOV flag (Table 5.2). -/
structure Accum where
  v : BitVec 72
  gov : Bool
  deriving DecidableEq, Repr

/-- A result in flight (R112): the cycle whose word first reads it, the cycle that issued it, the register, and
the value; an accumulator result lands for the readers outside the M slot, and for the M slot too where
`both` says so (LDA.RAW). -/
inductive Landing where
  | word (ready issue n : Nat) (v : Word)
  | acc (ready issue n : Nat) (a : Accum) (both : Bool)
  deriving DecidableEq, Repr

/-- The run a hen carries out: instance of which graph, its program's class, words in its image, its data memory
regions as (offset, length), whether the inputs it read were tainted, which tainted stream channels it read, and
when it started, in ticks. -/
structure RunSt where
  old : Bool
  j : Nat
  cls : Nat
  words : Nat
  regions : List (Nat × Nat)
  taint : Bool
  taintIch : List Nat
  start : Nat
  deriving DecidableEq, Repr

/-- One hen (Tables 5.1 and 5.2). `accM` is what the M slot reads, `accL` what every other reader reads (Table
5.4); `now` is the cycle in which its next word issues. -/
structure HenSt where
  d : Sparse Word
  aux : Sparse Word
  accM : Sparse Accum
  accL : Sparse Accum
  z : Bool
  n : Bool
  c : Bool
  v : Bool
  la : BitVec 3
  ie : Bool
  hm : Bool
  ovf : Bool
  pc : Nat
  now : Nat
  br : Option (Nat × Option Nat)
  halt : Option Nat
  land : List Landing
  pendDbg : Bool
  pendDb : Bool
  run : Option RunSt
  image : Option (Nat × Nat)
  imem : Mem
  dmem : Mem
  deriving DecidableEq, Repr

/-- A cleared accumulator. -/
def acc0 (_ : Nat) : Accum := ⟨0, false⟩

/-- A zero word. -/
def zeroWord (_ : Nat) : Word := 0

/-- A hen with every register zero and its memories zero (R83, R417). -/
def hen0 (_ : Nat) : HenSt :=
  { d := [], aux := [], accM := [], accL := [], z := false, n := false, c := false, v := false, la := 0,
    ie := false, hm := false, ovf := false, pc := 0, now := 0, br := none, halt := none, land := [],
    pendDbg := false, pendDb := false, run := none, image := none, imem := [], dmem := [] }

/-- Where an instance stands in the running block (R89 to R98). -/
inductive JobPhase where
  | waiting | queued | running | ended | late
  deriving DecidableEq, Repr

/-- An instance in the running block: phase; whether the present release is a re-run, and whether it has had its one
re-run; held before its start for a re-run of a dependency; to be re-released when a dependency's re-run ends;
supplied at its run-ahead point; a run of it ended by the deadline; its last finished run read tainted inputs and
which tainted stream channels. -/
structure JobSt where
  phase : JobPhase
  rerun : Bool
  reran : Bool
  hold : Bool
  again : Bool
  supplied : Bool
  onTime : Bool
  taint : Bool
  taintIch : List Nat
  deriving DecidableEq, Repr

/-- An instance at the start of a block. -/
def job0 (_ : Nat) : JobSt := ⟨.waiting, false, false, false, false, false, false, false, []⟩

/-- What lives from block to block for an instance: the parity bit (true: half B is current, R87) and whether
its next run is its first since the develop that made it live (Table 4.6). -/
structure InstSt where
  parity : Bool
  first : Bool
  deriving DecidableEq, Repr

/-- A new instance: parity A, first run to come. -/
def inst0 (_ : Nat) : InstSt := ⟨false, true⟩

/-- A flock (R90, R102, R103): powered; taking jobs; a gate request to act on at the next boundary; when an ungated
flock becomes READY, in blocks; deepest queue of this and of the last block; busy hen time of this block in ticks;
and the sliding greatest LAST and least slack as (block, value). -/
structure FlockSt where
  powered : Bool
  taking : Bool
  gateReq : Bool
  fencing : Bool
  readyAt : Option Nat
  peak : Nat
  lastPeak : Nat
  busy : Nat
  lastBusy : Nat
  busyMax : List (Nat × Nat)
  slackMin : List (Nat × Nat)
  deriving DecidableEq, Repr

/-- A flock after reset. -/
def flock0 (_ : Nat) : FlockSt := ⟨true, true, false, false, none, 0, 0, 0, 0, [], []⟩

/-- A cleared section. -/
def bq0 (_ : Nat) : BqSec := ⟨0, 0, 0, 0, 0⟩

/-- No gain point. -/
def noPt (_ : Nat) : Option Pt := none

/-- A bus of a newly live stage. -/
def busSt0 (_ : Nat) : BusSt := ⟨none, none, [], none, 0, [], []⟩

/-- A stock instance newly live. -/
def stock0 (_ : Nat) : StockSt := ⟨[], []⟩

/-- No state to commit. -/
def noStock (_ : Nat) : Option StockSt := none

/-- A delay or FIR history line (R157, R159): where and how long it was placed, the newest ingest block written, and one taint bit
per block written since, newest first. -/
structure LineSt where
  base : Nat
  len : Nat
  last : Nat
  taints : List Bool
  deriving DecidableEq, Repr

/-- No line. -/
def noLine (_ : Nat) : Option LineSt := none

/-- The scheduler: ingest blocks by (block mod 32) × 2,048 + channel; link blocks of this and the last block; the
egress block being written and the last committed; the internal returns written in this block; instances of the
running block and from block to block (old graph: + 65,536); the flock queues' entries as instance keys; the
flocks; the stock instances' states in force and to be committed; delay and FIR lines by bus; the greatest N of
the live and the old graph. -/
structure JobsSt where
  ich : Sparse Chan
  links : Sparse Chan
  linkPrev : Sparse Chan
  echNext : Sparse Chan
  ech : Sparse Chan
  retNext : Sparse Chan
  retPrev : Sparse Chan
  jobs : Sparse JobSt
  inst : Sparse InstSt
  queues : Sparse (List Nat)
  flocks : Sparse FlockSt
  stock : Sparse StockSt
  stockNext : Sparse (Option StockSt)
  dly : Sparse (Option LineSt)
  fir : Sparse (Option LineSt)
  deriving DecidableEq, Repr

/-- An empty queue. -/
def noQueue (_ : Nat) : List Nat := []

/-- The scheduler after reset. -/
def jobsReset : JobsSt := ⟨[], [], [], [], [], [], [], [], [], [], [], [], [], [], []⟩

/-! Mixer, converters, generators and serial ports (chapters 06 and 07). -/

/-- An asynchronous converter channel (R170): locked, ratio out of range, ratio estimate (Q2.30), the sample of its last
lock or loss, and whether the ingest block in progress is to be concealed; the last word fed to it at ingest; at egress the last 8 words that it
gave, newest first, and the place in the concealment that follows a loss of lock; the chip's own estimate, locked and ratio, where the twins use one fixed at
a boundary (R296); and the phase estimate that a message brought. -/
structure ConvSt where
  lock : Bool
  range : Bool
  ratio : Word
  since : Nat
  conceal : Bool
  fed : Word
  gave : List Word
  fade : Option Nat
  ownLock : Bool
  ownRatio : Word
  phase : Word
  deriving DecidableEq, Repr

/-- A converter at rest. -/
def conv0 (_ : Nat) : ConvSt := ⟨false, false, 0, 0, false, 0, [], none, false, 0, 0⟩

/-- A test generator (R172): the TL of its start, its LFSR, and the three pink noise sections. -/
structure GenSt where
  t0 : Nat
  x : Word
  secs : Sparse BqSec
  deriving DecidableEq, Repr

/-- Generator `g` started at TL 0. -/
def gen0 (g : Nat) : GenSt := ⟨0, BitVec.ofNat 32 (0x4B5A0001 + g), []⟩

/-- A direct-class write carried out and not yet applied (R167): bank offset, bytes, the block that applies it, and whether a develop has become
live since it was carried out: the bank it reaches is then the previous one (R73). -/
structure DirectReq where
  off : Nat
  data : List (Option Byte)
  blk : Nat
  old : Bool
  deriving DecidableEq, Repr

/-- Where a serial port group stands: off; to start at the first frame edge at or after a TL; its clock being
qualified since a TL; running; its clock lost, and since when the returned clock is without fault. -/
inductive GrpPhase where
  | off
  | waiting (tl : Nat)
  | qualify (since : Nat)
  | run
  | lost (since : Option Nat)
  deriving DecidableEq, Repr

/-- One lane: good frames and frames without a preamble in a row, lock, the frame of the 192-frame block to come, C and
U bits of subframe 1 gathered, a difference in the C bits of subframe 2, a whole block waiting for capture, the
samples in which subframes to be concealed came (R180) by channel, the next frame of the output block (R181), and the bi-phase frames received and
sent since the group started, which place them in the rings (R188). -/
structure LaneSt where
  good : Nat
  bad : Nat
  lock : Bool
  pos : Option Nat
  c1 : List Bool
  u1 : List Bool
  diff : Bool
  ready : Option (List Bool × List Bool × Bool)
  vAt0 : List Nat
  vAt1 : List Nat
  txPos : Nat
  rxCnt : Nat
  txCnt : Nat
  deriving DecidableEq, Repr

/-- A lane at rest. -/
def lane0 (_ : Nat) : LaneSt := ⟨0, 0, false, none, [], [], false, none, [], [], 0, 0, 0⟩

/-- A stretch of ingest samples in which a group's clocked inputs give none of their own: from `start` on, up to `stop` where it has ended; with the
ramp of R185 from the last sample before, or digital zero at once. -/
structure Mute where
  start : Nat
  stop : Option Nat
  ramp : Bool
  deriving DecidableEq, Repr

/-- A serial port group: phase; its mutes, oldest first, and the sample by channel that the present ramp fades (R185); wrong frames and frames without
bit clocks in a row; frames of the present window and the measured offset in ppm; an apply
waiting for its boundary (R192); frames written to the ring and frames ingested from it (R188, R194), and of the last frames, newest first, the
slot mask and its clocked part under which each was written; L as last measured, in 1/256 frame; tick of the last frame edge; the ingest block of a
slip; and the lanes. -/
structure GrpSt where
  phase : GrpPhase
  mutes : List Mute
  held : List Word
  badRun : Nat
  noBclk : Nat
  winFrames : Nat
  offset : Int
  apply : Option (Nat × Bytes)
  wr : Nat
  rd : Nat
  masks : List (Nat × Nat)
  level : Int
  lastEdge : Nat
  slipBlk : Option Nat
  lanes : Sparse LaneSt
  deriving DecidableEq, Repr

/-- A group at reset. -/
def grp0 (_ : Nat) : GrpSt := ⟨.off, [], [], 0, 0, 0, 0, none, 0, 0, [], 0, 0, none, []⟩

/-- The setting of a serial output channel that a develop replaces (R191): the sample from which the new one acts, the mask and bi-phase bits, and the
channel status bytes of the lane. -/
structure TxOld where
  till : Nat
  on : Bool
  bp : Bool
  cs : Bytes
  deriving DecidableEq, Repr

/-- No earlier transmit setting. -/
def noTx (_ : Nat) : Option TxOld := none

/-- The edges of the audio path: converters by channel (egress: + 2,048), generators, direct-class writes in order, groups, the
egress blocks before the present one, newest first, and whether the mode of each played its samples, by serial output channel the setting
that a develop replaces (R191), and whether the audio PLL is out of lock (R252). -/
structure AudioSt where
  convs : Sparse ConvSt
  gens : Sparse GenSt
  direct : List DirectReq
  grps : Sparse GrpSt
  echPast : List (Sparse Chan)
  echLive : List Bool
  txOld : Sparse (Option TxOld)
  apllLost : Bool
  deriving DecidableEq, Repr

/-- The audio path after reset. -/
def audio0 : AudioSt := ⟨[], [], [], [], [], [], [], true⟩

/-! Network time, references and holdover (chapter 10). -/

/-- A master heard of: its last Announce, the external port, when that Announce came, and when the one before it came. -/
structure Foreign where
  m : AnnounceMsg
  port : Nat
  last : Nat
  prev : Option Nat
  deriving DecidableEq, Repr

/-- A delay measurement in progress: sequence number, the egress timestamp in 0.25 ns once the request has left, and of a peer answer t2 and t4
in ns. -/
structure DelayReq where
  seq : Nat
  sent : Option Int
  t2 : Option Int
  t4 : Int
  deriving DecidableEq, Repr

/-- The PTP unit: PTP clock in 2^-16 ns; a two-step Sync waiting for its Follow_Up, with its port; masters heard of; the one
followed; servo terms i and adj in 2^-16 ppb, and the adj applied to the clock (R296); Syncs in a row within and outside the thresholds; ticks of the last Sync
and Announce, and since when the port listens; the last t2 - t1 - c; the pending Delay_Req; the last 8 end-to-end
delays; pending Pdelay_Req and last 8 link delays by port; sequence number of the last own message; the tick at which each periodic message was last
sent (by external port Pdelay_Req, 4 Delay_Req, 5 Sync, 6 Announce); the time waiting to be set with its boundary; the block at which ROLE,
PROFILE or DOMAIN take effect; whether the leader whose state was last copied was grandmaster (R260). -/
structure PtpSt where
  time : Int
  wait : Option (SyncMsg × Nat)
  foreign : List Foreign
  parent : Option Nat
  i16 : Int
  adj16 : Int
  adjNow : Int
  good : Nat
  bad : Nat
  lastSync : Nat
  lastAnn : Nat
  since : Nat
  diff : Int
  dly : Option DelayReq
  e2e : List Int
  pdly : Sparse (Option DelayReq)
  p2p : Sparse (List Int)
  seqNo : Nat
  sentAt : Sparse (Option Nat)
  tod : Option (Nat × Nat)
  cfgAt : Option Nat
  leadGm : Bool
  deriving DecidableEq, Repr

/-- Never sent. -/
def noSent (_ : Nat) : Option Nat := none

/-- No delay measurement in progress. -/
def noDly (_ : Nat) : Option DelayReq := none

/-- No link delay measured. -/
def noP2p (_ : Nat) : List Int := []

/-- The PTP unit at rest. -/
def ptp0 : PtpSt :=
  { time := 0, wait := none, foreign := [], parent := none, i16 := 0, adj16 := 0, adjNow := 0, good := 0, bad := 0, lastSync := 0,
    lastAnn := 0, since := 0, diff := 0, dly := none, e2e := [], pdly := [], p2p := [], seqNo := 0, sentAt := [],
    tod := none, cfgAt := none, leadGm := false }

/-- A reference candidate: its input's presence; fit at the last boundary; eligible at the last boundary; blocks of
wait-to-restore left; to wait from the completion of the present switch (R274); disqualified; its averages, newest
first, in 1/16 ppb; seconds in a row over the rate limit; seconds in a row good again. -/
structure CandSt where
  input : Bool
  fit : Bool
  elig : Bool
  wait : Option Nat
  later : Bool
  disq : Bool
  avgs : List Int
  fastRun : Nat
  okRun : Nat
  deriving DecidableEq, Repr

/-- A candidate at rest. -/
def cand0 (_ : Nat) : CandSt := ⟨false, false, false, none, false, false, [], 0, 0⟩

/-- STATE of REF_STAT. -/
inductive RefState where
  | freeRun | acquiring | locked | holdover
  deriving DecidableEq, Repr

/-- The STATE encoding. -/
def RefState.code : RefState → Nat
  | .freeRun => 0 | .acquiring => 1 | .locked => 2 | .holdover => 3

/-- One second of holdover history (R279): the second that it ends, the mean of u in 2^-16 ppb, the temperature in 1/256 °C, and seconds since the
origin of the ageing model. -/
structure HistSec where
  sec : Nat
  u : Int
  theta : Int
  age : Nat
  deriving DecidableEq, Repr

/-- Means over seconds of history: of u, of the temperature term and of the ageing term, in 2^-16 ppb. -/
structure HistMean where
  u : Int
  t : Int
  a : Int
  deriving DecidableEq, Repr

/-- The clean-up DPLL (R271, R285): the phase taken as zero, none before the first comparison of a switch; the phase error that R272 judges and the sum
of the loop's own, in 2^-16 ns; since which block that error has stayed within the window; and the control frequency at which the switch began. -/
structure LoopSt where
  zero : Option Int
  err : Int
  integ : Int
  inSince : Nat
  uBase : Int
  deriving DecidableEq, Repr

/-- The loop at rest. -/
def loop0 : LoopSt := ⟨none, 0, 0, 0, 0⟩

/-- The reference unit: service in force and the block from which a written one acts; STATE, active candidate; candidates;
the block at which the present switch began; the loop; to choose again; the pending candidate of R274; first lock since
power-on; holding over from a guarded history, or to do so; guarded history; u in 2^-16 ppb; DAC code; at an end code; u summed over the
boundaries of the present second and their number, and whether STATE has been LOCKED all through it; seconds measured; the history, newest first;
what the holdover stands on; seconds in holdover; HOLD_SPEC passed; temperature in 1/256 °C; seconds since the origin of the learned ageing model;
u + T(θ) summed over the seconds of the present hour and their number; the hourly means with their times in seconds, newest first; ticks of the last
hour, of the last measurement and of the last holdover update; whether the leader's selection stands (R287), with its active candidate and the phase its DPLL takes as zero; the twin's output
quality, whether its active candidate is 7, and whether the twin link carries its timing: in the last block, and in this one. -/
structure RefSt where
  svc : Nat
  svcAt : Option Nat
  state : RefState
  act : Nat
  cands : Sparse CandSt
  swAt : Nat
  loop : LoopSt
  again : Bool
  pend : Option Nat
  everLocked : Bool
  drift : Bool
  guarded : Option HistMean
  u : Int
  dac : Nat
  rail : Bool
  uSum : Int
  uN : Nat
  secOk : Bool
  secNo : Nat
  hist : List HistSec
  base : Option HistMean
  elapsed : Nat
  specDone : Bool
  temp : Int
  ageSec : Nat
  hourSum : Int
  hourN : Nat
  hours : List (Nat × Int)
  ageAt : Nat
  measAt : Nat
  holdAt : Nat
  leader : Bool
  leadAct : Nat
  leadPhase : Option Int
  twinQ : Nat
  twinAct7 : Bool
  timing : Bool
  heard7 : Bool
  deriving DecidableEq, Repr

/-- The reference unit after power-on. -/
def ref0 : RefSt :=
  { svc := 0, svcAt := none, state := .freeRun, act := 0, cands := [], swAt := 0, loop := loop0, again := false, pend := none,
    everLocked := false, drift := false, guarded := none, u := 0, dac := 0x8000, rail := false, uSum := 0, uN := 0, secOk := false, secNo := 0,
    hist := [], base := none, elapsed := 0, specDone := false, temp := 0, ageSec := 0, hourSum := 0, hourN := 0, hours := [], ageAt := 0, measAt := 0,
    holdAt := 0, leader := false, leadAct := 0, leadPhase := none, twinQ := 0xFFFF, twinAct7 := false, timing := false, heard7 := false }

/-! Ethernet ports and the bridge (chapter 08). -/

/-- A stored frame: octets without FCS, its queue, ingress timestamp in 0.25 ns where it came in from outside, ingress port. -/
structure QFrame where
  bytes : Bytes
  queue : Nat
  inTs : Option Nat
  inPort : Nat
  deriving DecidableEq, Repr

/-- An egress port: stored frames in arrival order; the tick at which its pause ends, began, the watchdog's sum, the tick at
which its last pause ended, and the tick at which a hold ends. -/
structure EthPort where
  frames : List QFrame
  pauseEnd : Option Nat
  pauseFrom : Nat
  pauseSum : Nat
  pauseLast : Nat
  holdEnd : Option Nat
  deriving DecidableEq, Repr

/-- A port at rest. -/
def port0 (_ : Nat) : EthPort := ⟨[], none, 0, 0, 0, none⟩

/-- An address table entry (R211); `last` is the tick of the last frame from its source. -/
structure AtuE where
  mac : Nat
  vid : Nat
  ports : Nat
  static : Bool
  stream : Bool
  queue : Nat
  last : Nat
  deriving DecidableEq, Repr

/-- No entry. -/
def noAtu (_ : Nat) : Option AtuE := none

/-- A network's ring manager: the block of the last own check received, and the sequence numbers sent on its two ports. -/
structure RingSt where
  last : Nat
  seq0 : Nat
  seq1 : Nat
  deriving DecidableEq, Repr

/-- A ring manager at rest. -/
def ring0 (_ : Nat) : RingSt := ⟨0, 0, 0⟩

/-- The bridge: ports (4 is the internal port), address table by index (bucket × 4 + way), ring managers, and whether the
MDIO operation in progress reads. -/
structure EthSt where
  ports : Sparse EthPort
  atu : Sparse (Option AtuE)
  rings : Sparse RingSt
  mdioRead : Bool
  deriving DecidableEq, Repr

/-- The bridge after reset. -/
def eth0 : EthSt := ⟨[], [], [], false⟩

/-! The stream engine (chapter 09). -/

/-- STATE of a receive stream (R247); a disabled entry is shown as disabled whatever it holds. -/
inductive RxState where
  | waiting | receiving | idle
  deriving DecidableEq, Repr

/-- A held copy (R243): presentation TL of its first sample, whether it passes the 2:1 interpolator, sequence number, concealed,
source, and its frames at 96 kHz, each a list of the stream's channels. -/
structure HeldCopy where
  p : Int
  half : Bool
  seq : Nat
  conc : Bool
  src : Nat
  frames : List (List Word)
  deriving DecidableEq, Repr

/-- A receive stream: state; the block of its start; the first block it fills once RECEIVING; held copies; the last accepted
sequence number; underruns in a row; the block last judged and whether it underran; taint of the last block written; copies seen as
(block, source); margins as (block, ticks); counters by their offset from 0x070 in words. -/
structure RxSt where
  state : RxState
  start : Nat
  live : Nat
  held : List HeldCopy
  seq : Option Nat
  run : Nat
  judged : Option Nat
  under : Bool
  taint : Bool
  seen : List (Nat × Nat)
  margins : List (Nat × Int)
  cnt : Sparse Nat
  deriving DecidableEq, Repr

/-- A stream that has received nothing. -/
def rx0 (_ : Nat) : RxSt := ⟨.waiting, 0, 0, [], none, 0, none, false, false, [], [], []⟩

/-- A count of zero. -/
def zeroNat (_ : Nat) : Nat := 0

/-- A transmit stream: the block of its last packet, copies queued and flagged, and the taint of its channels over the last
blocks, newest first. -/
structure TxSt where
  last : Option Nat
  sent : Nat
  flagged : Nat
  taints : List Bool
  deriving DecidableEq, Repr

/-- A stream that has sent nothing. -/
def tx0 (_ : Nat) : TxSt := ⟨none, 0, 0, []⟩

/-- A herd: the block last concealed as a gang with the members concealed (R249), and the block in which it last underran. -/
structure HerdSt where
  gang : Option (Nat × List Nat)
  under : Option Nat
  deriving DecidableEq, Repr

/-- A herd at rest. -/
def herd0 (_ : Nat) : HerdSt := ⟨none, none⟩

/-- The stream engine: receive streams; the sample from which the present receive tables act with the tables before them, and the streams that this
change started afresh or ended as they were before it (R241, R248); transmit streams, herds, the mr bit, and applies waiting for their block, with the
bytes they take. -/
structure StreamSt where
  rx : Sparse RxSt
  rxWas : Option (Nat × Mem)
  rxPast : Sparse (Option RxSt)
  tx : Sparse TxSt
  herds : Sparse HerdSt
  mr : Bool
  rxApply : Option (Nat × Mem)
  txApply : Option (Nat × Mem)
  deriving DecidableEq, Repr

/-- No earlier stream. -/
def noPast (_ : Nat) : Option RxSt := none

/-- The stream engine after reset. -/
def stream0 : StreamSt := ⟨[], none, [], [], [], false, none, none⟩
/-! Power stages (chapter 12). -/

/-- The states of a channel (Table 12.2). -/
inductive PsState where
  | off | diag | start | ramp | run | stopping | tripped | fault
  deriving DecidableEq, Repr

/-- The STATE encoding (Table 12.2). -/
def PsState.code : PsState → Nat
  | .off => 0 | .diag => 1 | .start => 2 | .ramp => 3 | .run => 4 | .stopping => 5 | .tripped => 6 | .fault => 7

/-- Table 12.2, read from a three-bit value. -/
def PsState.ofCode : Nat → PsState
  | 0 => .off | 1 => .diag | 2 => .start | 3 => .ramp | 4 => .run | 5 => .stopping | 6 => .tripped | _ => .fault

/-- One power stage channel. Counts are modulator counts (R332). State, and the state before a commanded sequence; the last
diagnostic result; Lr and P (R344); the limited sample that plays and the one last handed over (R331); a commanded sequence
under way, or accepted and waiting for its boundary; the diagnostic step under way and the tick it began, and whether a
comparator has ended its pulse; the next period boundary; the grid (N, PHASE) in force; a period under way; e1, e2, y, wA
and wB (R334); the pulse of this period ended (R345); the window of limit periods, newest first; T_r and RAMP of the present start
(R339); T_s and the gain in effect there (R340); the count from which a feed mute holds y at 0 (R348), and from which a stop
ends; taken down by the audio PLL mute (R349). -/
structure PsCh where
  st : PsState
  prev : PsState
  result : Nat
  lr : Nat
  avg : Int
  cur : Int
  nxt : Int
  cmd : Bool
  want : Bool
  step : Nat
  since : Nat
  cut : Bool
  next : Option Nat
  n : Nat
  ph : Nat
  live : Bool
  e1 : Int
  e2 : Int
  y : Int
  wA : Int
  wB : Int
  lim : Bool
  win : List Bool
  tr : Nat
  ramp : Nat
  ts : Option Nat
  gn : Nat
  gd : Nat
  mute : Option Nat
  offAt : Option Nat
  am : Bool
  deriving DecidableEq, Repr

/-- A channel that is OFF. -/
def psCh0 (_ : Nat) : PsCh :=
  { st := .off, prev := .off, result := 0, lr := 0, avg := 0, cur := 0, nxt := 0, cmd := false, want := false, step := 0,
    since := 0, cut := false, next := none, n := 768, ph := 0, live := false, e1 := 0, e2 := 0, y := 0, wA := 0, wB := 0,
    lim := false, win := [], tr := 0, ramp := 960, ts := none, gn := 1, gd := 1, mute := none, offAt := none, am := false }

/-- What the controllers share: the channels; the feed counter (R311), fresh samples in a row, the sample and the tick last
fed, the sample whose period began a stall, the feed mute in force; the audio PLL mute in force; and the rails read at least once. -/
structure PsmSt where
  chans : Sparse PsCh
  feed : Word
  fresh : Nat
  fedSmp : Option Nat
  fedAt : Nat
  stall : Option Nat
  feedMute : Bool
  apllMute : Bool
  rails : List Nat
  deriving DecidableEq, Repr

/-- The controllers after reset. -/
def psm0 : PsmSt := ⟨[], 0, 0, none, 0, none, false, false, []⟩

/-! The twin (chapter 11). -/

/-- The copy under way to this chip: none; a resynchronisation (R304); or as a joining chip (R325, R326). -/
inductive CopyKind where
  | none | resync | join
  deriving DecidableEq, Repr

/-- A mirrored block of the serial inputs (R295): its ingest block, ICH 1024 to 1151, and whether the block has not come and is concealed. -/
structure Mirrored where
  block : Nat
  chans : List Chan
  lost : Bool
  deriving DecidableEq, Repr

/-- What a leader is copying to its twin (R305, R306): nothing; a bank, from the block at which its copy began; the converter state; the
instances still to go; or all is sent. -/
inductive Give where
  | none
  | bank (latent : Bool) (since : Option Nat)
  | convs
  | insts (rest : List Nat)
  | sent
  deriving DecidableEq, Repr

/-- The twin unit. Lanes in lock, pairing accepted, pairing refused; the twin's silicon revision, position and role.
Twin-link heartbeat path (R310): present, tick of the last heartbeat, counter last received and the tick it last advanced,
since when heartbeats have returned. Network path (R312): present, blocks missed in a row, last block judged missed, blocks and
counters of the last valid heartbeat on networks A and B. Witnesses of R316 and R317, each counted only when gained in FOLLOWER or ORPHAN:
loss of the twin-link path (with whether it was by silence), of the network path, a fall of TW_DRIVE_IN, and the tick of a RELINQUISH;
leadership due, with its cause. TW_DRIVE_OUT asserted, and at which drive boundary; filtered TW_DRIVE_IN; dropped by
the feed watchdog. A relinquish under way (R319). In step; the twin in step; copy under way and the block it began; TWIN_DEGRADED; partition.
Block messages: received for the next boundary; the block last sent and last missed; mirror sequence sent and received; a mismatch
to act on at the boundary. Bank copy: boundary at which the copied bank is taken, bytes copied and to copy, blocks until which outputs are tainted.
Instances of the present slice, those of it that have come, and all that the copy has installed; the rejoin boundary, and the block from which the pair
is in step. Number of the copies begun, and the banks this chip asks for. As a leader: what the twin asks; the copy and the banks being served; what is being
copied; and the rejoin boundary named. The banks as they stood at the present block's boundary, of which CDA and CDL are sent, and the block in which a copy of one last came; the values fixed in this
block (R296); the twin's taint mask (R301). INMIR: the block held back, the leader's mirrored block. Joining (R326); taken over. -/
structure TwinSt where
  lanes : Nat
  pairOk : Bool
  refused : Bool
  peerRev : Nat
  peerPosA : Bool
  peerRole : Nat
  hb : Bool
  hbAt : Nat
  hbFeed : Word
  hbFeedAt : Nat
  hbBack : Option Nat
  nhb : Bool
  nhbMiss : Nat
  nhbJudged : Nat
  nhbA : Option (Nat × Word)
  nhbB : Option (Nat × Word)
  wLink : Option Bool
  wNet : Bool
  wIn : Bool
  wRelq : Option Nat
  leadDue : Option Nat
  drive : Bool
  driveAt : Nat
  driveIn : Bool
  wdDrop : Bool
  relq : Bool
  inStep : Bool
  peerStep : Bool
  copy : CopyKind
  copyBlk : Nat
  deg : Bool
  npart : Bool
  msg : Option BlockMsg
  msgSent : Nat
  msgMissed : Nat
  seqOut : Nat
  seqIn : Nat
  bad : Bool
  takeAt : Option Nat
  copied : Nat
  toCopy : Nat
  taintTo : Nat
  slice : List Nat
  got : List Nat
  installed : List Nat
  rejoin : Option Nat
  stepFrom : Nat
  askNo : Nat
  banks : Banks
  ask : Ask
  gaveNo : Option Nat
  gaveBanks : Banks
  give : Give
  rejoinPeer : Option Nat
  bankA : Mem
  bankL : Mem
  bankAt : Nat
  fixed : Option LeadMsg
  mask : Option (Nat × List Bool)
  inHold : List Chan
  mirror : Option Mirrored
  joining : Bool
  deriving DecidableEq, Repr

/-- The twin unit after reset. -/
def twin0 : TwinSt :=
  { lanes := 0, pairOk := false, refused := false, peerRev := 0, peerPosA := false, peerRole := 0, hb := false, hbAt := 0,
    hbFeed := 0, hbFeedAt := 0, hbBack := none, nhb := false, nhbMiss := 0, nhbJudged := 0, nhbA := none, nhbB := none,
    wLink := none, wNet := false, wIn := false, wRelq := none, leadDue := none, drive := false, driveAt := 0, driveIn := false,
    wdDrop := false, relq := false, inStep := false, peerStep := false, copy := .none, copyBlk := 0, deg := false, npart := false, msg := none,
    msgSent := 0, msgMissed := 0, seqOut := 0, seqIn := 0, bad := false, takeAt := none, copied := 0, toCopy := 0, taintTo := 0,
    slice := [], got := [], installed := [], rejoin := none, stepFrom := 0, askNo := 0, banks := .none, ask := ⟨false, none, .none, false⟩, gaveNo := none,
    gaveBanks := .none, give := .none, rejoinPeer := none, bankA := [], bankL := [], bankAt := 0, fixed := none, mask := none, inHold := [], mirror := none, joining := false }

/-! Mules and the fabric (chapters 13 and 14). -/

/-- STATE of MUL_STAT. -/
inductive MuleState where
  | idle | run | wait | fenced | stopped | done | off
  deriving DecidableEq, Repr

/-- The STATE encoding. -/
def MuleState.code : MuleState → Nat
  | .idle => 0 | .run => 1 | .wait => 2 | .fenced => 3 | .stopped => 4 | .done => 5 | .off => 6

/-- A running loop level (R359): address of its first and of the instruction after its body, pass index, COUNT, strides. -/
structure MuleLoop where
  first : Nat
  past : Nat
  idx : Nat
  count : Nat
  ss : Int
  ds : Int
  deriving DecidableEq, Repr

/-- A mule: state, cause of the last stop, the registers of its page slot, its loop levels, instructions since its last WAIT or END (R363),
the block in which it reached its WAIT, the flocks whose hens it has accessed since (R366), and the block at which the device restarts it. -/
structure MuleSt where
  st : MuleState
  err : Nat
  pc : Nat
  cnt : Nat
  errAddr : Nat
  tail : Nat
  sig : Word
  l0 : Option MuleLoop
  l1 : Option MuleLoop
  steps : Nat
  waitBlk : Nat
  used : List Nat
  restart : Option Nat
  deriving DecidableEq, Repr

/-- A mule after reset. -/
def mule0 (_ : Nat) : MuleSt :=
  { st := .idle, err := 0, pc := 0, cnt := 0, errAddr := 0, tail := 0, sig := 0, l0 := none, l1 := none, steps := 0,
    waitBlk := 0, used := [], restart := none }

/-- A fence under way (R366): the domain (0 to 15 flock, 16 audio), the tick of the request. -/
structure Fence where
  dom : Nat
  since : Nat
  deriving DecidableEq, Repr

/-- A lock of a shared-memory bank (R378): owner, address of the locked read, cycle of its grant. -/
structure LockSt where
  master : Nat
  addr : Nat
  since : Nat
  deriving DecidableEq, Repr

/-- No lock. -/
def noLock (_ : Nat) : Option LockSt := none

/-- No waits seen. -/
def noWaits (_ : Nat) : List (Nat × Nat) := []

/-- Mules, flags and the fabric: mules; flags set; fences; grants by target; the longest waits by target and block; locks by bank;
masters whose broken sequence awaits its error response, with the bank (R379); the block until which FAB is DEGRADED; the packet buffer; words
found uncorrectable and not yet rewritten in full; corrected words to be written back; background passes; the tick at which
a priority scrub began; the accesses of the host paths that wait, in order, with whether a LEADER holds them until the next block (R34, R297, R372,
R378). -/
structure FabSt where
  mules : Sparse MuleSt
  flags : List Nat
  fences : List Fence
  grants : Sparse Nat
  waits : Sparse (List (Nat × Nat))
  locks : Sparse (Option LockSt)
  broken : List (Nat × Nat)
  degTo : Nat
  pbuf : Mem
  bad : List Nat
  ceWait : List Nat
  passes : Nat
  prio : Option Nat
  hostWait : List (Bool × HostOp)
  deriving DecidableEq, Repr

/-- The fabric after reset. -/
def fab0 : FabSt := ⟨[], [], [], [], [], [], [], 0, [], [], [], 0, none, []⟩


/-- The machine. -/
structure State where
  /-- The commands that wait, first in, first out. -/
  pending : List Instr
  /-- MODEL: everything that has left the device, newest first (log entry 5). -/
  outs : List Emit
  /-- MODEL: how many free values have been taken (log entry 4). -/
  freeCtr : Nat
  /-- MODEL: time since power-on in ticks (R10, log entry 1). -/
  clk : Nat
  /-- TL (R7), counted without bound. -/
  tl : Nat
  /-- MODEL: the samples counted, which no step of TL changes (R58, log entry 1). -/
  smp : Nat
  /-- TL_OFS (R57). -/
  tlOfs : Int
  /-- MODEL: TL stands at a multiple of 8 whose boundary work has not been done yet (log entry 1). -/
  bndDue : Bool
  mode : ModeSt
  /-- The words of the control pages that are stored as registers, over their reset values. -/
  regs : Sparse Word
  /-- The values in force of the registers whose writes act at a block boundary (R153, R223, R270). -/
  inForce : Sparse Word
  host : HostSt
  /-- The error log's records, newest first, at most 64, and the newest sequence number (R53). -/
  elog : List ElogRec
  elogSeq : Nat
  slots : Sparse Slot
  dev : DevSt
  active : Mem
  latent : Mem
  /-- Shared memory by offset from 0x1000_0000 (R371). -/
  shm : Mem
  hens : Sparse HenSt
  jobs : JobsSt
  audio : AudioSt
  ptp : PtpSt
  ref : RefSt
  eth : EthSt
  str : StreamSt
  psm : PsmSt
  twin : TwinSt
  fab : FabSt
  /-- The last code of each rail-sense converter (R346). -/
  rails : Sparse Nat
  pwr : PwrSt
  lp : LpSt
  deriving DecidableEq, Repr

/-- An empty action slot. -/
def slot0 (_ : Nat) : Slot := ⟨0, 0, 0, 0, .empty, 0⟩

/-- No page key held. -/
def noKey (_ : Nat) : Option PageKey := none

/-- An interval not yet begun at its boundary. -/
def lpChan0 : LpChanAcc := ⟨0, 0, 0, 0, 0, 0, 0, false⟩

/-- An interval that holds nothing; `whole` says whether it begins at its boundary. -/
def lpAcc0 (whole : Bool) : LpAcc := ⟨0, whole, 0, false, lpChan0, lpChan0⟩

/-- The island before its supplies come. -/
def lp0 : LpSt :=
  { power := .off, held := false, sec := 0, sub := 0, due := false, timeValid := false, lostAt := none,
    trim := 0, ofs0 := 0, ofs1 := 0, sealCount := 0, key := none, flashSize := 0, flashFault := false,
    calMismatch := false, calEn := false, flash := [], slot := 0, seqNew := 0, qty := 0, level := 0,
    hyst := 0, alert := false, logSec := false, iSec := lpAcc0 false, iMin := lpAcc0 false,
    iQtr := lpAcc0 false, lafSq := [0, 0, 0, 0], secs := [], live := [], cal := none, laf := 0 }

/-- The machine right after power-on reset (the Reset columns and Table 16.3; log entries 9 to 12 name the
values the spec does not give). -/
def State.reset : State :=
  { pending := [], outs := [], freeCtr := 0, clk := 0, tl := 0, smp := 0, tlOfs := 0, bndDue := false,
    mode := ⟨.boot, .boot, none, 0, false, none, false⟩,
    regs := [], inForce := [],
    host := ⟨endpoint0, List.replicate 8 0, List.replicate 8 0, false, 0, false, false, none, 0, true, true, false, [], BitVec.allOnes 32, 0, [], [], [], [], [], false, 0, false⟩,
    elog := [], elogSeq := 0, slots := [],
    dev := ⟨.idle, 0, .idle, 0, 0, false, false, false, 0, 0, 0, 0, 0, 0, 0, 0⟩,
    active := [], latent := [], shm := [], hens := [], jobs := jobsReset,
    audio := audio0, ptp := ptp0, ref := ref0, eth := eth0, str := stream0, psm := psm0, twin := twin0, fab := fab0, rails := [],
    pwr := { coreMv := 750, memMv := 800, dipCore := none, dipMem := none, dipEnded := 0, ioa3v3 := false,
             keyh := List.replicate 8 0, fuseHash := none, fuseBusy := none, twlOff := false, wakePin := false,
             booting := true, image := none, imageSrc := 0, posA := false },
    lp := lp0 }

end Sys2Proof.Machine
end

