-- ==== Sys2Proof/Machine/Ops.lean ====
section
/-! DEFINITION. The named operations over the state that every family uses: register words and fields, counters,
free values, what leaves the device, time, the event bits and the error records of a page. -/

namespace Sys2Proof.Machine

/-- The word a stored register holds. -/
def State.getW (s : State) (addr : Nat) : Word := tget resetWord s.regs addr

/-- A stored register rewritten whole. -/
def State.setW (s : State) (addr : Nat) (v : Word) : State := { s with regs := tset resetWord s.regs addr v }

/-- The value of a field of a stored register. -/
def State.rd (s : State) (f : RField) : Nat := bitsN (s.getW f.addr).toNat f.lo f.w

/-- A field of a stored register as a truth value. -/
def State.on (s : State) (f : RField) : Bool := s.rd f != 0

/-- A field of a stored register rewritten; the value is cut to the field's width. -/
def State.wr (s : State) (f : RField) (v : Nat) : State :=
  s.setW f.addr (BitVec.ofNat 32 (setBitsN (s.getW f.addr).toNat f.lo f.w v))

/-- A one-bit field of a stored register rewritten. -/
def State.wrB (s : State) (f : RField) (b : Bool) : State := s.wr f (b2n b)

/-- A counter field advanced; it holds at its greatest value. -/
def State.inc (s : State) (f : RField) : State :=
  if s.rd f + 1 < 2 ^ f.w then s.wr f (s.rd f + 1) else s.wr f (2 ^ f.w - 1)

/-- A counter field advanced `n` times. -/
def State.incBy (s : State) (f : RField) (n : Nat) : State :=
  if s.rd f + n < 2 ^ f.w then s.wr f (s.rd f + n) else s.wr f (2 ^ f.w - 1)

/-- The value in force of a register whose writes act at a block boundary (R153, R223, R270). -/
def State.forceW (s : State) (addr : Nat) : Word := tget resetWord s.inForce addr

/-- The value in force of a field. -/
def State.force (s : State) (f : RField) : Nat := bitsN (s.forceW f.addr).toNat f.lo f.w

/-- TL_OFS rewritten; a change toggles the mr bit of AAF packets (R231). -/
def State.setOfs (s : State) (v : Int) : State :=
  { s with tlOfs := v, str := { s.str with mr := s.str.mr != (v != s.tlOfs) } }

/-! The pair of twins (chapter 11). -/

/-- The twin link counts as up (R292, R293). -/
def State.twUp (s : State) : Bool := s.twin.lanes != 0 && s.twin.pairOk

/-- The mode by which a chip acts on the twin link: in QUIESCE the one that it was entered from. -/
def State.twinMode (s : State) : Mode := if s.mode.cur = Mode.quiesce then s.mode.prev else s.mode.cur

/-- Whether messages, digests and copies pass: the link is up, and TWIN_DEGRADED does not stop them (R322). -/
def State.linked (s : State) : Bool := s.twUp && !(s.twin.deg && !s.twin.hb)

/-- Whether this chip takes the leader's values (R296): a follower, and any chip that copies. -/
def State.takesMsgs (s : State) : Bool := s.linked && (s.twinMode == .follower || s.twin.copy != .none)

/-- Whether this chip gives the values that both use. -/
def State.leadsPair (s : State) : Bool := s.linked && s.twinMode == .leader

/-- Whether a chip's own estimates are in use as they change: in a pair both chips use what the leader has fixed (R296). -/
def State.ownNow (s : State) : Bool := !(s.takesMsgs || s.leadsPair)

/-- Something leaves the device. -/
def State.emit (s : State) (e : Emit) : State := { s with outs := e :: s.outs }

/-- Several things leave the device, in order. -/
def State.emitAll (s : State) (es : List Emit) : State := es.foldl State.emit s

/-- The lower of two offsets that may be there. -/
def lowerOf : Option Nat → Option Nat → Option Nat
  | some x, some y => some (min x y)
  | some x, none => some x
  | none, y => y

/-- One free value taken: the counter that the Config constants are applied to advances (log entry 4). -/
def State.tick1 (s : State) : State := { s with freeCtr := s.freeCtr + 1 }

/-- The present block, by the running count of samples that no step of TL renumbers (R8, log entry 1). -/
def State.block (s : State) : Nat := s.smp / 8

/-- The TL of a sample by its running count. -/
def State.tlOf (s : State) (smp : Nat) : Int := (smp : Int) + s.tl - s.smp

/-- The running count of the sample at a TL. -/
def State.smpOf (s : State) (tl : Nat) : Nat := ((tl : Int) + s.smp - s.tl).toNat

/-- The tick within the sample. -/
def State.subTick (s : State) : Nat := s.clk % 128

/-- The tick within the block, 0 to 1,023 (R10). -/
def State.tick (s : State) : Nat := s.smp % 8 * 128 + s.clk % 128

/-- The modes in which TL counts (R58). -/
def Mode.counts : Mode → Bool
  | .boot => false
  | .dark => false
  | _ => true

/-- The modes that process audio for the outside: STANDALONE, LEADER, FOLLOWER, ORPHAN and QUIESCE (Table 1.4). -/
def Mode.run : Mode → Bool
  | .standalone => true | .leader => true | .follower => true | .orphan => true | .quiesce => true
  | _ => false

/-- The mode that a write is judged under: LEADER for a mirrored write (R297). -/
def State.modeFor (s : State) (path : Nat) : Mode := if path = 4 then .leader else s.mode.cur

/-- The present modulator count (R332), at the start of the present tick. -/
def State.count (s : State) : Nat := 4096 * s.tl + 32 * s.subTick

/-- Ticks that cover a time in µs: 12.288 ticks to the µs. -/
def usPassed (ticks us : Nat) : Bool := decide (us * 12288 ≤ ticks * 1000)

/-- The block is enabled: CTRL.ENABLE of its page. -/
def State.enabled (s : State) (page : Nat) : Bool := bitN (s.getW (pageAddr page 0x008)).toNat 0 != 0

/-- CTRL.ENABLE rewritten. -/
def State.setEnable (s : State) (page : Nat) (b : Bool) : State := s.wr ⟨pageAddr page 0x008, 0, 1⟩ (b2n b)

/-- Event bit `bit` of a page occurs: EVT_PEND takes it, whatever EVT_EN holds (R48). -/
def State.raise (s : State) (page bit : Nat) : State := s.wr ⟨pageAddr page 0x018, bit, 1⟩ 1

/-- Days from 2000-01-01 to the first day of a year counted from 2000. -/
def daysToYear (y : Nat) : Nat := 365 * y + (y + 3) / 4 - (y + 99) / 100 + (y + 399) / 400

/-- Whether a year counted from 2000 is a leap year. -/
def leapYear (y : Nat) : Bool := y % 4 == 0 && (y % 100 != 0 || y % 400 == 0)

/-- Lengths of the months of a year. -/
def monthLens (leap : Bool) : List Nat := [31, if leap then 29 else 28, 31, 30, 31, 30, 31, 31, 30, 31, 30, 31]

/-- Month (from 1) and day (from 1) of the day `d` of a year. -/
def monthOf : List Nat → Nat → Nat → Nat × Nat
  | [], m, d => (m, d + 1)
  | l :: t, m, d => if d < l then (m, d + 1) else monthOf t (m + 1) (d - l)

/-- The year (from 2000) that holds a day counted from 2000-01-01. -/
def yearOf (d : Nat) : Nat :=
  let y := d * 400 / 146097
  if d < daysToYear y then y - 1 else if daysToYear (y + 1) ≤ d then y + 1 else y

/-- The 64-bit Loupe time stamp (Table 15.2) of a second since 2000-01-01 and a fraction in 1/1,024 s. -/
def lpStamp (sec frac : Nat) : Nat :=
  let d := sec / 86400
  let y := yearOf d
  let md := monthOf (monthLens (leapYear y)) 1 (d - daysToYear y)
  let t := sec % 86400
  frac + t % 60 * 2 ^ 10 + t / 60 % 60 * 2 ^ 16 + t / 3600 * 2 ^ 22 + md.2 * 2 ^ 27
    + md.1 * 2 ^ 32 + (2000 + y) * 2 ^ 36

/-- The calendar's fraction of a second in 1/1,024 s: 48,000 samples to the second (R394). -/
def LpSt.frac (l : LpSt) : Nat := l.sub * 1024 / 48000

/-- The stamp that the error log takes: zero while the Loupe is not running (Table 2.7). -/
def State.calStamp (s : State) : Nat :=
  match s.lp.power with
  | .measure => lpStamp s.lp.sec s.lp.frac
  | _ => 0

/-- One record of the error log written, the oldest of 64 lost (R53). -/
def State.logRec (s : State) (page off code path : Nat) (data : Word) : State :=
  let n := s.elogSeq + 1
  { s with
    elogSeq := n
    elog := (ElogRec.mk n s.tl s.calStamp page code off path data :: s.elog).take 64 }

/-- A page records an error (R50): the count, ERR_LAST, the TL, one ELOG record, and EVT_PEND.ERR. -/
def State.err (s : State) (page off code path : Nat) (data : Word) : State :=
  (((((s.inc ⟨pageAddr page 0x020, 0, 32⟩).setW (pageAddr page 0x024) (BitVec.ofNat 32 (off + code * 2 ^ 16 + path * 2 ^ 24))).setW
    (pageAddr page 0x028) (BitVec.ofNat 32 s.tl)).setW (pageAddr page 0x02C) (BitVec.ofNat 32 (s.tl / 2 ^ 32))).logRec page off code path data).raise page 0

/-- The key of a page that is held now: one block after its holder's last counted write it is not held any more (R51). -/
def State.keyOf (s : State) (page : Nat) : Option PageKey :=
  match tget noKey s.host.keys page with
  | some k => if s.clk < k.since + 1024 then some k else none
  | none => none

/-- Whether a path holds a page's key (R51). -/
def State.holdsKey (s : State) (page path : Nat) : Bool :=
  match s.keyOf page with
  | some k => k.holder == path
  | none => false

/-- The page's key rewritten. -/
def State.setKey (s : State) (page : Nat) (k : Option PageKey) : State :=
  { s with host := { s.host with keys := tset noKey s.host.keys page k } }

/-! Mules. -/

/-- Mule `m`. -/
def State.mule (s : State) (m : Nat) : MuleSt := tget mule0 s.fab.mules m

/-- Mule `m` rewritten. -/
def State.setMule (s : State) (m : Nat) (v : MuleSt) : State := { s with fab := { s.fab with mules := tset mule0 s.fab.mules m v } }

/-- Whether a mule is executing: RUN, WAIT or FENCED. -/
def MuleSt.busy (v : MuleSt) : Bool :=
  match v.st with
  | .run => true | .wait => true | .fenced => true | _ => false

/-- Whether a mule carries out its work (R365): one that is stopped, held idle or unpowered delivers nothing. -/
def State.muleServes (s : State) (m : Nat) : Bool := (s.mule m).busy

end Sys2Proof.Machine
end

