-- ==== Sys2Proof/Machine/Bank.lean ====
section
/-! DEFINITION. The contents of a parameter bank (R65): its reset bytes, and the tables of the job graph (Tables 4.1 to
4.5) and the bus blocks (Tables 6.1 to 6.4) read out of it. -/

namespace Sys2Proof.Machine

/-- What a bank byte holds that nothing has written: the reset value of the banked fields (R422), else zero. -/
def bankD (a : Nat) : Byte :=
  if 0x60A000 ≤ a ∧ a < 0x60A200 then
    nth 0 [0x00, 0x03, 0x00, 0x10, 0x00, 0x00, 0x40, 0x1F, 0x0C, 0x00, 0xC0, 0x03, 0, 0, 0, 0] (a % 16)
  else if 0x60A200 ≤ a ∧ a < 0x60A280 ∧ a % 8 = 4 then 0x10
  else 0

/-- A little-endian number of `n` bytes of a bank. -/
def bk (b : Mem) (off n : Nat) : Nat := mNat bankD b off n

/-- A word of a bank. -/
def bkW (b : Mem) (off : Nat) : Nat := bk b off 4

/-- A program table entry (Table 4.3). -/
structure ProgE where
  image : Nat
  words : Nat
  entry : Nat
  cycles : Nat
  inAt : Nat
  outAt : Nat
  stateAt : Nat
  paramAt : Nat
  scratchAt : Nat
  scratchLen : Nat
  stateLen : Nat
  paramLen : Nat
  cls : Nat
  deriving DecidableEq, Repr

/-- The bank offset of a program table entry. -/
def progOff (p : Nat) : Nat := 0x680100 + 32 * p

/-- A program table entry read. -/
def progE (b : Mem) (p : Nat) : ProgE :=
  let w (i : Nat) : Nat := bkW b (progOff p + 4 * i)
  { image := w 0, words := bitsN (w 1) 0 13, entry := bitsN (w 1) 16 13, cycles := w 2,
    inAt := bitsN (w 3) 0 11, outAt := bitsN (w 3) 16 11, stateAt := bitsN (w 4) 0 11, paramAt := bitsN (w 4) 16 11,
    scratchAt := bitsN (w 5) 0 11, scratchLen := bitsN (w 5) 16 11, stateLen := bitsN (w 6) 0 11,
    paramLen := bitsN (w 6) 16 11, cls := bitsN (w 7) 0 4 }

/-- An instance table entry (Table 4.4). -/
structure InstE where
  prog : Nat
  home : Nat
  raEn : Bool
  pin : Bool
  ovf : Bool
  en : Bool
  deadline : Nat
  raTick : Nat
  init : Bool
  stateBase : Nat
  list : Nat
  deriving DecidableEq, Repr

/-- The bank offset of an instance table entry. -/
def instOff (j : Nat) : Nat := 0x684000 + 16 * j

/-- An instance table entry read. -/
def instE (b : Mem) (j : Nat) : InstE :=
  let w (i : Nat) : Nat := bkW b (instOff j + 4 * i)
  { prog := bitsN (w 0) 0 8, home := bitsN (w 0) 8 4, raEn := bitN (w 0) 12 == 1, pin := bitN (w 0) 13 == 1,
    ovf := bitN (w 0) 14 == 1, en := bitN (w 0) 15 == 1, deadline := bitsN (w 0) 16 10, raTick := bitsN (w 1) 0 10,
    init := bitN (w 1) 15 == 1, stateBase := bitsN (w 2) 0 21, list := bitsN (w 3) 0 17 }

/-- The bank offset of a list pool word. -/
def listOff (i : Nat) : Nat := 0x724000 + 4 * i

/-- NPROG, NJOB, NLINK, LINK_BASE (as an offset from 0x1000_0000) and GRAPH_ID (Table 4.2). -/
def nProg (b : Mem) : Nat := bkW b 0x680008
def nJob (b : Mem) : Nat := min (bkW b 0x68000C) 40960
def nLink (b : Mem) : Nat := bkW b 0x680010
def linkBase (b : Mem) : Nat := bkW b 0x680014
def graphId (b : Mem) : Nat := bkW b 0x680018

/-- NIN and NOUT of a list. -/
def listNin (b : Mem) (l : Nat) : Nat := bitsN (bkW b (listOff l)) 0 8
def listNout (b : Mem) (l : Nat) : Nat := bitsN (bkW b (listOff l)) 8 8

/-- Word 1 of a list: the parameter area, or the first bus block, as a bank offset. -/
def listParam (b : Mem) (l : Nat) : Nat := 4 * bitsN (bkW b (listOff (l + 1))) 0 21

/-- The channels one list entry covers, as (KIND, index). -/
def entryChans (w : Nat) : List (Nat × Nat) :=
  (List.range (bitsN w 16 8 + 1)).map fun k => (bitsN w 0 2, bitsN w 2 14 + k)

/-- The channels of `n` list entries from list pool word `l` on. -/
def listChans (b : Mem) (l n : Nat) : List (Nat × Nat) :=
  (List.range n).flatMap fun i => entryChans (bkW b (listOff (l + i)))

/-- The input channels of an instance, as (KIND, index): 0 ICH, 1 link (Table 4.5). -/
def inputs (b : Mem) (j : Nat) : List (Nat × Nat) :=
  let l := (instE b j).list
  listChans b (l + 2) (listNin b l)

/-- The output channels of an instance: 0 ECH, 1 link, 2 internal return. -/
def outputs (b : Mem) (j : Nat) : List (Nat × Nat) :=
  let l := (instE b j).list
  listChans b (l + 2 + listNin b l) (listNout b l)

/-- The enabled instances. -/
def live (b : Mem) : List Nat := (List.range (nJob b)).filter fun j => (instE b j).en

/-! Bus blocks. -/

/-- The bank offset of a bus block (R142). -/
def busOff (bus : Nat) : Nat := 0x400000 + 0x400 * bus

/-- The crosspoint code of a source to a bus (Table 3.3). -/
def xpCode (b : Mem) (src bus : Nat) : Nat := bk b ((src * 1024 + bus) * 2) 2

/-- The MUTEMAP bit of a source on a bus. -/
def muteBit (b : Mem) (src bus : Nat) : Bool := bitN (bk b (busOff bus + 0x80 + src / 8) 1) (src % 8) == 1

/-- BUS_CTL and BUS_GAIN (Table 6.1). -/
def busCtl (b : Mem) (bus : Nat) : Nat := bk b (busOff bus + 2) 2
def busGain (b : Mem) (bus : Nat) : Nat := bk b (busOff bus) 2

/-- The words of an output map entry (Table 6.3). -/
def outW0 (b : Mem) (bus d : Nat) : Nat := bkW b (busOff bus + 0x20 + 8 * d)
def outW1 (b : Mem) (bus d : Nat) : Nat := bkW b (busOff bus + 0x24 + 8 * d)

/-- Whether an output map entry feeds a destination. -/
def outUsed (b : Mem) (bus d : Nat) : Bool := bitN (outW0 b bus d) 31 == 1

/-- DLY_BASE, DLY_LEN, FIR_BASE, FIR_LEN, FIR_HIST and NBQ of a bus. -/
def dlyBase (b : Mem) (bus : Nat) : Nat := bitsN (bkW b (busOff bus + 0x18)) 0 24
def dlyLen (b : Mem) (bus : Nat) : Nat := bitsN (bkW b (busOff bus + 0x1C)) 0 18
def firBase (b : Mem) (bus : Nat) : Nat := bitsN (bkW b (busOff bus + 0x0C)) 0 18
def firLen (b : Mem) (bus : Nat) : Nat := bitsN (bkW b (busOff bus + 0x10)) 0 13
def firHist (b : Mem) (bus : Nat) : Nat := bitsN (bkW b (busOff bus + 0x14)) 0 24
def nBq (b : Mem) (bus : Nat) : Nat := bitsN (bkW b (busOff bus + 0x04)) 0 6
def bqBypass (b : Mem) (bus i : Nat) : Bool := bitN (bkW b (busOff bus + 0x08)) i == 1

/-- Coefficient `k` (b0, b1, b2, a1, a2) of a biquad section. -/
def bqCoef (b : Mem) (bus i k : Nat) : Word := BitVec.ofNat 32 (bkW b (busOff bus + 0x180 + 20 * i + 4 * k))

/-- The three insert words: INS_PRE, INS_POST, INS_DLY (Table 6.4). -/
def insWord (b : Mem) (bus i : Nat) : Nat := bkW b (busOff bus + 0x60 + 4 * i)

/-- The first bus and the number of busses a stock instance serves (R144): as many as its outputs, or for DLY as
many as its inputs. -/
def firstBus (b : Mem) (j : Nat) : Nat := (listParam b (instE b j).list - 0x400000) / 0x400

/-- The number of busses a stock instance serves. -/
def numBus (b : Mem) (j : Nat) : Nat :=
  if (progE b (instE b j).prog).cls = 3 then (inputs b j).length else (outputs b j).length

/-- The class of an instance's program. -/
def clsOf (b : Mem) (j : Nat) : Nat := (progE b (instE b j).prog).cls

/-- Whether an instance of a class serves a bus. -/
def serves (b : Mem) (cls j bus : Nat) : Bool :=
  clsOf b j == cls && decide (firstBus b j ≤ bus) && decide (bus < firstBus b j + numBus b j)

/-- The instances of a class that serve a bus, ascending. -/
def servers (b : Mem) (cls bus : Nat) : List Nat := (live b).filter fun j => serves b cls j bus

end Sys2Proof.Machine
end

