-- ==== Sys2Proof/Machine/Graph.lean ====
section
/-! DEFINITION. The relations of a job graph read out of a bank: writers and readers, feedback and forward returns, depths
(R76), dependencies (R82), run costs (R100), and the inserts that are bypassed (R164, R165). -/

namespace Sys2Proof.Machine

/-- The enabled instances that write a channel: 0 ECH, 1 link, 2 internal return. -/
def writers (b : Mem) (kind idx : Nat) : List Nat := (live b).filter fun j => (outputs b j).contains (kind, idx)

/-- The writer of a channel. -/
def writerOf (b : Mem) (kind idx : Nat) : Option Nat := (writers b kind idx).head?

/-- Whether an ICH is an internal return (Table 1.1). -/
def isReturn (ich : Nat) : Bool := decide (1168 ≤ ich) && decide (ich < 2048)

/-- The instances whose links an instance reads: its dependencies (R82). -/
def deps (b : Mem) (j : Nat) : List Nat :=
  ((inputs b j).filterMap fun x => if x.1 = 1 then writerOf b 1 x.2 else none).eraseDups

/-- The writers of the internal returns an instance reads. -/
def retWriters (b : Mem) (j : Nat) : List Nat :=
  ((inputs b j).filterMap fun x => if x.1 = 0 && isReturn x.2 then writerOf b 2 x.2 else none).eraseDups

/-- The instances that read what an instance writes, through links and internal returns (R76). -/
def readers (b : Mem) (j : Nat) : List Nat :=
  (live b).filter fun r => (deps b r).contains j || (retWriters b r).contains j

/-- The instances that read a link an instance writes. -/
def linkReaders (b : Mem) (j : Nat) : List Nat := (live b).filter fun r => (deps b r).contains j

/-- What can be reached by following outputs, in `n` rounds. -/
def reach (b : Mem) : Nat → List Nat → List Nat
  | 0, seen => seen
  | n + 1, seen =>
    let more := ((seen.flatMap (readers b)).filter fun j => !seen.contains j).eraseDups
    if more.isEmpty then seen else reach b n (seen ++ more)

/-- Whether the internal return that `j` reads from `w` is a feedback return (R76). -/
def isFeedback (b : Mem) (j w : Nat) : Bool := (reach b (nJob b) [j]).contains w

/-- One round of depths: a job has at least the depth of the writers of its links, and one more than the writers of
the forward returns it reads (R76; DEDUCED for links, log entry 17). -/
def depthRound (edges : List (Nat × Nat × Bool)) (d : Sparse Nat) : Sparse Nat :=
  edges.foldl (fun d e =>
    let v := tget zeroN d e.2.1 + b2n e.2.2
    if tget zeroN d e.1 < v then tset zeroN d e.1 v else d) d
where zeroN (_ : Nat) : Nat := 0

/-- The reader, writer and whether it is a forward return, for every link and forward return of the graph. -/
def depthEdges (b : Mem) : List (Nat × Nat × Bool) :=
  (live b).flatMap fun j =>
    (deps b j).map (fun w => (j, w, false))
      ++ ((retWriters b j).filter fun w => !isFeedback b j w).map fun w => (j, w, true)

/-- The depths of the graph's instances. -/
def depthTab (b : Mem) : Sparse Nat := go (depthEdges b) ((live b).length + 1) []
where
  go (edges : List (Nat × Nat × Bool)) : Nat → Sparse Nat → Sparse Nat
    | 0, d => d
    | n + 1, d => go edges n (depthRound edges d)

/-- The depth of an instance (R76). -/
def depthOf (b : Mem) (j : Nat) : Nat := tget depthRound.zeroN (depthTab b) j

/-- N: the greatest depth of the graph (R71). -/
def maxDepth (b : Mem) : Nat := (live b).foldl (fun a j => max a (tget depthRound.zeroN (depthTab b) j)) 0

/-- The depth of the writer of an ECH (R139). -/
def echDepth (b : Mem) (e : Nat) : Option Nat := (writerOf b 0 e).map (depthOf b)

/-- The cost of one run (R100). -/
def cost (b : Mem) (ovh j : Nat) : Nat :=
  let p := progE b (instE b j).prog
  p.cycles + ovh + (32 * (outputs b j).length + 64 * p.scratchLen + 63) / 64

/-- Home jobs of a flock. -/
def homeJobs (b : Mem) (f : Nat) : List Nat := (live b).filter fun j => (instE b j).home == f

/-! Inserts (R164, R165). -/

/-- The busses that stock instances serve. -/
def busses (b : Mem) : List Nat :=
  ((live b).flatMap fun j =>
    let c := clsOf b j
    if 1 ≤ c ∧ c ≤ 4 then (List.range (numBus b j)).map fun i => firstBus b j + i else []).eraseDups

/-- The last XMIX instance of a bus: the one whose output no other XMIX of the bus takes as carry (R137). -/
def lastXmix (b : Mem) (bus : Nat) : Option Nat :=
  (servers b 1 bus).find? fun j => !(servers b 1 bus).any fun r => r != j && (deps b r).contains j

/-- The output channel of a stage for a bus (XMIX, BQ and FIR: one per bus in order). -/
def stageOut (b : Mem) (j bus : Nat) : Option (Nat × Nat) := (outputs b j)[bus - firstBus b j]?

/-- The input channel of a stage for a bus (BQ, FIR and DLY: one per bus in order). -/
def stageIn (b : Mem) (j bus : Nat) : Option (Nat × Nat) := (inputs b j)[bus - firstBus b j]?

/-- The stage before and the stage after an insert point of a bus: pre-EQ after the last XMIX, post-EQ before the DLY. -/
def insertStages (b : Mem) (bus i : Nat) : Option Nat × Option Nat :=
  let bq := (servers b 2 bus).head?
  let fir := (servers b 4 bus).head?
  let dly := (servers b 3 bus).head?
  if i = 0 then (lastXmix b bus, bq <|> fir <|> dly)
  else (fir <|> bq <|> lastXmix b bus, dly)

/-- The position of an output map entry's channel in the outputs of its DLY instance (Table 6.6). -/
def dlyOutPos (b : Mem) (j bus d : Nat) : Nat :=
  ((List.range (bus - firstBus b j)).map fun i => ((List.range 8).filter (outUsed b (firstBus b j + i))).length).foldl (· + ·) 0
    + ((List.range d).filter (outUsed b bus)).length

/-- Whether the insert point `i` of a bus holds a job. -/
def insUsed (b : Mem) (bus i : Nat) : Bool := bitN (insWord b bus i) 31 == 1

/-- The link between a bus's pre-EQ and post-EQ inserts where no stage stands between them. -/
def midLink (b : Mem) (bus : Nat) : Option (Nat × Nat) :=
  if insUsed b bus 0 && insUsed b bus 1 && (servers b 2 bus).isEmpty && (servers b 4 bus).isEmpty then
    (outputs b (bitsN (insWord b bus 0) 0 16)).find? fun c => c.1 == 1 && (inputs b (bitsN (insWord b bus 1) 0 16)).contains c
  else none

/-- The channel pair of an insert point of a bus (R164): the link it reads and the channel it writes. -/
def insertPair (b : Mem) (bus i : Nat) : Option ((Nat × Nat) × (Nat × Nat)) :=
  if i < 2 then do
    let st := insertStages b bus i
    let x ← stageOut b (← st.1) bus
    let y ← stageIn b (← st.2) bus
    match midLink b bus with
    | some m => some (if i = 0 then (x, m) else (m, y))
    | none => some (x, y)
  else do
    let j ← (servers b 3 bus).head?
    let inCh ← (outputs b j)[dlyOutPos b j bus (bitsN (insWord b bus 2) 16 3)]?
    let ins := bitsN (insWord b bus 2) 0 16
    some (inCh, ← (outputs b ins)[(inputs b ins).idxOf inCh]?)

/-- The link delivered in place of an output channel of a bypassed insert (R165). -/
def bypassLink (b : Mem) (ch : Nat × Nat) : Option Nat :=
  match writerOf b ch.1 ch.2 with
  | none => none
  | some w =>
    if clsOf b w ≠ 0 then none else
      (busses b).findSome? fun bus => [0, 1, 2].findSome? fun i =>
        let wd := insWord b bus i
        if bitsN wd 30 2 = 3 ∧ bitsN wd 0 16 = w then
          match insertPair b bus i with
          | some (p, q) => if q = ch ∧ p.1 = 1 then some p.2 else none
          | none => none
        else none

end Sys2Proof.Machine
end

