-- ==== Sys2Proof/Machine/Gains.lean ====
section
/-! DEFINITION. The gain code (R140), the scale step (R152), the sine table (R172) and the biquad coefficients of the
pink noise generator (Table 6.8), each computed to its nearest integer. -/

namespace Sys2Proof.Machine

/-- The greatest `x` in an interval whose test holds, by `n` halvings of a monotone test true at `lo`. -/
def searchNat (test : Nat → Bool) : Nat → Nat → Nat → Nat
  | 0, lo, _ => lo
  | n + 1, lo, hi =>
    let m := (lo + hi) / 2
    if test m then searchNat test n m hi else searchNat test n lo m

/-- Whether (2g - 1) / 2 is at most 2^27 × 10^((c - 49,152) / 5,120), by 5,120th powers. -/
def gainLe (c g : Nat) : Bool :=
  let l := (2 * g - 1) ^ 5120
  let r := 2 ^ (28 * 5120)
  if 49152 ≤ c then decide (l ≤ r * 10 ^ (c - 49152)) else decide (l * 10 ^ (49152 - c) ≤ r)

/-- G(c), the unsigned Q5.27 multiplier of a gain code (R140); codes below 0x0001 have none. -/
def gainOf (c : Nat) : Nat := if c = 0 then 0 else searchNat (gainLe c) 34 0 (2 ^ 34)

/-- D of R152: 2^29 × 10^(-db / 200), rounded to nearest. -/
def stepD (db : Nat) : Nat :=
  searchNat (fun d => decide ((2 * d - 1) ^ 200 * 10 ^ db ≤ 2 ^ (30 * 200))) 30 0 (2 ^ 30)

/-- pi × 2^128, rounded down. -/
def piQ128 : Nat := 0x3243F6A8885A308D313198A2E03707344

/-- Terms of the sine series: `k` terms from term `m`, angle squared `x2` in Q128. -/
def sinTerms (x2 : Int) : Nat → Nat → Int → Int → Int
  | 0, _, _, acc => acc
  | k + 1, m, t, acc =>
    let t' := -(t * x2 / 2 ^ 128) / ((2 * m) * (2 * m + 1))
    sinTerms x2 k (m + 1) t' (acc + t')

/-- Entry `i` of the quarter sine table Q (R172). -/
def sineQ (i : Nat) : Int :=
  if 4096 ≤ i then 0x7FFFFFFF else
    let x : Int := piQ128 * i / 8192
    let s := sinTerms (x * x / 2 ^ 128) 24 1 x x
    (s / 2 ^ 96 + 1) / 2

/-- The sine value of a phase (R172). -/
def sineV (phi : Nat) : Int :=
  let q := phi / 2 ^ 30 % 4
  let r := phi % 2 ^ 30
  let a := if q % 2 = 1 then 2 ^ 30 - r else r
  let i := a / 2 ^ 18
  let f : Int := (a % 2 ^ 18 : Nat)
  let v := sineQ i + (sineQ (i + 1) - sineQ i) * f / 2 ^ 18
  if 2 ≤ q then -v else v

/-- b0 and a1 of the three pink noise sections in Q3.29 (Table 6.8). -/
def pinkCoefs : List (Int × Int) :=
  [(8777839, -536119293), (27219355, -529139971), (88046830, -461708984)]

end Sys2Proof.Machine
end

