-- ==== Sys2Proof/Machine/Operands.lean ====
section
/-! DEFINITION. The operand forms of a hen's instruction word (R115 to R124): the three slots, the long immediate
and the absolute load or store, decoded once; `none` is a reserved encoding (R129, R130). -/

namespace Sys2Proof.Machine

/-- The X-slot operations on data registers (Table 5.6, codes 0x01 to 0x15). -/
inductive XOp where
  | add | sub | addi | and | or | xor | adds | subs | shl | shr | asr | shlv | asrv | abs | neg
  | min | max | cmp | cmpi | mov | movi
  deriving DecidableEq, Repr

/-- The vector searches (R127). -/
inductive Search where
  | max | min | absMax
  deriving DecidableEq, Repr

/-- The X slot. -/
inductive XSlot where
  | nop
  | alu (op : XOp) (d a b : Nat) (imm : Int)
  | mvs (d aux : Nat)
  | mvg (aux a : Nat)
  | search (op : Search) (dv di q : Nat)
  | br (cond target : Nat)
  | call (target : Nat)
  | ret
  | loop (level stop : Nat)
  | endl (level : Nat)
  | halt
  | rti
  | brk
  deriving DecidableEq, Repr

/-- What a multiply does with its accumulator. -/
inductive MacOp where
  | mpy | mac | msu
  deriving DecidableEq, Repr

/-- The M slot (Table 5.7). -/
inductive MSlot where
  | nop
  | quad (op : MacOp) (set shift qa : Nat) (broadcast : Bool) (b : Nat)
  | single (op : MacOp) (acc shift a b : Nat)
  | clr (acc : Nat)
  | clrQ (set : Nat)
  | adda (dst src : Nat)
  | suba (dst src : Nat)
  | mova (dst src : Nat)
  | sha (acc : Nat) (sh : Int)
  | ldah (acc d : Nat)
  | ldal (acc d : Nat)
  | exth (acc d : Nat)
  | extl (acc d : Nat)
  deriving DecidableEq, Repr

/-- How an L-slot operation finds its address (R121, R124). -/
inductive Addr where
  | ptr (p u : Nat) (disp : Int)
  | abs (a : Nat)
  deriving DecidableEq, Repr

/-- The L slot (Table 5.8); `w` is the width code: 0 word, 1 pair, 2 quad, 3 half-word. -/
inductive LSlot where
  | nop
  | ld (reg w : Nat) (at_ : Addr)
  | ldz (reg : Nat) (at_ : Addr)
  | st (reg w : Nat) (at_ : Addr)
  | sta (acc : Nat) (trunc sat24 : Bool) (at_ : Addr)
  | staQ (set : Nat) (trunc sat24 : Bool) (at_ : Addr)
  | ldaRaw (acc : Nat) (at_ : Addr)
  | staRaw (acc : Nat) (at_ : Addr)
  | lea (w p u : Nat)
  deriving DecidableEq, Repr

/-- A whole word (Table 5.5). -/
inductive HenWord where
  | slots (x : XSlot) (m : MSlot) (l : LSlot)
  | ldi (aux : Bool) (reg : Nat) (value : Word)
  deriving DecidableEq, Repr

/-- The auxiliary numbers that Table 5.3 reserves. -/
def auxReserved (n : Nat) : Bool := (decide (37 ≤ n) && decide (n ≤ 39)) || decide (45 ≤ n)

/-- The bytes of a width code. -/
def widthBytes (w : Nat) : Nat := if w = 0 then 4 else if w = 1 then 8 else if w = 2 then 16 else 2

/-- An X-slot operation, where its reserved fields are zero. -/
def optIf {α : Type} (c : Bool) (a : α) : Option α := if c then some a else none

/-- Form XR with its operation. -/
def formXR (op : XOp) (v : Nat) : Option XSlot :=
  optIf (bitN v 0 == 0) (.alu op (bitsN v 11 5) (bitsN v 6 5) (bitsN v 1 5) 0)

/-- Form XR with B = 0. -/
def formXR1 (op : XOp) (v : Nat) : Option XSlot :=
  optIf (bitsN v 0 6 == 0) (.alu op (bitsN v 11 5) (bitsN v 6 5) 0 0)

/-- Form XI with a signed immediate. -/
def formXI (op : XOp) (v : Nat) : Option XSlot :=
  some (.alu op (bitsN v 11 5) (bitsN v 6 5) 0 (signedN 6 (bitsN v 0 6)))

/-- Form XI with a shift amount of 0 to 31. -/
def formXIs (op : XOp) (v : Nat) : Option XSlot :=
  optIf (decide (bitsN v 0 6 < 32)) (.alu op (bitsN v 11 5) (bitsN v 6 5) 0 (bitsN v 0 6))

/-- Form XV. -/
def formXV (op : Search) (v : Nat) : Option XSlot :=
  optIf (bitsN v 0 3 == 0) (.search op (bitsN v 11 5) (bitsN v 6 5) (bitsN v 3 3))

/-- Form XN. -/
def formXN (x : XSlot) (v : Nat) : Option XSlot := optIf (v == 0) x

/-- The X slot's 22 bits (R116). -/
def decodeX (n : Nat) : Option XSlot :=
  let v := n % 65536
  match n / 65536 with
  | 0x00 => formXN .nop v
  | 0x01 => formXR .add v
  | 0x02 => formXR .sub v
  | 0x03 => formXI .addi v
  | 0x04 => formXR .and v
  | 0x05 => formXR .or v
  | 0x06 => formXR .xor v
  | 0x07 => formXR .adds v
  | 0x08 => formXR .subs v
  | 0x09 => formXIs .shl v
  | 0x0A => formXIs .shr v
  | 0x0B => formXIs .asr v
  | 0x0C => formXR .shlv v
  | 0x0D => formXR .asrv v
  | 0x0E => formXR1 .abs v
  | 0x0F => formXR1 .neg v
  | 0x10 => formXR .min v
  | 0x11 => formXR .max v
  | 0x12 => if bitsN v 11 5 = 0 then formXR .cmp v else none
  | 0x13 => if bitsN v 11 5 = 0 then formXI .cmpi v else none
  | 0x14 => formXR1 .mov v
  | 0x15 => some (.alu .movi (bitsN v 11 5) 0 0 (signedN 11 (bitsN v 0 11)))
  | 0x16 => optIf (bitsN v 6 5 == 0 && !auxReserved (bitsN v 0 6)) (.mvs (bitsN v 11 5) (bitsN v 0 6))
  | 0x17 => optIf (bitsN v 11 5 == 0 && !auxReserved (bitsN v 0 6)) (.mvg (bitsN v 0 6) (bitsN v 6 5))
  | 0x18 => formXV .max v
  | 0x19 => formXV .min v
  | 0x1A => formXV .absMax v
  | 0x20 => optIf (decide (bitsN v 12 4 < 12)) (.br (bitsN v 12 4) (bitsN v 0 12))
  | 0x21 => optIf (bitsN v 12 4 == 0) (.call (bitsN v 0 12))
  | 0x22 => formXN .ret v
  | 0x23 => optIf (decide (bitsN v 14 2 < 3) && bitsN v 12 2 == 0) (.loop (bitsN v 14 2) (bitsN v 0 12))
  | 0x24 => optIf (decide (bitsN v 14 2 < 3) && bitsN v 0 14 == 0) (.endl (bitsN v 14 2))
  | 0x25 => formXN .halt v
  | 0x26 => formXN .rti v
  | 0x27 => formXN .brk v
  | _ => none

/-- The left shift that a PS field selects (R109); PS 3 is reserved. -/
def psShift (ps : Nat) : Nat := if ps = 0 then 0 else if ps = 1 then 1 else 3

/-- Form MQ. -/
def formMQ (op : MacOp) (v : Nat) : Option MSlot :=
  let ps := bitsN v 12 2
  let bm := bitN v 8
  let b := bitsN v 3 5
  optIf (decide (ps < 3) && bitsN v 0 3 == 0 && (bm == 1 || decide (b < 8)))
    (.quad op (bitN v 14) (psShift ps) (bitsN v 9 3) (bm == 1) b)

/-- Form MS. -/
def formMS (op : MacOp) (v : Nat) : Option MSlot :=
  optIf (decide (bitsN v 10 2 < 3)) (.single op (bitsN v 12 3) (psShift (bitsN v 10 2)) (bitsN v 5 5) (bitsN v 0 5))

/-- Form MA with SH = 0. -/
def formMA (f : Nat → Nat → MSlot) (v : Nat) : Option MSlot :=
  optIf (bitsN v 0 9 == 0) (f (bitsN v 12 3) (bitsN v 9 3))

/-- Form MD. -/
def formMD (f : Nat → Nat → MSlot) (v : Nat) : Option MSlot :=
  optIf (bitsN v 5 7 == 0) (f (bitsN v 12 3) (bitsN v 0 5))

/-- The M slot's 20 bits (R119). -/
def decodeM (n : Nat) : Option MSlot :=
  let v := n % 32768
  match n / 32768 with
  | 0x00 => optIf (v == 0) .nop
  | 0x01 => formMQ .mpy v
  | 0x02 => formMQ .mac v
  | 0x03 => formMQ .msu v
  | 0x04 => formMS .mpy v
  | 0x05 => formMS .mac v
  | 0x06 => formMS .msu v
  | 0x08 => optIf (bitsN v 0 12 == 0) (.clr (bitsN v 12 3))
  | 0x09 => optIf (bitsN v 0 14 == 0) (.clrQ (bitN v 14))
  | 0x0A => formMA .adda v
  | 0x0B => formMA .suba v
  | 0x0C => formMA .mova v
  | 0x0D => optIf (bitsN v 9 3 == 0 && bitsN v 0 2 == 0) (.sha (bitsN v 12 3) (signedN 7 (bitsN v 2 7)))
  | 0x10 => formMD .ldah v
  | 0x11 => formMD .ldal v
  | 0x12 => formMD .exth v
  | 0x13 => formMD .extl v
  | _ => none

/-- Whether a register number suits a width: a pair even, a quad a multiple of 4 (R121). -/
def regFits (reg w : Nat) : Bool :=
  if w = 1 then reg % 2 == 0 else if w = 2 then reg % 4 == 0 else true

/-- A load or store by its L-slot code, register field and width, at an address form. -/
def decodeLs (code reg w : Nat) (a : Addr) : Option LSlot :=
  match code with
  | 0x1 => optIf (regFits reg w) (.ld reg w a)
  | 0x2 => optIf (w == 3) (.ldz reg a)
  | 0x3 => optIf (regFits reg w) (.st reg w a)
  | 0x4 =>
    if w = 0 then some (.sta (reg % 8) (bitN reg 3 == 1) (bitN reg 4 == 1) a)
    else optIf (w == 2 && bitsN reg 1 2 == 0) (.staQ (reg % 2) (bitN reg 3 == 1) (bitN reg 4 == 1) a)
  | 0x5 => optIf (w == 2 && decide (reg < 8)) (.ldaRaw reg a)
  | 0x6 => optIf (w == 2 && decide (reg < 8)) (.staRaw reg a)
  | _ => none

/-- The L slot's 20 bits (R121). -/
def decodeL (n : Nat) : Option LSlot :=
  let code := n / 65536
  let reg := bitsN n 11 5
  let w := bitsN n 4 2
  let disp := signedN 4 (bitsN n 0 4)
  if code = 0 then optIf (n == 0) .nop
  else if code = 7 then optIf (reg == 0 && bitsN n 0 4 == 0) (.lea w (bitsN n 8 3) (bitsN n 6 2))
  else decodeLs code reg w (.ptr (bitsN n 8 3) (bitsN n 6 2) disp)

/-- The absolute L slot's 40 bits (R124). -/
def decodeAbs (n : Nat) : Option LSlot :=
  if n = 0 then some .nop
  else if bitsN n 17 12 = 0 then
    decodeLs (n / 2 ^ 36) (bitsN n 31 5) (bitsN n 29 2) (.abs (bitsN n 0 17))
  else none

/-- LDI (R118). -/
def decodeLdi (n : Nat) : Option HenWord :=
  let aux := bitN n 55 == 1
  let reg := bitsN n 49 6
  optIf (bitsN n 56 6 == 1 && bitsN n 32 17 == 0 && (if aux then !auxReserved reg else decide (reg < 32)))
    (.ldi aux reg (BitVec.ofNat 32 n))

/-- A 64-bit instruction word (R115). -/
def decodeHen (n : Nat) : Option HenWord :=
  match bitsN n 62 2 with
  | 0 => do some (.slots (← decodeX (bitsN n 40 22)) (← decodeM (bitsN n 20 20)) (← decodeL (bitsN n 0 20)))
  | 1 => decodeLdi n
  | 2 => do some (.slots (← decodeX (bitsN n 40 22)) .nop (← decodeAbs (bitsN n 0 40)))
  | _ => none

/-- The X-slot operations that a delay slot must not hold (R114). -/
def XSlot.isControl : XSlot → Bool
  | .br _ _ => true | .call _ => true | .ret => true | .loop _ _ => true | .endl _ => true
  | .halt => true | .rti => true | .brk => true
  | _ => false

/-- The operations with two delay slots (R114). -/
def XSlot.hasDelay : XSlot → Bool
  | .br _ _ => true | .call _ => true | .ret => true | .halt => true
  | _ => false

/-- The X slot of a word. -/
def HenWord.x : HenWord → XSlot
  | .slots x _ _ => x
  | .ldi _ _ _ => .nop

/-! The registers a word writes, for R113: data registers 0-31, auxiliary registers 64 + n, accumulators 128 + n. -/

/-- What the X slot writes. -/
def XSlot.writes : XSlot → List Nat
  | .alu .cmp _ _ _ _ => []
  | .alu .cmpi _ _ _ _ => []
  | .alu _ d _ _ _ => [d]
  | .mvs d _ => [d]
  | .mvg aux _ => [64 + aux]
  | .search _ dv di _ => [dv, di, 64 + 29]
  | .call _ => [64 + 30]
  | .loop l _ => [64 + 23 + l, 64 + 26 + l]
  | _ => []

/-- What the M slot writes. -/
def MSlot.writes : MSlot → List Nat
  | .nop => []
  | .quad _ s _ _ _ _ => [128 + s, 130 + s, 132 + s, 134 + s]
  | .single _ a _ _ _ => [128 + a]
  | .clr a => [128 + a]
  | .clrQ s => [128 + s, 130 + s, 132 + s, 134 + s]
  | .adda a _ => [128 + a]
  | .suba a _ => [128 + a]
  | .mova a _ => [128 + a]
  | .sha a _ => [128 + a]
  | .ldah a _ => [128 + a]
  | .ldal a _ => [128 + a]
  | .exth _ d => [d]
  | .extl _ d => [d]

/-- The pointer an address form updates. -/
def Addr.writes : Addr → List Nat
  | .ptr p u _ => if u = 0 then [] else [64 + p]
  | .abs _ => []

/-- The registers a width code covers from a register on. -/
def regRun (reg w : Nat) : List Nat :=
  if w = 1 then [reg, reg + 1] else if w = 2 then [reg, reg + 1, reg + 2, reg + 3] else [reg]

/-- What the L slot writes. -/
def LSlot.writes : LSlot → List Nat
  | .nop => []
  | .ld reg w a => regRun reg w ++ a.writes
  | .ldz reg a => reg :: a.writes
  | .st _ _ a => a.writes
  | .sta _ _ _ a => a.writes
  | .staQ _ _ _ a => a.writes
  | .ldaRaw acc a => (128 + acc) :: a.writes
  | .staRaw _ a => a.writes
  | .lea _ p u => if u = 0 then [] else [64 + p]

/-- Whether no two operations of a word write the same register (R113). -/
def HenWord.distinct : HenWord → Bool
  | .ldi _ _ _ => true
  | .slots x m l =>
    x.writes.all (fun r => !m.writes.contains r && !l.writes.contains r)
      && m.writes.all (fun r => !l.writes.contains r)

end Sys2Proof.Machine
end

