-- ==== Sys2Proof/Machine/Flags.lean ====
section
/-! DEFINITION. The flag computations of a hen (Table 5.6, R110, R117): Z, N, C and V of every X-slot operation, the
guard overflow of an accumulator, and the branch conditions. -/

namespace Sys2Proof.Machine

/-- The four flags of STAT. -/
structure Znc where
  z : Bool
  n : Bool
  c : Bool
  v : Bool
  deriving DecidableEq, Repr

/-- Z and N of a result with the C and V given. -/
def flagsOf (r : Word) (c v : Bool) : Znc := ⟨r == 0, r.msb, c, v⟩

/-- Addition: C is the carry out, V the signed overflow. -/
def addFlags (a b : Word) : Word × Znc :=
  let r := a + b
  (r, flagsOf r (decide (2 ^ 32 ≤ a.toNat + b.toNat)) (decide (r.toInt ≠ a.toInt + b.toInt)))

/-- Subtraction: C is 1 when no borrow occurs (R117). -/
def subFlags (a b : Word) : Word × Znc :=
  let r := a - b
  (r, flagsOf r (decide (b.toNat ≤ a.toNat)) (decide (r.toInt ≠ a.toInt - b.toInt)))

/-- A value saturated to 32-bit signed; V is 1 on saturation. -/
def satFlags (x : Int) : Word × Znc :=
  let r : Word := if 2147483647 < x then 0x7FFFFFFF else if x < -2147483648 then 0x80000000 else BitVec.ofInt 32 x
  (r, flagsOf r false (decide (r.toInt ≠ x)))

/-- Logic and shifts: C = V = 0. -/
def logicFlags (r : Word) : Word × Znc := (r, flagsOf r false false)

/-- The result and flags of an X-slot operation on data registers; no flags where Table 5.6 names none. -/
def xAlu (op : XOp) (a b : Word) (imm : Int) : Word × Option Znc :=
  let i := BitVec.ofInt 32 imm
  let some' (p : Word × Znc) : Word × Option Znc := (p.1, some p.2)
  match op with
  | .add => some' (addFlags a b)
  | .sub => some' (subFlags a b)
  | .addi => some' (addFlags a i)
  | .and => some' (logicFlags (a &&& b))
  | .or => some' (logicFlags (a ||| b))
  | .xor => some' (logicFlags (a ^^^ b))
  | .adds => some' (satFlags (a.toInt + b.toInt))
  | .subs => some' (satFlags (a.toInt - b.toInt))
  | .shl => some' (logicFlags (a <<< imm.toNat))
  | .shr => some' (logicFlags (a >>> imm.toNat))
  | .asr => some' (logicFlags (a.sshiftRight imm.toNat))
  | .shlv => some' (logicFlags (a <<< (b.toNat % 32)))
  | .asrv => some' (logicFlags (a.sshiftRight (b.toNat % 32)))
  | .abs => some' (satFlags (if a.toInt < 0 then -a.toInt else a.toInt))
  | .neg => some' (satFlags (-a.toInt))
  | .min => (if a.toInt ≤ b.toInt then a else b, none)
  | .max => (if a.toInt ≤ b.toInt then b else a, none)
  | .cmp => some' (subFlags a b)
  | .cmpi => some' (subFlags a i)
  | .mov => (a, none)
  | .movi => (i, none)

/-- Whether an operation writes its result to dD (the compares write flags only). -/
def XOp.writesD : XOp → Bool
  | .cmp => false
  | .cmpi => false
  | _ => true

/-- The branch conditions (R117); reserved values never decode. -/
def condHolds (cond : Nat) (f : Znc) (gov : Bool) : Bool :=
  match cond with
  | 0x0 => true
  | 0x1 => f.z
  | 0x2 => !f.z
  | 0x3 => f.n != f.v
  | 0x4 => f.n == f.v
  | 0x5 => f.z || f.n != f.v
  | 0x6 => !f.z && f.n == f.v
  | 0x7 => !f.c
  | 0x8 => f.c
  | 0x9 => f.n
  | 0xA => !f.n
  | _ => gov

/-- An exact accumulator result taken under a guard overflow mode (R110): its 72-bit value and whether it is a
guard overflow. -/
def guarded (wrap : Bool) (x : Int) : BitVec 72 × Bool :=
  if 2 ^ 71 - 1 < x then (if wrap then BitVec.ofInt 72 x else BitVec.ofInt 72 (2 ^ 71 - 1), true)
  else if x < -(2 ^ 71) then (if wrap then BitVec.ofInt 72 x else BitVec.ofInt 72 (-(2 ^ 71)), true)
  else (BitVec.ofInt 72 x, false)

end Sys2Proof.Machine
end

