-- ==== Sys2Proof/Machine/HenCore.lean ====
section
/-! DEFINITION. One hen as a machine of its own (chapter 05): its registers, the landing of results, the operations
of the three slots, block repeats, branches and interrupts. -/

namespace Sys2Proof.Machine

/-! Registers. -/

/-- Data register `n` as it reads now. -/
def HenSt.getD (h : HenSt) (n : Nat) : Word := tget zeroWord h.d n

/-- Whether a landing is for data register `n`. -/
def Landing.isWord (l : Landing) (n : Nat) : Bool :=
  match l with
  | .word _ _ k _ => k == n
  | .acc _ _ _ _ _ => false

/-- A data register written for the next word on: an earlier result still in flight to it never shows (R113). -/
def HenSt.setD (h : HenSt) (n : Nat) (v : Word) : HenSt :=
  { h with d := tset zeroWord h.d n v, land := h.land.filter fun l => !l.isWord n }

/-- STAT as it reads (auxiliary 32). -/
def HenSt.stat (h : HenSt) : Word :=
  BitVec.ofNat 32 (b2n h.z + 2 * b2n h.n + 4 * b2n h.c + 8 * b2n h.v + 16 * h.la.toNat + 256 * b2n h.ie
    + 512 * b2n h.hm + 1024 * b2n h.ovf
    + (List.range 8).foldl (fun a i => a + b2n (tget acc0 h.accL i).gov * 2 ^ (16 + i)) 0)

/-- An auxiliary register as it reads (Table 5.3); 40 to 44 read zero while a job runs (R108). -/
def HenSt.getA (h : HenSt) (n : Nat) : Word :=
  if n = 32 then h.stat else if 40 ≤ n then 0 else tget zeroWord h.aux n

/-- The bits an auxiliary register holds. -/
def auxMask (n : Nat) : Nat :=
  if (23 ≤ n ∧ n ≤ 28) ∨ n = 30 ∨ n = 33 then 0xFFF
  else if n = 31 then 0xDDDDDDDD
  else if n = 35 ∨ n = 36 then 0x80000FFF
  else 0xFFFFFFFF

/-- An auxiliary register written (R107); a read-only one ignores it. -/
def HenSt.setA (h : HenSt) (n : Nat) (v : Word) : HenSt :=
  if n = 32 then { h with z := v.getLsbD 0, n := v.getLsbD 1, c := v.getLsbD 2, v := v.getLsbD 3, ie := v.getLsbD 8 }
  else if 37 ≤ n then h
  else { h with aux := tset zeroWord h.aux n (v &&& BitVec.ofNat 32 (auxMask n)) }

/-- The flags of STAT. -/
def HenSt.flags (h : HenSt) : Znc := ⟨h.z, h.n, h.c, h.v⟩

/-- The flags of STAT set. -/
def HenSt.setFlags (h : HenSt) (f : Znc) : HenSt := { h with z := f.z, n := f.n, c := f.c, v := f.v }

/-- Whether any GOV flag is set, as BR reads them. -/
def HenSt.anyGov (h : HenSt) : Bool := (List.range 8).any fun i => (tget acc0 h.accL i).gov

/-! Landing (R112, R113). -/

/-- When a result is readable. -/
def Landing.ready : Landing → Nat
  | .word r _ _ _ => r
  | .acc r _ _ _ _ => r

/-- When a result was issued. -/
def Landing.issue : Landing → Nat
  | .word _ i _ _ => i
  | .acc _ i _ _ _ => i

/-- Whether two landings write the same register. -/
def Landing.same (a b : Landing) : Bool :=
  match a, b with
  | .word _ _ m _, .word _ _ n _ => m == n
  | .acc _ _ m _ _, .acc _ _ n _ _ => m == n
  | _, _ => false

/-- One result lands. -/
def HenSt.land1 (h : HenSt) : Landing → HenSt
  | .word _ _ n v => { h with d := tset zeroWord h.d n v }
  | .acc _ _ n a both =>
    { h with accL := tset acc0 h.accL n a, accM := if both then tset acc0 h.accM n a else h.accM }

/-- Every result readable in the present cycle lands, in issue order; one that a later issue has already passed
never lands (R113). -/
def HenSt.landNow (h : HenSt) : HenSt :=
  let due := h.land.filter fun l => decide (l.ready ≤ h.now)
  let rest := h.land.filter fun l => !decide (l.ready ≤ h.now) && !due.any fun e => e.same l && decide (l.issue < e.issue)
  { due.foldl HenSt.land1 h with land := rest }

/-- An accumulator written by the M slot: the M slot reads it from the next word, other readers from the third
(Table 5.4). -/
def HenSt.setAcc (h : HenSt) (n : Nat) (a : Accum) : HenSt :=
  { h with
    accM := tset acc0 h.accM n a
    land := (h.land.map fun l => match l with
      | .acc r i k x true => if k == n then .acc r i k x false else l
      | l => l) ++ [.acc (h.now + 3) h.now n a false] }

/-! The M slot (R109 to R111, R119, R120). -/

/-- The exact shifted product. -/
def product (a b : Word) (shift : Nat) : Int := a.toInt * b.toInt * 2 ^ shift

/-- An accumulator after an addition of an exact amount (R110). -/
def Accum.plus (wrap : Bool) (a : Accum) (x : Int) : Accum :=
  if a.gov && !wrap then a else
    let r := guarded wrap (a.v.toInt + x)
    ⟨r.1, a.gov || r.2⟩

/-- One multiply of one lane. -/
def macStep (wrap : Bool) (op : MacOp) (a : Accum) (x : Int) : Accum :=
  match op with
  | .mpy => ⟨BitVec.ofInt 72 x, false⟩
  | .mac => a.plus wrap x
  | .msu => a.plus wrap (-x)

/-- SHA: left by a positive amount, right arithmetically by a negative one. -/
def shaStep (wrap : Bool) (a : Accum) (sh : Int) : Accum :=
  if a.gov && !wrap then a
  else if 0 ≤ sh then
    let r := guarded wrap (a.v.toInt * 2 ^ sh.toNat)
    ⟨r.1, a.gov || r.2⟩
  else ⟨a.v.sshiftRight (-sh).toNat, a.gov⟩

/-- The conversion of an accumulator to a word (R120). -/
def convert (a : BitVec 72) (trunc sat24 : Bool) : Word :=
  let sh : Nat := if sat24 then 40 else 32
  let x := a.toInt
  let q := x / 2 ^ sh
  let rem := x % 2 ^ sh
  let q := if !trunc && (decide (2 ^ (sh - 1) < rem) || (rem == 2 ^ (sh - 1) && q % 2 == 1)) then q + 1 else q
  let lim : Int := if sat24 then 0x7FFFFF else 0x7FFFFFFF
  let q := if lim < q then lim else q
  let q := if q < -lim - 1 then -lim - 1 else q
  BitVec.ofInt 32 (if sat24 then q * 256 else q)

/-- The M slot's operation; every operand is read from `r`, the hen as the word issues. -/
def HenSt.execM (r h : HenSt) : MSlot → HenSt
  | .nop => h
  | .quad op set sh qa bc b =>
    (List.range 4).foldl (fun h k =>
      h.setAcc (2 * k + set) (macStep r.ovf op (tget acc0 r.accM (2 * k + set))
        (product (r.getD (4 * qa + k)) (r.getD (if bc then b else 4 * b + k)) sh))) h
  | .single op acc sh a b => h.setAcc acc (macStep r.ovf op (tget acc0 r.accM acc) (product (r.getD a) (r.getD b) sh))
  | .clr acc => h.setAcc acc ⟨0, false⟩
  | .clrQ set => (List.range 4).foldl (fun h k => h.setAcc (2 * k + set) ⟨0, false⟩) h
  | .adda d s => h.setAcc d ((tget acc0 r.accM d).plus r.ovf (tget acc0 r.accM s).v.toInt)
  | .suba d s => h.setAcc d ((tget acc0 r.accM d).plus r.ovf (-(tget acc0 r.accM s).v.toInt))
  | .mova d s => h.setAcc d (tget acc0 r.accM s)
  | .sha acc n => h.setAcc acc (shaStep r.ovf (tget acc0 r.accM acc) n)
  | .ldah acc d => h.setAcc acc ⟨BitVec.ofInt 72 ((r.getD d).toInt * 2 ^ 32), false⟩
  | .ldal acc d => h.setAcc acc ⟨BitVec.ofNat 72 (r.getD d).toNat, false⟩
  | .exth acc d => { h with land := h.land ++ [.word (r.now + 3) r.now d (convert (tget acc0 r.accM acc).v true false)] }
  | .extl acc d => { h with land := h.land ++ [.word (r.now + 3) r.now d (BitVec.ofNat 32 (tget acc0 r.accM acc).v.toNat)] }

/-! The L slot (R121 to R124). -/

/-- Bits [3:2] of a pointer's PMODE nibble. -/
def HenSt.sel (h : HenSt) (p : Nat) : Nat := bitsN (h.getA 31).toNat (4 * p + 2) 2

/-- Bit 0 of a pointer's PMODE nibble. -/
def HenSt.circ (h : HenSt) (p : Nat) : Bool := bitN (h.getA 31).toNat (4 * p) == 1

/-- The byte address of an access and the pointer's new value (R122). -/
def HenSt.address (h : HenSt) (w : Nat) : Addr → Nat × Option (Nat × Word)
  | .abs a => (a, none)
  | .ptr p u disp =>
    let base : Int := (h.getA p).toNat
    let inc : Int := if u = 1 then w else if u = 2 then -(w : Int) else if u = 3 then (h.getA (16 + h.sel p)).toInt else 0
    let cbb : Int := (h.getA (8 + h.sel p)).toNat
    let cbl : Int := (h.getA (12 + h.sel p)).toNat
    let ea := base + disp * w
    if h.circ p && cbl != 0 then
      ((BitVec.ofInt 32 (cbb + (ea - cbb) % cbl)).toNat, some (p, BitVec.ofInt 32 (cbb + (base + inc - cbb) % cbl)))
    else ((BitVec.ofInt 32 ea).toNat, some (p, BitVec.ofInt 32 (base + inc)))

/-- Whether a byte lies in the context block or a region of the run (R84). -/
def RunSt.covers (r : RunSt) (a : Nat) : Bool :=
  decide (a < 64) || r.regions.any fun x => decide (x.1 ≤ a) && decide (a < x.1 + x.2)

/-- Whether an access is carried out (R123, R134). -/
def HenSt.allowed (h : HenSt) (a w : Nat) : Bool :=
  a % w == 0 && decide (a + w ≤ 0x18000) &&
    (h.hm || match h.run with
      | some r => (List.range w).all fun i => r.covers (a + i)
      | none => true)

/-- The pointer update of an L-slot operation. -/
def HenSt.bump (h : HenSt) : Option (Nat × Word) → HenSt
  | none => h
  | some (p, v) => h.setA p v

/-- Words landing in consecutive data registers from cycle `now + 3`. -/
def loadLands (now reg : Nat) : List Word → List Landing
  | [] => []
  | v :: t => .word (now + 3) now reg v :: loadLands now (reg + 1) t

/-- `n` words of data memory. -/
def HenSt.memWords (h : HenSt) (a : Nat) : Nat → List Word
  | 0 => []
  | n + 1 => BitVec.ofNat 32 (mNat zeroByte h.dmem a 4) :: h.memWords (a + 4) n

/-- A load: what lands, from the bytes or from zero where the access is not carried out, and whether it counts as
an access outside the regions. -/
def HenSt.loadWords (h : HenSt) (a w n : Nat) : List Word × Bool :=
  if h.allowed a w then (h.memWords a n, false) else (List.replicate n 0, true)

/-- A store of bytes, discarded where it is not allowed. -/
def HenSt.store (r h : HenSt) (a : Nat) (b : Bytes) : HenSt × Nat :=
  if r.allowed a b.length then ({ h with dmem := mPutB zeroByte h.dmem a b }, 0) else (h, 1)

/-- The bytes of an accumulator's raw form (Table 5.8). -/
def rawBytes (a : Accum) : Bytes := toLe 9 a.v.toNat ++ toLe 1 (b2n a.gov) ++ List.replicate 6 0

/-- The L slot's operation: the hen after it and how many accesses fell outside the regions. -/
def HenSt.execL (r h : HenSt) : LSlot → HenSt × Nat
  | .nop => (h, 0)
  | .ld reg w at_ =>
    let bytes := widthBytes w
    let (a, up) := r.address bytes at_
    let h := h.bump up
    if w = 3 then
      let v : Word := BitVec.ofInt 32 (signedN 16 (mNat zeroByte r.dmem a 2))
      let ok := r.allowed a 2
      ({ h with land := h.land ++ loadLands r.now reg [if ok then v else 0] }, b2n (!ok))
    else
      let (ws, bad) := r.loadWords a bytes (bytes / 4)
      ({ h with land := h.land ++ loadLands r.now reg ws }, b2n bad)
  | .ldz reg at_ =>
    let (a, up) := r.address 2 at_
    let h := h.bump up
    let ok := r.allowed a 2
    ({ h with land := h.land ++ loadLands r.now reg [if ok then BitVec.ofNat 32 (mNat zeroByte r.dmem a 2) else 0] }, b2n (!ok))
  | .st reg w at_ =>
    let (a, up) := r.address (widthBytes w) at_
    let b := if w = 3 then toLe 2 (r.getD reg).toNat else (regRun reg w).flatMap fun n => toLe 4 (r.getD n).toNat
    HenSt.store r (h.bump up) a b
  | .sta acc trunc sat at_ =>
    let (a, up) := r.address 4 at_
    HenSt.store r (h.bump up) a (toLe 4 (convert (tget acc0 r.accL acc).v trunc sat).toNat)
  | .staQ set trunc sat at_ =>
    let (a, up) := r.address 16 at_
    HenSt.store r (h.bump up) a ((List.range 4).flatMap fun k => toLe 4 (convert (tget acc0 r.accL (2 * k + set)).v trunc sat).toNat)
  | .ldaRaw acc at_ =>
    let (a, up) := r.address 16 at_
    let h := h.bump up
    let ok := r.allowed a 16
    let v : Accum := if ok then ⟨BitVec.ofNat 72 (mNat zeroByte r.dmem a 9), bitN (mNat zeroByte r.dmem (a + 9) 1) 0 == 1⟩ else ⟨0, false⟩
    ({ h with land := h.land ++ [.acc (r.now + 3) r.now acc v true] }, b2n (!ok))
  | .staRaw acc at_ =>
    let (a, up) := r.address 16 at_
    HenSt.store r (h.bump up) a (rawBytes (tget acc0 r.accL acc))
  | .lea w p u => (h.bump (r.address (widthBytes w) (.ptr p u 0)).2, 0)

/-! The X slot. -/

/-- One lane of a vector search. -/
def searchLane (op : Search) (x : Word) (idx : Word) (p : Word × Word) : Word × Word :=
  let v := match op with
    | .absMax => (satFlags (if x.toInt < 0 then -x.toInt else x.toInt)).1
    | _ => x
  let better := match op with
    | .min => decide (v.toInt < p.1.toInt)
    | _ => decide (p.1.toInt < v.toInt)
  if better then (v, idx) else p

/-- A vector search over a quad (R127). -/
def HenSt.execSearch (r h : HenSt) (op : Search) (dv di q : Nat) : HenSt :=
  let sidx := r.getA 29
  let p := (List.range 4).foldl (fun p k => searchLane op (r.getD (4 * q + k)) (sidx + BitVec.ofNat 32 k) p) (r.getD dv, r.getD di)
  ((h.setD dv p.1).setD di p.2).setA 29 (sidx + 4)

/-- Levels' start, end and count registers. -/
def HenSt.lc (h : HenSt) (l : Nat) : Nat := (h.getA (20 + l)).toNat
def HenSt.ls (h : HenSt) (l : Nat) : Nat := (h.getA (23 + l)).toNat
def HenSt.le (h : HenSt) (l : Nat) : Nat := (h.getA (26 + l)).toNat

/-- STAT.LA bit of a level set or cleared. -/
def HenSt.setLa (h : HenSt) (l : Nat) (b : Bool) : HenSt :=
  { h with la := BitVec.ofNat 3 (setBitsN h.la.toNat l 1 (b2n b)) }

/-- The X slot's effect on registers and flags; control flow is in `HenSt.step`. -/
def HenSt.execX (r h : HenSt) : XSlot → HenSt
  | .alu op d a b imm =>
    let p := xAlu op (r.getD a) (r.getD b) imm
    let h := if op.writesD then h.setD d p.1 else h
    match p.2 with
    | some f => h.setFlags f
    | none => h
  | .mvs d aux => h.setD d (r.getA aux)
  | .mvg aux a => h.setA aux (r.getD a)
  | .search op dv di q => HenSt.execSearch r h op dv di q
  | .call _ => h.setA 30 (BitVec.ofNat 32 (r.pc + 3))
  | .loop l e => ((h.setA (23 + l) (BitVec.ofNat 32 (r.pc + 1))).setA (26 + l) (BitVec.ofNat 32 e)).setLa l (r.lc l != 0)
  | .endl l => h.setLa l false
  | .brk => { h with pendDbg := true }
  | _ => h

/-! Control (R114, R125, R128, R135). -/

/-- The loop ends judged for the word at the program counter, innermost level first (R125): the next word index and
the hen with counts and active bits updated. -/
def HenSt.loopEnds (r : HenSt) : List Nat → HenSt → HenSt × Nat
  | [], h => (h, r.pc + 1)
  | l :: t, h =>
    if r.la.getLsbD l && r.le l == r.pc then
      if 1 < r.lc l then (h.setA (20 + l) (BitVec.ofNat 32 (r.lc l - 1)), r.ls l)
      else HenSt.loopEnds r t ((h.setA (20 + l) 0).setLa l false)
    else HenSt.loopEnds r t h

/-- The taken target of a control operation. -/
def HenSt.target (r : HenSt) : XSlot → Option Nat
  | .br c t => if condHolds c r.flags r.anyGov then some t else none
  | .call t => some t
  | .ret => some (r.getA 30).toNat
  | _ => none

/-- The cycle in which the next word issues after RTI (R135). -/
def rtiNext (now : Nat) (land : List Landing) : Nat :=
  let last := land.foldl (fun a l => max a l.ready) 0
  if last ≤ now + 1 then now + 1 else last + 1

/-- Whether the word at the program counter stands in a delay slot. -/
def HenSt.inDelay (h : HenSt) : Bool := h.br.isSome || h.halt.isSome

/-- The instruction word at the program counter. -/
def HenSt.fetch (h : HenSt) : Nat := mNat zeroByte h.imem (8 * h.pc) 8

/-- What issuing a word did: the hen, the accesses outside the regions, and whether a run-time fault of R130
withdraws the run. -/
structure Issued where
  h : HenSt
  win : Nat
  fault : Bool
  deriving DecidableEq, Repr

/-- Whether a decoded word is a fault where it stands (R130). -/
def HenSt.faults (h : HenSt) (x : XSlot) : Bool :=
  (h.inDelay && x.isControl) || (x == .rti && !h.hm) || (x == .halt && h.hm)

/-- The delay slots of BR, CALL and RET, taken or not, and of HALT counted down; such an operation in this word begins its own (R114). -/
def HenSt.advance (r h : HenSt) (next : Nat) (x : XSlot) : HenSt :=
  let (pc, br) := match r.br with
    | some (1, t) => (t.getD next, none)
    | some (n, t) => (next, some (n - 1, t))
    | none => (next, if x.hasDelay && x != XSlot.halt then some (2, r.target x) else none)
  let halt := match r.halt with
    | some n => some (n - 1)
    | none => if x == XSlot.halt then some 2 else none
  { h with pc := pc, br := br, halt := halt }

/-- One instruction word issues (R112): all operands are read from the hen as it stands, the three slots act, the
loop ends are judged and the next word index and cycle follow. -/
def HenSt.step (h0 : HenSt) (words : Nat) : Issued :=
  let r := h0.landNow
  if words ≤ r.pc then ⟨r, 0, true⟩ else
  match decodeHen r.fetch with
  | none => ⟨r, 0, true⟩
  | some w =>
    if r.faults w.x then ⟨r, 0, true⟩ else
    let (h, next) := HenSt.loopEnds r [2, 1, 0] r
    let (h, win) := match w with
      | .ldi aux reg v => (if aux then h.setA reg v else h.setD reg v, 0)
      | .slots x m l =>
        let p := HenSt.execL r (HenSt.execM r h m) l
        (HenSt.execX r p.1 x, p.2)
    let h := HenSt.advance r h next w.x
    match w.x with
    | .loop l e => if r.lc l = 0 then ⟨{ h with pc := e + 1, now := r.now + 3 }, win, false⟩ else ⟨{ h with now := r.now + 1 }, win, false⟩
    | .rti =>
      let st := r.getA 34
      ⟨{ h with pc := (r.getA 33).toNat, now := rtiNext r.now h.land, hm := false, z := st.getLsbD 0, n := st.getLsbD 1,
                c := st.getLsbD 2, v := st.getLsbD 3, la := BitVec.ofNat 3 (bitsN st.toNat 4 3), ie := st.getLsbD 8 }, win, false⟩
    | _ => ⟨{ h with now := r.now + 1 }, win, false⟩

/-! Interrupts (R131, R132). -/

/-- The handler that a pending interrupt would enter now: debug before doorbell, none where it cannot be taken. -/
def HenSt.takes (h : HenSt) : Option (Bool × Nat) :=
  if h.hm || !h.ie || h.inDelay then none
  else if h.pendDbg && (h.getA 35).getLsbD 31 then some (true, bitsN (h.getA 35).toNat 0 12)
  else if h.pendDb && (h.getA 36).getLsbD 31 then some (false, bitsN (h.getA 36).toNat 0 12)
  else none

/-- Entry into a handler (R132): IPC, ISTAT, STAT, one idle cycle, the handler's first word. -/
def HenSt.enter (h0 : HenSt) (dbg : Bool) (word : Nat) : HenSt :=
  let h := h0.landNow
  let st := h.stat
  let h := (h.setA 33 (BitVec.ofNat 32 h.pc)).setA 34 st
  { h with ie := false, la := 0, hm := true, pc := word, now := h.now + 1
           pendDbg := if dbg then false else h.pendDbg, pendDb := if dbg then h.pendDb else false }

/-- Whether the run has ended: the second delay slot of HALT has issued (R128). -/
def HenSt.ended (h : HenSt) : Bool := h.halt == some 0

/-- Every result in flight lands: the hen at the end of its run. -/
def HenSt.drain (h : HenSt) : HenSt :=
  HenSt.landNow { h with now := h.land.foldl (fun a l => max a l.ready) h.now }

end Sys2Proof.Machine
end

