-- ==== Sys2Proof/Machine/Stock.lean ====
section
/-! DEFINITION. The arithmetic of the stock programs (R147 to R163): crosspoint mix with gain stepping and route
crossfades, biquads, FIR, delay and destinations, meters. A run is a function of its inputs, the bank it
reads, its state and its lines. -/

namespace Sys2Proof.Machine

/-! Gain points (R150 to R152). -/

/-- Whether a signal crosses zero between two samples (R150). -/
def crosses (a x : Int) : Bool := x == 0 || (decide (a < 0) && decide (0 < x)) || (decide (0 < a) && decide (x < 0))

/-- The stepping settings: timeout in samples, largest step in codes, and D of R152. -/
structure StepCfg where
  lim : Nat
  size : Nat
  d : Nat
  deriving DecidableEq, Repr

/-- The stepping settings in force (R153). -/
def State.stepCfg (s : State) : StepCfg :=
  ⟨s.force R.MIX_STEP_TMO * 48, s.force R.MIX_STEP_DB * 128 / 5, stepD (s.force R.MIX_STEP_DB)⟩

/-- Whether a point that differs from its target steps at this sample. -/
def ptDue (p : Pt) (lim : Nat) (a x : Int) : Bool := crosses a x || decide (lim ≤ p.age)

/-- A position moved toward its target by at most `size` codes (R151). -/
def toward (size pos target : Nat) : Nat :=
  if pos < target then min target (pos + size) else max target (pos - size)

/-- One sample of a gain point. -/
def ptStep (c : StepCfg) (p : Pt) (target : Nat) (a x : Int) : Pt :=
  if p.pos = target then ⟨p.pos, 0⟩
  else if ptDue p c.lim a x then ⟨toward c.size p.pos target, 1⟩
  else ⟨p.pos, p.age + 1⟩

/-- One sample of a scale point (R152). -/
def ptStepScale (c : StepCfg) (p : Pt) (target : Nat) (a x : Int) : Pt :=
  if p.pos = target then ⟨p.pos, 0⟩
  else if ptDue p c.lim a x then
    ⟨if target < p.pos then max target (p.pos * c.d / 2 ^ 29) else min target (p.pos * 2 ^ 29 / c.d), 1⟩
  else ⟨p.pos, p.age + 1⟩

/-- The crossfade length that BUS_CTL.XFADE names (Table 6.2). -/
def xfadeLen (code : Nat) : Nat := if code = 1 then 8 else if code = 2 then 32 else if code = 3 then 128 else 0

/-- A crossfaded sample (R162). -/
def blend (old new : Int) (len k : Nat) : Int := (old * (len - k : Nat) + new * k) / len

/-- The route crossfade of a bus at a run: the one in progress while it has samples left. -/
def fadeOf (b : BusSt) (first : Nat) : Option XfadeSt :=
  match b.xf with
  | some x => if first < x.start + x.len then some x else none
  | none => none

/-- A sample of a channel as an integer. -/
def Chan.at (c : Chan) (n : Nat) : Int := (nth 0 c.smp n).toInt

/-! Crosspoint mix (R147 to R149). -/

/-- Whether a source is active on a bus in a bank (R148), given that an XMIX instance names it. -/
def srcActive (b : Mem) (bus src : Nat) : Bool := xpCode b src bus != 0 && !muteBit b src bus

/-- The ICH sources an XMIX instance names. -/
def xmixSources (b : Mem) (j : Nat) : List Nat :=
  ((inputs b j).filter fun x => x.1 == 0).map (·.2)

/-- N_b: the active sources of a bus over every XMIX instance of it (R148). -/
def nActive (b : Mem) (bus : Nat) : Nat :=
  ((servers b 1 bus).map fun j => ((xmixSources b j).filter (srcActive b bus)).length).foldl (· + ·) 0

/-- The route of an XMIX instance's bus in a bank. -/
def xmixRoute (b : Mem) (j bus : Nat) : List RouteE :=
  ((xmixSources b j).filter (srcActive b bus)).map fun k => ⟨k, 0, false, true⟩

/-- The scale target S_T (R149). -/
def scaleTarget (mode n : Nat) : Nat :=
  if n = 0 then 0x20000000
  else if mode = 1 then 0x20000000 / 2 ^ Nat.log2 n
  else if mode = 2 then (2 ^ 30 + n) / (2 * n)
  else 0x20000000

/-- The effective multiplier M_s (R151). -/
def mulOf (pos scale : Nat) : Nat := gainOf pos * scale / 2 ^ 29

/-- The exact sum over a route at one sample, guarded in list order, then the carry (R147). -/
def sumRoute (wrap : Bool) (mul : Nat → Nat) (sig : Nat → Int) (carry : Int) (route : List RouteE) : Accum :=
  (route.foldl (fun a r => a.plus wrap (mul r.key * sig r.key * 32)) (⟨0, false⟩ : Accum)).plus wrap (carry * 2 ^ 32)

/-- What one bus of an XMIX run carries from sample to sample. -/
structure MixWork where
  pts : Sparse (Option Pt)
  scale : Pt
  prevSum : Int
  out : List Word
  gov : Bool
  deriving DecidableEq, Repr

/-- The position of a source's point. -/
def posOf (pts : Sparse (Option Pt)) (k : Nat) : Nat :=
  match tget noPt pts k with
  | some p => p.pos
  | none => 0

/-- One sample of one bus of an XMIX run. -/
def mixSample (c : StepCfg) (wrap : Bool) (target : Nat → Nat) (sT : Nat) (route : List RouteE) (xf : Option XfadeSt)
    (tl : Nat) (prev sig : Nat → Int) (carry : Int) (w : MixWork) : MixWork :=
  let pts := route.foldl (fun m r => match tget noPt m r.key with
    | some p => tset noPt m r.key (some (ptStep c p (target r.key) (prev r.key) (sig r.key)))
    | none => m) w.pts
  let un := route.foldl (fun a r => a + (gainOf (posOf pts r.key) : Int) * sig r.key) 0
  let sc := ptStepScale c w.scale sT w.prevSum un
  let mul (k : Nat) : Nat := mulOf (posOf pts k) sc.pos
  let a := sumRoute wrap mul sig carry route
  let v := convert a.v false false
  match xf with
  | some x =>
    if x.start ≤ tl ∧ tl < x.start + x.len then
      let o := sumRoute wrap mul sig carry x.route
      let r := blend (convert o.v false false).toInt v.toInt x.len (tl - x.start)
      ⟨pts, sc, un, w.out ++ [BitVec.ofInt 32 r], w.gov || a.gov || o.gov⟩
    else ⟨pts, sc, un, w.out ++ [v], w.gov || a.gov⟩
  | none => ⟨pts, sc, un, w.out ++ [v], w.gov || a.gov⟩

/-- What a stock run gives: per output channel its samples and whether a line made it tainted; the new state;
whether a GOV flag is set at its end. -/
structure StockOut where
  outs : List (List Word × Bool)
  st : StockSt
  gov : Bool
  deriving DecidableEq, Repr

/-- What a stock run reads: the bank, instance, overflow mode, first TL of its ingest block, stepping settings, its
input channels with their samples, any ICH of its ingest block, and shared memory with the lines and pools. -/
structure StockIn where
  b : Mem
  j : Nat
  wrap : Bool
  tl : Nat
  cfg : StepCfg
  ins : List ((Nat × Nat) × Chan)
  ich : Nat → Chan
  shm : Mem
  dlyPool : Nat
  firPool : Nat
  dly : Sparse (Option LineSt)
  fir : Sparse (Option LineSt)

/-- One bus of an XMIX run. -/
def mixBus (r : StockIn) (st : StockSt) (carry : Option Chan) (bus : Nat) : BusSt × List Word × Bool :=
  let route := xmixRoute r.b r.j bus
  let ctl := busCtl r.b bus
  let bs := tget busSt0 st.busses bus
  let xf := fadeOf bs r.tl
  let oldKeys := (bs.route.getD []).map RouteE.key
  let held : List Nat := match xf with
    | some x => x.route.map RouteE.key
    | none => []
  let pts0 := bs.pts.filter fun p => route.any (fun e => e.key == p.1) || held.contains p.1
  let pts := route.foldl (fun m e =>
    if oldKeys.contains e.key && (tget noPt m e.key).isSome then m
    else tset noPt m e.key (some ⟨xpCode r.b e.key bus, 0⟩)) pts0
  let sT := scaleTarget (bitsN ctl 2 2) (nActive r.b bus)
  let sig (n : Nat) (k : Nat) : Int :=
    match r.ins.find? (fun x => x.1 == (0, k)) with
    | some x => x.2.at n
    | none => (r.ich k).at n
  let prev (n : Nat) (k : Nat) : Int := if n = 0 then (tget zeroWord st.prevX k).toInt else sig (n - 1) k
  let cs (n : Nat) : Int := match carry with
    | some c => c.at n
    | none => 0
  let w := (List.range 8).foldl (fun w n =>
    mixSample r.cfg r.wrap (fun k => xpCode r.b k bus) sT route xf (r.tl + n) (prev n) (sig n) (cs n) w)
    ⟨pts, bs.scale.getD ⟨sT, 0⟩, bs.prevSum, [], false⟩
  ({ bs with route := some route, xf := xf, pts := w.pts, scale := some w.scale, prevSum := w.prevSum }, w.out, w.gov)

/-- An XMIX run (CLASS 1). -/
def runXmix (r : StockIn) (st : StockSt) : StockOut :=
  let nb := numBus r.b r.j
  let b0 := firstBus r.b r.j
  let hasCarry := match r.ins with
    | x :: _ => x.1.1 == 1
    | [] => false
  let res := (List.range nb).foldl (fun (a : List (List Word × Bool) × Sparse BusSt × Bool) i =>
    let carry := if hasCarry then (r.ins[i]?).map (·.2) else none
    let p := mixBus r st carry (b0 + i)
    (a.1 ++ [(p.2.1, false)], tset busSt0 a.2.1 (b0 + i) p.1, a.2.2 || p.2.2)) ([], st.busses, false)
  let prevX := r.ins.foldl (fun m x => if x.1.1 == 0 then tset zeroWord m x.1.2 (nth 0 x.2.smp 7) else m) st.prevX
  ⟨res.1, { st with busses := res.2.1, prevX := prevX }, res.2.2⟩

/-! Biquads and FIR (R154, R156). -/

/-- A biquad computation over one sample (R154): output, new state, guard overflow. -/
def bqSample (wrap : Bool) (co : List Word) (q : BqSec) (x : Word) : Word × BqSec × Bool :=
  let p (a b : Word) : Int := product a b 3
  let a : Accum := ⟨BitVec.ofNat 72 q.e.toNat, false⟩
  let a := a.plus wrap (p (nth 0 co 0) x)
  let a := a.plus wrap (p (nth 0 co 1) q.x1)
  let a := a.plus wrap (p (nth 0 co 2) q.x2)
  let a := a.plus wrap (-(p (nth 0 co 3) q.y1))
  let a := a.plus wrap (-(p (nth 0 co 4) q.y2))
  let y := convert a.v true false
  (y, ⟨x, q.x1, y, q.y1, BitVec.ofNat 32 a.v.toNat⟩, a.gov)

/-- One section over a block. -/
def bqBlock (wrap : Bool) (co : List Word) : List Word → BqSec → List Word × BqSec × Bool
  | [], q => ([], q, false)
  | x :: t, q =>
    let p := bqSample wrap co q x
    let r := bqBlock wrap co t p.2.1
    (p.1 :: r.1, r.2.1, p.2.2 || r.2.2)

/-- The sections of a bus in ascending order. -/
def bqSections (r : StockIn) (bus : Nat) : List Nat → List Word × BusSt × Bool → List Word × BusSt × Bool
  | [], a => a
  | i :: t, (x, bs, g) =>
    if bqBypass r.b bus i then bqSections r bus t (x, bs, g)
    else
      let p := bqBlock r.wrap ((List.range 5).map (bqCoef r.b bus i)) x (tget bq0 bs.bq i)
      bqSections r bus t (p.1, { bs with bq := tset bq0 bs.bq i p.2.1 }, g || p.2.2)

/-- A BQ run (CLASS 2). -/
def runBq (r : StockIn) (st : StockSt) : StockOut :=
  let b0 := firstBus r.b r.j
  let res := (List.range (numBus r.b r.j)).foldl (fun (a : List (List Word × Bool) × Sparse BusSt × Bool) i =>
    let bus := b0 + i
    let x := (((r.ins[i]?).map (·.2)).getD chan0).smp
    let p := bqSections r bus (List.range (min 32 (nBq r.b bus))) (x, tget busSt0 st.busses bus, false)
    (a.1 ++ [(p.1, false)], tset busSt0 a.2.1 bus p.2.1, a.2.2 || p.2.2)) ([], st.busses, false)
  ⟨res.1, { st with busses := res.2.1 }, res.2.2⟩

/-- Samples a FIR history line holds: (FIR_LEN + 7) × 4 bytes rounded up to 64 (R157). -/
def firCap (len : Nat) : Nat := ((len + 7) * 4 + 63) / 64 * 16

/-- Whether a line placed at `base` holds the sample of a TL, and whether that block is tainted (R157, R159); a line placed elsewhere holds nothing
(R160). -/
def LineSt.holds (l : Option LineSt) (base tl : Nat) : Option Bool :=
  match l with
  | some l => if l.base = base ∧ tl / 8 ≤ l.last then l.taints[l.last - tl / 8]? else none
  | none => none

/-- A FIR history sample, by its TL (its place in the line is the model's, log entry 16). -/
def firSample (shm : Mem) (base : Nat) (l : Option LineSt) (tl : Nat) : Word :=
  match l, LineSt.holds l base tl with
  | some v, some _ => BitVec.ofNat 32 (mNat zeroByte shm (base + 4 * (tl % v.len)) 4)
  | _, _ => 0

/-- One output sample of a FIR (R156). -/
def firOut (wrap : Bool) (taps : List Word) (x : Nat → Word) (tl : Nat) : Accum :=
  (taps.foldl (fun (a : Accum × Nat) h =>
    (a.1.plus wrap (if a.2 ≤ tl then product h (x (tl - a.2)) 3 else 0), a.2 + 1)) ((⟨0, false⟩ : Accum), 0)).1

/-- A FIR run (CLASS 4). -/
def runFir (r : StockIn) (st : StockSt) : StockOut :=
  let b0 := firstBus r.b r.j
  let res := (List.range (numBus r.b r.j)).map fun i =>
    let bus := b0 + i
    let c := ((r.ins[i]?).map (·.2)).getD chan0
    let len := firLen r.b bus
    if len = 0 then ((c.smp, false), false) else
      let l := tget noLine r.fir bus
      let base := r.firPool + 64 * firHist r.b bus
      let x (tl : Nat) : Word := if r.tl ≤ tl then nth 0 c.smp (tl - r.tl) else firSample r.shm base l tl
      let taps := (List.range len).map fun k => BitVec.ofNat 32 (bkW r.b (0x500000 + 4 * (firBase r.b bus + k)))
      let as := (List.range 8).map fun n => firOut r.wrap taps x (r.tl + n)
      let reach := (List.range ((len + 6) / 8)).any fun k => LineSt.holds l base (r.tl - 8 * (k + 1)) == some true
      ((as.map fun a => convert a.v false false, reach), as.any (·.gov))
  ⟨res.map (·.1), st, res.any (·.2)⟩

/-! Delay and destinations (R151, R158). -/

/-- A sample rounded to 24 bits, as by R120 with TRUNC = 0 and SAT24 = 1 (R158). -/
def round24 (x : Word) : Word := convert (BitVec.ofInt 72 (x.toInt * 2 ^ 32)) false true

/-- A delay line as its bus names it: one of another length is another line (R160). -/
def LineSt.ofLen (l : Option LineSt) (len : Nat) : Option LineSt := l.filter fun v => v.len == len

/-- A delay line sample, by its TL (its place in the ring is the model's, log entry 16). -/
def dlySample (shm : Mem) (base len : Nat) (l : Option LineSt) (tl : Nat) : Word :=
  match LineSt.holds l base tl with
  | some _ => BitVec.ofNat 32 (256 * mNat zeroByte shm (base + 3 * (tl % len)) 3)
  | none => 0

/-- The tap signal of a destination at a TL, and whether it reaches a tainted block. -/
def tapAt (r : StockIn) (bus : Nat) (c : Chan) (tap tl : Nat) : Word × Bool :=
  if tap = 0 then (nth 0 c.smp (tl - r.tl), false)
  else if tl < tap then (0, false)
  else if r.tl ≤ tl - tap then (round24 (nth 0 c.smp (tl - tap - r.tl)), c.taint)
  else
    let l := LineSt.ofLen (tget noLine r.dly bus) (dlyLen r.b bus)
    let base := r.dlyPool + 192 * dlyBase r.b bus
    (dlySample r.shm base (max 1 (dlyLen r.b bus)) l (tl - tap), LineSt.holds l base (tl - tap) == some true)

/-- A destination's sample (R158): the tap times G(p), negated on INV, converted. -/
def destSample (x : Word) (pos : Nat) (inv : Bool) : Word :=
  let a : Int := (gainOf pos : Int) * x.toInt * 32
  convert (BitVec.ofInt 72 (if inv then -a else a)) false false

/-- The route of a DLY destination (R162). -/
def destRoute (b : Mem) (bus d : Nat) : RouteE :=
  let ctl := busCtl b bus
  let w1 := outW1 b bus d
  ⟨d, bitsN (outW0 b bus d) 0 18, (bitN ctl 1 == 1) != (bitN w1 17 == 1),
    bitN ctl 0 == 0 && bitN w1 16 == 0 && bitsN w1 0 16 != 0⟩

/-- The target of a destination's gain point (R151). -/
def destTarget (b : Mem) (bus d : Nat) : Nat := min 0xD800 (busGain b bus + bitsN (outW1 b bus d) 0 16 - 0xC000)

/-- The route of a DLY bus in a bank. -/
def dlyRoute (b : Mem) (bus : Nat) : List RouteE := ((List.range 8).filter (outUsed b bus)).map (destRoute b bus)

/-- Whether the route of a bus differs between two banks at a stage (R162): in the sources that are active on it over all its XMIX instances, in
whatever order; or in what its destinations take, where a DLY serves it. -/
def routeChanged (old new : Mem) (cls bus : Nat) : Bool :=
  if cls = 1 then
    let keys (b : Mem) : List Nat := (servers b 1 bus).flatMap fun j => (xmixRoute b j bus).map RouteE.key
    (keys old).any (fun k => !(keys new).contains k) || (keys new).any fun k => !(keys old).contains k
  else
    let dests (b : Mem) : List RouteE := if (servers b 3 bus).isEmpty then [] else dlyRoute b bus
    dests old != dests new

/-- What one destination carries from sample to sample: its point, the last tap signal, samples, taint. -/
structure DestWork where
  pt : Pt
  prev : Word
  out : List Word
  taint : Bool
  deriving DecidableEq, Repr

/-- One sample of one destination. -/
def destStep (r : StockIn) (bus : Nat) (c : Chan) (e : RouteE) (xf : Option XfadeSt) (w : DestWork) (n : Nat) : DestWork :=
  let tl := r.tl + n
  let (x, bad) := tapAt r bus c e.tap tl
  let pt := if e.live then ptStep r.cfg w.pt (destTarget r.b bus e.key) w.prev.toInt x.toInt else w.pt
  let v := if e.live then destSample x pt.pos e.inv else 0
  match xf with
  | some f =>
    if f.start ≤ tl ∧ tl < f.start + f.len then
      match f.route.find? (fun o => o.key == e.key && o.live) with
      | some o =>
        let (ox, obad) := tapAt r bus c o.tap tl
        let ov := destSample ox pt.pos o.inv
        ⟨pt, x, w.out ++ [BitVec.ofInt 32 (blend ov.toInt v.toInt f.len (tl - f.start))], w.taint || bad || obad⟩
      | none => ⟨pt, x, w.out ++ [BitVec.ofInt 32 (blend 0 v.toInt f.len (tl - f.start))], w.taint || bad⟩
    else ⟨pt, x, w.out ++ [v], w.taint || bad⟩
  | none => ⟨pt, x, w.out ++ [v], w.taint || bad⟩

/-- One bus of a DLY run: its destinations in entry order. -/
def dlyBus (r : StockIn) (st : StockSt) (c : Chan) (bus : Nat) : BusSt × List (List Word × Bool) :=
  let bs := tget busSt0 st.busses bus
  let route := dlyRoute r.b bus
  let xf := fadeOf bs r.tl
  let was (d : Nat) : Bool := (bs.route.getD []).any fun o => o.key == d && o.live
  let res := route.foldl (fun (a : Sparse (Option Pt) × Sparse Word × List (List Word × Bool)) e =>
    let pt := match tget noPt bs.pts e.key with
      | some p => if e.live && !was e.key then ⟨destTarget r.b bus e.key, 0⟩ else p
      | none => ⟨destTarget r.b bus e.key, 0⟩
    let w := (List.range 8).foldl (destStep r bus c e xf) ⟨pt, tget zeroWord bs.prev e.key, [], false⟩
    (tset noPt a.1 e.key (some w.pt), tset zeroWord a.2.1 e.key w.prev, a.2.2 ++ [(w.out, w.taint)])) ([], [], [])
  ({ bs with route := some route, xf := xf, pts := res.1, prev := res.2.1 }, res.2.2)

/-- A DLY run (CLASS 3). -/
def runDly (r : StockIn) (st : StockSt) : StockOut :=
  let b0 := firstBus r.b r.j
  let res := (List.range (numBus r.b r.j)).foldl (fun (a : List (List Word × Bool) × Sparse BusSt) i =>
    let c := ((r.ins[i]?).map (·.2)).getD chan0
    let p := dlyBus r st c (b0 + i)
    (a.1 ++ p.2, tset busSt0 a.2 (b0 + i) p.1)) ([], st.busses)
  ⟨res.1, { st with busses := res.2 }, false⟩

/-! Meters (R161). -/

/-- The meter record of a channel: peak, mean square, six zero words. -/
def meterOf (wrap : Bool) (c : Chan) : List Word × Bool :=
  let abs (x : Word) : Word := (satFlags (if x.toInt < 0 then -x.toInt else x.toInt)).1
  let pk := c.smp.foldl (fun (a : Word) x => if a.toInt < (abs x).toInt then abs x else a) 0
  let a := c.smp.foldl (fun (a : Accum) x => a.plus wrap (product x x 1)) ⟨0, false⟩
  let a := shaStep wrap a (-3)
  ([pk, convert a.v false false, 0, 0, 0, 0, 0, 0], a.gov)

/-- An MTR run (CLASS 5). -/
def runMtr (r : StockIn) (st : StockSt) : StockOut :=
  let res := r.ins.map fun x => meterOf r.wrap x.2
  ⟨res.map fun x => (x.1, false), st, res.any (·.2)⟩

/-- A stock run by its class. -/
def runStock (r : StockIn) (st : StockSt) : StockOut :=
  match clsOf r.b r.j with
  | 1 => runXmix r st
  | 2 => runBq r st
  | 3 => runDly r st
  | 4 => runFir r st
  | _ => runMtr r st

/-! Lines at the commit point (R157, R159). -/

/-- A block entered in a line (R157, R159): placed afresh where its place or length changed. A new block goes in front, blocks in between not
having been written; a block of the old graph of a drain, older than the newest, takes its own place. -/
def LineSt.append (l : Option LineSt) (base len blocks blk : Nat) (taint : Bool) : LineSt :=
  match l with
  | some l =>
    if l.base = base ∧ l.len = len ∧ l.last < blk ∧ blk ≤ l.last + blocks then
      ⟨base, len, blk, (taint :: (List.replicate (blk - 1 - l.last) false ++ l.taints)).take blocks⟩
    else if l.base = base ∧ l.len = len ∧ blk ≤ l.last ∧ l.last - blk < l.taints.length then
      { l with taints := setNth l.taints (l.last - blk) taint }
    else ⟨base, len, blk, [taint]⟩
  | none => ⟨base, len, blk, [taint]⟩

/-- The blocks that an append passes over: they read as zero until they are written. -/
def LineSt.passed (l : Option LineSt) (base len blocks blk : Nat) : List Nat :=
  match l with
  | some l => if l.base = base ∧ l.len = len ∧ l.last < blk ∧ blk ≤ l.last + blocks then
      (List.range (blk - 1 - l.last)).map fun i => l.last + 1 + i else []
  | none => []

/-- The samples of a DLY input block stored in the ring. -/
def putDly (shm : Mem) (base len tl : Nat) (c : Chan) : Mem :=
  (List.range 8).foldl (fun m n => mPutB zeroByte m (base + 3 * ((tl + n) % len)) (toLe 3 ((round24 (nth 0 c.smp n)).toNat / 256))) shm

/-- The samples of a FIR input block stored in the history line. -/
def putFir (shm : Mem) (base cap tl : Nat) (c : Chan) : Mem :=
  (List.range 8).foldl (fun m n => mPutB zeroByte m (base + 4 * ((tl + n) % cap)) (toLe 4 (nth 0 c.smp n).toNat)) shm

/-- A FIR line whose FIR_LEN changed in its place (R160 places no new line): its samples moved to their places in
the new length. -/
def moveFir (shm : Mem) (base old new : Nat) (l : LineSt) : Mem :=
  let keep := (List.range (min (min old new) (8 * l.taints.length))).map fun k =>
    let tl := 8 * l.last + 7 - k
    (tl, mNat zeroByte shm (base + 4 * (tl % old)) 4)
  keep.foldl (fun m x => mPutB zeroByte m (base + 4 * (x.1 % new)) (toLe 4 x.2)) shm

end Sys2Proof.Machine
end

