-- ==== Sys2Proof/Machine/Jobs.lean ====
section
/-! DEFINITION. Jobs, queues, stealing, taint, run-ahead and re-release, late jobs, flock gating, and the events of a
hen (chapters 04 and 05). -/

namespace Sys2Proof.Machine

/-! Keys and lookups. An instance of the old graph of a drain has its number + 65,536. -/

/-- The key of an instance. -/
def jobKey (old : Bool) (j : Nat) : Nat := if old then j + 65536 else j

/-- Whether a key names an instance of the old graph. -/
def keyOld (k : Nat) : Bool := decide (65536 ≤ k)

/-- The instance number of a key. -/
def keyNum (k : Nat) : Nat := if 65536 ≤ k then k - 65536 else k

/-- The bank an instance's graph lies in: during a drain the old graph lies in the latent bank (R71). -/
def State.bankOf (s : State) (k : Nat) : Mem := if keyOld k then s.latent else s.active

/-- An instance's table entry. -/
def State.inst (s : State) (k : Nat) : InstE := instE (s.bankOf k) (keyNum k)

/-- An instance's program entry. -/
def State.prog (s : State) (k : Nat) : ProgE := progE (s.bankOf k) (s.inst k).prog

/-- The depth of an instance in its graph. -/
def State.depth (s : State) (k : Nat) : Nat := depthOf (s.bankOf k) (keyNum k)

/-- An instance in the running block. -/
def State.job (s : State) (k : Nat) : JobSt := tget job0 s.jobs.jobs k

/-- An instance in the running block rewritten. -/
def State.setJob (s : State) (k : Nat) (v : JobSt) : State :=
  { s with jobs := { s.jobs with jobs := tset job0 s.jobs.jobs k v } }

/-- A hen. -/
def State.hen (s : State) (h : Nat) : HenSt := tget hen0 s.hens h

/-- A hen rewritten. -/
def State.setHen (s : State) (h : Nat) (v : HenSt) : State := { s with hens := tset hen0 s.hens h v }

/-- A flock. -/
def State.flock (s : State) (f : Nat) : FlockSt := tget flock0 s.jobs.flocks f

/-- A flock rewritten. -/
def State.setFlock (s : State) (f : Nat) (v : FlockSt) : State :=
  { s with jobs := { s.jobs with flocks := tset flock0 s.jobs.flocks f v } }

/-- A flock's queue. -/
def State.queue (s : State) (f : Nat) : List Nat := tget noQueue s.jobs.queues f

/-- A flock's queue rewritten. -/
def State.setQueue (s : State) (f : Nat) (q : List Nat) : State :=
  { s with jobs := { s.jobs with queues := tset noQueue s.jobs.queues f q } }

/-- Whether an instance runs in the present block (R75): enabled, and in a drain on the side of its stage (R71). -/
def State.takesPart (s : State) (k : Nat) : Bool :=
  (s.inst k).en && decide (keyNum k < nJob (s.bankOf k)) &&
    if s.dev.draining then (if keyOld k then decide (s.dev.jobsDone ≤ s.depth k) else decide (s.depth k < s.dev.jobsDone))
    else !keyOld k

/-- Whether a direct-class write has reached the boundary that applies it (R167). -/
def State.directDue (s : State) : Bool := s.audio.direct.head?.any fun q => decide (q.blk ≤ s.block)

/-- Whether work of the present block's start has still to be done: the boundary itself, a direct-class write, a develop that has reached its
TL, or a job stage switch (R68, R167, log entry 1). -/
def State.switchDue (s : State) : Bool :=
  s.bndDue || s.directDue || (s.dev.state == .armed && !s.dev.draining && s.dev.checked && decide (s.dev.t ≤ s.tl))
    || (s.dev.draining && decide (s.dev.jobsDone ≤ s.dev.depth) && decide (s.dev.t + 8 * (1 + s.dev.jobsDone) ≤ s.tl))

/-- Every instance that runs in the present block, live graph first. -/
def State.running (s : State) : List Nat :=
  ((live s.active).filter s.takesPart)
    ++ (if s.dev.draining then ((live s.latent).map (jobKey true)).filter s.takesPart else [])

/-- The ingest block an instance reads (R75), where there has been one. -/
def State.ingestOf (s : State) (k : Nat) : Option Nat :=
  if s.depth k + 1 ≤ s.block then some (s.block - 1 - s.depth k) else none

/-! Channels. -/

/-- The table key of a channel of an ingest block. -/
def ichKey (blk ch : Nat) : Nat := blk % 32 * 2048 + ch

/-- An ingest channel's block. -/
def State.ich (s : State) (blk ch : Nat) : Chan := tget chanD s.jobs.ich (ichKey blk ch)

/-- One sample of an ingest channel's block rewritten. -/
def Chan.setAt (c : Chan) (n : Nat) (w : Word) : Chan := { c with smp := setNth c.smp n w }

/-- An ingest channel's block rewritten. -/
def State.setIch (s : State) (blk ch : Nat) (c : Chan) : State :=
  { s with jobs := { s.jobs with ich := tset chanD s.jobs.ich (ichKey blk ch) c } }

/-- A link's key: the two graphs of a drain keep their links apart. -/
def linkKey (old : Bool) (l : Nat) : Nat := if old then l + 65536 else l

/-- A link's block. -/
def State.link (s : State) (old : Bool) (l : Nat) : Chan := tget chanD s.jobs.links (linkKey old l)

/-- The samples that replace a missing block (R27): the previous block's faded to zero, then zero. -/
def concealed (prev : Chan) : Chan :=
  if prev.conc then { chan0 with taint := true, conc := true }
  else ⟨(List.range 8).map fun k => BitVec.ofInt 32 ((nth 0 prev.smp k).toInt * (7 - k : Nat) / 8), true, true, false⟩

/-- A stream block as a run sees it: where it is still missing, its supply concealed and tainted (R96). -/
def State.ichSupplied (s : State) (blk ch : Nat) : Chan :=
  let c := s.ich blk ch
  if c.missing then concealed (if blk = 0 then chan0 else s.ich (blk - 1) ch) else c

/-- An internal return as a reader sees it (R24, R76): the block of its own ingest block for a forward return, the
block its writer wrote in the previous processing block for a feedback return. -/
def State.retBlock (s : State) (k ch : Nat) : Option Nat :=
  let b := s.bankOf k
  match writerOf b 2 ch with
  | none => s.ingestOf k
  | some w =>
    if isFeedback b (keyNum k) w then (if depthOf b w + 2 ≤ s.block then some (s.block - 2 - depthOf b w) else none)
    else s.ingestOf k

/-- An input channel of a run (R75, R80, R165). -/
def State.input (s : State) (k : Nat) (x : Nat × Nat) : Chan :=
  if x.1 = 1 then s.link (keyOld k) ((bypassLink (s.bankOf k) x).getD x.2)
  else
    let blk := if isReturn x.2 then s.retBlock k x.2 else s.ingestOf k
    match blk with
    | some n => s.ichSupplied n x.2
    | none => chan0

/-- The input channels of an instance with their samples, in list order. -/
def State.inputsOf (s : State) (k : Nat) : List ((Nat × Nat) × Chan) :=
  (inputs (s.bankOf k) (keyNum k)).map fun x => (x, s.input k x)

/-- Whether an input is a stream channel block that is still missing. -/
def State.missingIn (s : State) (k : Nat) (x : Nat × Nat) : Bool :=
  x.1 == 0 && match s.ingestOf k with
    | some n => (s.ich n x.2).missing
    | none => false

/-- Whether any stream input of an instance is still missing. -/
def State.anyMissing (s : State) (k : Nat) : Bool := (inputs (s.bankOf k) (keyNum k)).any (s.missingIn k)

/-- A channel's block written: ECH, link or internal return. An old graph's ECH gives way to a writer of the new
graph in the same block (R70). -/
def State.putOut (s : State) (k : Nat) (x : Nat × Nat) (c : Chan) : State :=
  if x.1 = 0 then
    let taken := keyOld k && match writerOf s.active 0 x.2 with
      | some w => s.takesPart w
      | none => false
    if taken then s else { s with jobs := { s.jobs with echNext := tset chanD s.jobs.echNext x.2 c } }
  else if x.1 = 1 then { s with jobs := { s.jobs with links := tset chanD s.jobs.links (linkKey (keyOld k) x.2) c } }
  else { s with jobs := { s.jobs with retNext := tset chanD s.jobs.retNext (jobKey (keyOld k) x.2) c } }

/-- What an output channel delivers: its own block, or the insert's input where it is bypassed (R165). -/
def State.delivered (s : State) (k : Nat) (x : Nat × Nat) (c : Chan) : Chan :=
  match bypassLink (s.bankOf k) x with
  | some l => s.link (keyOld k) l
  | none => c

/-- Every output block of a run written, in list order. -/
def State.putOuts (s : State) (k : Nat) : List ((Nat × Nat) × Chan) → State
  | [] => s
  | (x, c) :: t => State.putOuts (s.putOut k x (s.delivered k x c)) k t

/-- The previous block of an output channel, for its concealment. -/
def State.prevOut (s : State) (k : Nat) (x : Nat × Nat) : Chan :=
  if x.1 = 0 then tget chanD s.jobs.ech x.2
  else if x.1 = 1 then tget chanD s.jobs.linkPrev (linkKey (keyOld k) x.2)
  else tget chanD s.jobs.retPrev x.2

/-! Release and queues (R89, R90). -/

/-- Whether the instances an instance depends on have ended, none of them in a re-run (R89, R97). -/
def State.depsDone (s : State) (k : Nat) : Bool :=
  (deps (s.bankOf k) (keyNum k)).all fun w =>
    let j := s.job (jobKey (keyOld k) w)
    (j.phase == .ended || j.phase == .late) && !j.rerun

/-- The order of a flock's queue: deadline, then instance number (R90). -/
def State.before (s : State) (a b : Nat) : Bool :=
  let da := (s.inst a).deadline
  let db := (s.inst b).deadline
  decide (da < db) || (da == db && decide (keyNum a < keyNum b))

/-- An entry placed in a queue. -/
def State.insertQ (s : State) (k : Nat) : List Nat → List Nat
  | [] => [k]
  | a :: t => if s.before k a then k :: a :: t else a :: State.insertQ s k t

/-- An instance queued on its home flock. -/
def State.enqueue (s : State) (k : Nat) : State :=
  let f := (s.inst k).home
  let q := s.insertQ k (s.queue f)
  let fl := s.flock f
  (s.setQueue f q).setFlock f { fl with peak := max fl.peak q.length }

/-- A run-ahead release counted where a supplied block is still missing (R96). -/
def State.countRa (s : State) (k : Nat) : State :=
  if (s.job k).supplied && s.anyMissing k then (s.inc R.SCH_RA_COUNT).raise Pg.SCH 9 else s

/-- Whether an instance's state is still to come in a state copy (R306). -/
def State.awaitsState (s : State) (k : Nat) : Bool := s.twin.slice.contains k && !s.twin.got.contains k

/-- Whether jobs run: SCH enabled, in a mode that processes (Table 1.4). -/
def State.processes (s : State) : Bool := s.enabled Pg.SCH && s.mode.cur.counts

/-- Whether an instance may be released now (R89): in the graph, waiting, before its deadline, its dependencies ended and
its inputs present or supplied; and, while a state copy runs, no instance whose state is still to come (R306). -/
def State.releasable (s : State) (k : Nat) : Bool :=
  s.processes && !s.switchDue && s.takesPart k && !s.awaitsState k && (s.job k).phase == .waiting && decide (s.tick < (s.inst k).deadline)
    && s.depsDone k && ((s.job k).supplied || !s.anyMissing k)

/-- JOB_RELEASE (R89). One that was taken out of its queue to be held for a re-run of a dependency (R97) has been counted. -/
def doJobRelease (k : Nat) (s : State) : State :=
  if s.releasable k then
    let s := if (s.job k).hold then s else s.countRa k
    let j := s.job k
    (s.setJob k { j with phase := .queued, hold := false }).enqueue k
  else s

/-- RUN_AHEAD (R96): the missing blocks are supplied; the job is released where its dependencies have ended. -/
def doRunAhead (k : Nat) (s : State) : State :=
  let i := s.inst k
  if s.processes && s.takesPart k && i.raEn && s.on R.SCH_CFG_RA_EN && (s.job k).phase == .waiting && !(s.job k).supplied
      && decide (i.raTick ≤ s.tick) && decide (s.tick < i.deadline) && s.anyMissing k then
    doJobRelease k (s.setJob k { s.job k with supplied := true })
  else s

/-! Starting a run (R83, R90, R91). -/

/-- A region's zero or given bytes. -/
def putRegion (m : Mem) (at64 : Nat) (b : Bytes) : Mem := mPutB zeroByte m (64 * at64) b

/-- The bytes of a channel's block, 32 (R80). -/
def Chan.bytes (c : Chan) : Bytes := c.smp.flatMap fun w => toLe 4 w.toNat

/-- The address of a state half of an instance as an offset in shared memory (R87). -/
def State.stateHalf (s : State) (k : Nat) (other : Bool) : Nat :=
  let p := (tget inst0 s.jobs.inst k).parity
  64 * (s.inst k).stateBase + (if p != other then 64 * (s.prog k).stateLen else 0)

/-- The bytes of a stock instance's state (R87; log entry 15). -/
def stockBytes (st : StockSt) (n : Nat) : Bytes := (List.range n).map (Config.stockByte st)

/-- A stock instance's state as its current half holds it: what its last write-back left there, none where the half is zero (R88), and what its
program makes of any other bytes. -/
def State.stockOf (s : State) (k : Nat) : StockSt :=
  let n := 64 * (s.prog k).stateLen
  let b := mBytes zeroByte s.shm (s.stateHalf k false) n
  let st := tget stock0 s.jobs.stock k
  if b = stockBytes st n then st else if b.all (· == 0) then stock0 k else Config.stockState b

/-- A stock instance's state placed in its current half. -/
def State.putStock (s : State) (k : Nat) (st : StockSt) : State :=
  { s with shm := mPutB zeroByte s.shm (s.stateHalf k false) (stockBytes st (64 * (s.prog k).stateLen))
           jobs := { s.jobs with stock := tset stock0 s.jobs.stock k st } }

/-- A stock instance's state changed outside a run: by a develop, by a direct-class write, at the end of a crossfade. -/
def State.modStock (s : State) (k : Nat) (f : StockSt → StockSt) : State := s.putStock k (f (s.stockOf k))

/-- The context block (Table 4.6). -/
def State.context (s : State) (k : Nat) : Bytes :=
  let tl := (s.tlOf (8 * (s.ingestOf k).getD 0)).toNat
  toLe 4 (keyNum k) ++ toLe 4 (s.inst k).prog ++ toLe 8 tl ++ toLe 4 (b2n (tget inst0 s.jobs.inst k).first)

/-- The regions of a run as (offset, length) in bytes (R80). -/
def State.regionsOf (s : State) (k : Nat) : List (Nat × Nat) :=
  let p := s.prog k
  [(64 * p.inAt, 32 * (inputs (s.bankOf k) (keyNum k)).length), (64 * p.outAt, 32 * (outputs (s.bankOf k) (keyNum k)).length),
   (64 * p.stateAt, 64 * p.stateLen), (64 * p.paramAt, 64 * p.paramLen), (64 * p.scratchAt, 64 * p.scratchLen)]

/-- The parameters of a stock instance's busses (R144): their bus blocks, of an XMIX the crosspoints of its sources, of a FIR its coefficients. -/
def gathered (b : Mem) (j : Nat) : Bytes :=
  (List.range (numBus b j)).flatMap fun i =>
    let bus := firstBus b j + i
    mBytes bankD b (busOff bus) 0x400 ++
      match clsOf b j with
      | 1 => (xmixSources b j).flatMap fun k => mBytes bankD b ((k * 1024 + bus) * 2) 2
      | 4 => mBytes bankD b (0x500000 + 4 * firBase b bus) (4 * firLen b bus)
      | _ => []

/-- The history lines of a FIR instance's busses, as the device fetches them behind the listed inputs (R157). -/
def State.firLines (s : State) (k : Nat) : Bytes :=
  let b := s.bankOf k
  (List.range (numBus b (keyNum k))).flatMap fun i =>
    let bus := firstBus b (keyNum k) + i
    if firLen b bus = 0 then [] else
      mBytes zeroByte s.shm ((s.getW A.MIX_FIR_BASE).toNat - 0x10000000 + 64 * firHist b bus) (4 * firCap (firLen b bus))

/-- A hen's data memory before a run: the handler area kept (R134), the context block, the filled regions, zeros. -/
def State.dataFor (s : State) (h : HenSt) (k : Nat) (ins : List ((Nat × Nat) × Chan)) : Mem :=
  let p := s.prog k
  let m := h.dmem.filter fun x => decide (0x17C00 ≤ x.1)
  let m := mPutB zeroByte m 0 (s.context k)
  let m := putRegion m p.inAt (ins.flatMap fun x => x.2.bytes)
  let m := putRegion m p.stateAt (mBytes zeroByte s.shm (s.stateHalf k false) (64 * p.stateLen))
  if p.cls = 0 then putRegion m p.paramAt (mBytes bankD (s.bankOf k) (listParam (s.bankOf k) (s.inst k).list) (64 * p.paramLen))
  else
    let g := gathered (s.bankOf k) (keyNum k)
    let m := putRegion m p.paramAt ((List.range (64 * p.paramLen)).map (Config.stockParam p.cls g))
    if p.cls = 4 then mPutB zeroByte m (64 * p.inAt + 32 * ins.length) (s.firLines k) else m

/-- A run started on a hen (R83, R90): image, regions, registers; the inputs' taint is taken. -/
def State.startRun (s : State) (h k : Nat) : State :=
  let ins := s.inputsOf k
  let p := s.prog k
  let hs := s.hen h
  let same := hs.image == some (p.image, p.words) && p.cls == 0
  let imem := if p.cls ≠ 0 then mPutB zeroByte [] 0 ((List.range (8 * p.words)).map (Config.stockImage p.cls))
    else if same then hs.imem else mPutB zeroByte [] 0 (mBytes zeroByte s.shm (p.image - 0x10000000) (8 * p.words))
  let run : RunSt :=
    { old := keyOld k, j := keyNum k, cls := p.cls, words := p.words, regions := s.regionsOf k,
      taint := ins.any fun x => x.2.taint,
      taintIch := (ins.filter fun x => x.1.1 == 0 && decide (x.1.2 < 1024) && x.2.taint).map fun x => x.1.2, start := s.clk }
  let hs := { hen0 h with imem := imem, image := some (p.image, p.words), dmem := s.dataFor hs k ins, ovf := (s.inst k).ovf,
                          pc := p.entry, run := some run }
  (s.setHen h hs).setJob k { s.job k with phase := .running }

/-- The flock of a hen (Table 0.2). -/
def flockOf (h : Nat) : Nat := h / 16

/-- Whether a hen is idle in a flock that takes jobs, in a mode that processes. -/
def State.idleHen (s : State) (h : Nat) : Bool :=
  s.mode.cur.counts && (s.hen h).run.isNone && (s.flock (flockOf h)).powered && (s.flock (flockOf h)).taking

/-- JOB_START (R90): the head of the hen's own queue. -/
def doJobStart (h : Nat) (s : State) : State :=
  if s.idleHen h then
    match s.queue (flockOf h) with
    | k :: t => (s.setQueue (flockOf h) t).startRun h k
    | [] => s
  else s

/-- The flocks a thief looks at, nearer first, and at one distance the next in ascending direction first (R91). -/
def victimOrder (f range : Nat) : List Nat :=
  (List.range range).flatMap fun d => [(f + d + 1) % 16, (f + 16 - (d + 1)) % 16]

/-- The unpinned entries of a flock's queue. -/
def State.unpinned (s : State) (f : Nat) : List Nat := (s.queue f).filter fun k => !(s.inst k).pin

/-- The victim of a steal: most unpinned entries, at least STEAL_MIN, ties to the earlier in `victimOrder` (R91). -/
def State.victim (s : State) (f : Nat) : Option Nat :=
  ((victimOrder f (s.rd R.SCH_CFG_RANGE)).filter fun v => (s.flock v).powered && decide (s.rd R.SCH_CFG_STEAL_MIN ≤ (s.unpinned v).length)).foldl
    (fun a v => match a with
      | none => some v
      | some w => if (s.unpinned w).length < (s.unpinned v).length then some v else some w) none

/-- STEAL (R91): the unpinned entry with the latest deadline and highest instance number. -/
def doSteal (h : Nat) (s : State) : State :=
  let f := flockOf h
  if s.idleHen h && (s.queue f).isEmpty && s.on R.SCH_CFG_STEAL_EN then
    match s.victim f with
    | some v =>
      match (s.unpinned v).getLast? with
      | some k =>
        let s := s.setQueue v ((s.queue v).filter fun x => x != k)
        ((s.inc (R.FL_STEAL_IN_COUNT f)).inc (R.FL_STEAL_OUT_COUNT v)).startRun h k
      | none => s
    | none => s
  else s

/-! The end of a run (R87, R93 to R98). -/

/-- HCLK cycles in a number of ticks: 15,625 / 192 in one tick (R100). -/
def ticksToCycles (t : Nat) : Nat := t * 15625 / 192

/-- A value taken into a sliding extreme over the last 12,000 blocks; entries it makes useless are dropped. -/
def slideIn (better : Nat → Nat → Bool) (blk v : Nat) (l : List (Nat × Nat)) : List (Nat × Nat) :=
  ((l.filter fun x => decide (blk < x.1 + 12000) && better x.2 v && !(x.2 == v))) ++ [(blk, v)]

/-- A hen freed of its run, its busy time and slack taken (FL_BUSY, FL_SLACK). -/
def State.freeHen (s : State) (h : Nat) (slack : Nat) : State :=
  let hs := s.hen h
  let f := flockOf h
  let fl := s.flock f
  let busy := match hs.run with
    | some r => s.clk - r.start
    | none => 0
  let fl := { fl with busy := fl.busy + busy, slackMin := slideIn (fun a b => decide (a < b)) s.block slack fl.slackMin }
  (s.setFlock f fl).setHen h { hs with run := none, land := [], br := none, halt := none, pendDbg := false, pendDb := false }

/-- The hen that runs an instance. -/
def State.henOf (s : State) (k : Nat) : Option Nat :=
  (s.hens.find? fun x => match x.2.run with
    | some r => jobKey r.old r.j == k
    | none => false).map (·.1)

/-- A run longer than its declared CYCLES counted (R86); only a user program's length is known to the cycle. -/
def State.countOver (s : State) (k h cycles : Nat) : State :=
  if (s.prog k).cls = 0 ∧ (s.prog k).cycles < cycles then s.inc (R.FL_OVERRUN_COUNT (flockOf h)) else s

/-- An instance taken out of its queue. -/
def State.unqueue (s : State) (k : Nat) : State :=
  let f := (s.inst k).home
  s.setQueue f ((s.queue f).filter fun x => x != k)

/-- An instance taken out of its queue and off its hen, with a slack of zero; a run that has passed its CYCLES is counted (R86). -/
def State.pull (s : State) (k : Nat) : State :=
  let s := s.unqueue k
  match s.henOf k with
  | some h => (s.countOver k h (s.hen h).now).freeHen h 0
  | none => s

/-- What SCH_LATE_LAST and SCH_GOV_LAST hold for an instance and a flock. -/
def State.lastWord (s : State) (k f : Nat) : Word :=
  BitVec.ofNat 32 (keyNum k + (s.inst k).prog * 2 ^ 16 + f * 2 ^ 24)

/-- An abandonment counted (R98). -/
def State.countAbandon (s : State) : State := (s.inc R.SCH_ABANDON_COUNT).raise Pg.SCH 10

/-- A re-run abandoned (R98): the first, tainted results stand. A re-run that waits on it is abandoned with it: one released and held again, or
one still to be released of a consumer whose first run stands or goes on. A consumer held before its start is released. -/
def State.abandon (s : State) : Nat → Nat → State
  | 0, _ => s
  | n + 1, k =>
    let s := ((s.pull k).setJob k { s.job k with phase := .ended, rerun := false, again := false, hold := false }).countAbandon
    let waiting := (linkReaders (s.bankOf k) (keyNum k)).map (jobKey (keyOld k))
    waiting.foldl (fun s r =>
      let j := s.job r
      if j.rerun && j.hold then State.abandon s n r
      else if j.again then (s.setJob r { j with again := false }).countAbandon
      else doJobRelease r s) s

/-- A job withdrawn as late (R93): its outputs concealed and tainted, its state unmoved; counted. -/
def State.withdraw (s : State) (k : Nat) : State :=
  let f := match s.henOf k with
    | some h => flockOf h
    | none => (s.inst k).home
  let outs := (outputs (s.bankOf k) (keyNum k)).map fun x => (x, concealed (s.prevOut k x))
  let s := s.pull k
  let s := s.setJob k { s.job k with phase := .late, rerun := false, again := false, hold := false, onTime := false }
  let s := s.putOuts k outs
  let s := ((s.inc (R.FL_LATE_COUNT (s.inst k).home)).raise (Pg.FL (s.inst k).home) 8)
  ((s.inc R.SCH_LATE_COUNT).raise Pg.SCH 8).setW A.SCH_LATE_LAST (s.lastWord k f)

/-- Withdrawn as late, or, for a re-run, abandoned (R93, R98). -/
def State.giveUp (s : State) (k : Nat) : State :=
  if (s.job k).rerun then s.abandon (nJob (s.bankOf k) + 1) k else s.withdraw k

/-- LATE (R93): a job not ended at its deadline tick. -/
def doLate (k : Nat) (s : State) : State :=
  let j := s.job k
  if s.takesPart k && decide ((s.inst k).deadline ≤ s.tick) && !j.rerun
      && (j.phase == .waiting || j.phase == .queued || j.phase == .running) then s.withdraw k
  else s

/-- ABANDON (R98): a re-run not ended at its deadline tick. -/
def doAbandon (k : Nat) (s : State) : State :=
  let j := s.job k
  if s.takesPart k && decide ((s.inst k).deadline ≤ s.tick) && j.rerun then s.abandon (nJob (s.bankOf k) + 1) k else s

/-- HEN_ECC_ERROR (R94): the run is withdrawn; the hen goes on with its next job. -/
def doHenEcc (h : Nat) (s : State) : State :=
  match (s.hen h).run with
  | some r => (s.inc (R.FL_ECC_COUNT (flockOf h))).giveUp (jobKey r.old r.j)
  | none => s

/-- The consumers of a re-released job (R97): one that has not started is held until the re-run ends, and leaves its queue for that; one that has
started or ended, and has not yet been re-released in this block, is to be re-released when the re-run ends. -/
def State.markConsumers (s : State) (k : Nat) : State :=
  ((linkReaders (s.bankOf k) (keyNum k)).map (jobKey (keyOld k))).foldl (fun s r =>
    let j := s.job r
    match j.phase with
    | .queued => (s.unqueue r).setJob r { j with phase := .waiting, hold := true }
    | .running => if j.reran then s else s.setJob r { j with again := true }
    | .ended => if j.reran then s else s.setJob r { j with again := true }
    | _ => s) s

/-- A re-release (R97), at most once per block and before the deadline tick. -/
def State.rerelease (s : State) (k : Nat) : State :=
  let j := s.job k
  if j.phase == .ended && !j.reran && !j.rerun && decide (s.tick < (s.inst k).deadline) && s.processes && s.depsDone k then
    let s := s.setJob k { j with phase := .queued, rerun := true, reran := true, again := false }
    ((s.inc R.SCH_RERUN_COUNT).enqueue k).markConsumers k
  else s

/-- Whether a finished run of tainted inputs may run again: its last tainted input has been replaced (R97). -/
def State.cleared (s : State) (k : Nat) : Bool :=
  let j := s.job k
  j.phase == .ended && j.taint && !(j.taintIch.isEmpty) && (s.inputsOf k).all fun x => !x.2.taint

/-- Jobs whose tainted inputs have all been replaced are re-released (R97). -/
def State.rereleaseAll (s : State) : State :=
  (s.running.filter s.cleared).foldl State.rerelease s

/-- What a run leaves: its output blocks, its new state, whether a GOV flag is set. -/
structure RunOut where
  outs : List (List Word × Bool)
  half : Bytes
  stock : Option StockSt
  gov : Bool
  deriving DecidableEq, Repr

/-- The 8 samples of output `i` of a user run. -/
def outSamples (m : Mem) (at64 i : Nat) : List Word :=
  (List.range 8).map fun n => BitVec.ofNat 32 (mNat zeroByte m (64 * at64 + 32 * i + 4 * n) 4)

/-- The offset in shared memory of an address, clipped at its base. -/
def shmOff (a : Nat) : Nat := a - 0x10000000

/-- What the stock arithmetic reads for an instance (R144). -/
def State.stockIn (s : State) (k : Nat) : StockIn :=
  { b := s.bankOf k, j := keyNum k, wrap := (s.inst k).ovf, tl := 8 * (s.ingestOf k).getD 0, cfg := s.stepCfg, ins := s.inputsOf k,
    ich := fun c => match s.ingestOf k with
      | some n => s.ichSupplied n c
      | none => chan0
    shm := s.shm, dlyPool := shmOff (s.getW A.MIX_DLY_BASE).toNat, firPool := shmOff (s.getW A.MIX_FIR_BASE).toNat,
    dly := s.jobs.dly, fir := s.jobs.fir }

/-- What the run on a hen gives. With MIX disabled every stock job writes digital zero (MIX page). -/
def State.runOut (s : State) (k : Nat) (hs : HenSt) : RunOut :=
  let p := s.prog k
  if p.cls = 0 then
    let h := hs.drain
    ⟨(List.range (outputs (s.bankOf k) (keyNum k)).length).map fun i => (outSamples h.dmem p.outAt i, false),
      mBytes zeroByte h.dmem (64 * p.stateAt) (64 * p.stateLen), none,
      (List.range 8).any fun i => (tget acc0 h.accM i).gov⟩
  else
    let o := runStock (s.stockIn k) (s.stockOf k)
    let outs := if s.enabled Pg.MIX then o.outs else o.outs.map fun _ => (List.replicate 8 0, false)
    ⟨outs, stockBytes o.st (64 * p.stateLen), some o.st, o.gov⟩

/-- The new state written back into the other half (R87); of a stock instance it is the state that its bytes stand for from the commit point on. -/
def State.writeBack (s : State) (k : Nat) (o : RunOut) : State :=
  let s := { s with shm := mPutB zeroByte s.shm (s.stateHalf k true) o.half }
  match o.stock with
  | some st => { s with jobs := { s.jobs with stockNext := tset noStock s.jobs.stockNext k (some st) } }
  | none => s

/-- A hen's data memory after a stock run: its outputs and state where Table 6.5 places them; what its program leaves in the scratch region is open. -/
def State.stockLeaves (s : State) (h k : Nat) (o : RunOut) : State :=
  let p := s.prog k
  let hs := s.hen h
  let m := putRegion hs.dmem p.outAt (o.outs.flatMap fun x => x.1.flatMap fun w => toLe 4 w.toNat)
  let m := putRegion m p.stateAt o.half
  let m := putRegion m p.scratchAt ((List.range (64 * p.scratchLen)).map (Config.freeByte s.freeCtr))
  s.tick1.setHen h { hs with dmem := m }

/-- A run with a GOV flag set counted (R111). -/
def State.countGov (s : State) (k f : Nat) (gov : Bool) : State :=
  if gov then ((s.inc R.SCH_GOV_COUNT).raise Pg.SCH 11).setW A.SCH_GOV_LAST (s.lastWord k f) else s

/-- The end of a re-run (R97): its consumers marked for it are re-released, and those held for it released. -/
def State.wakeConsumers (s : State) (k : Nat) : State :=
  ((linkReaders (s.bankOf k) (keyNum k)).map (jobKey (keyOld k))).foldl (fun s r =>
    let j := s.job r
    if j.again && j.phase == .ended then s.rerelease r else if j.hold then doJobRelease r s else s) s

/-- RUN_END (R128): outputs and state are written back and the hen is free. A user run has issued HALT and its two
delay slots; when a stock run ends the spec does not say, so its end comes with the command (log entry 18). -/
def doRunEnd (h : Nat) (s : State) : State :=
  let hs := s.hen h
  match hs.run with
  | none => s
  | some r =>
    let k := jobKey r.old r.j
    if (r.cls ≠ 0 || hs.ended) && s.mode.cur.counts && decide (s.tick ≤ (s.inst k).deadline) then
      let o := s.runOut k hs
      let chans := ((outputs (s.bankOf k) (keyNum k)).zip o.outs).map fun x =>
        (x.1, (⟨x.2.1, r.taint || x.2.2, false, false⟩ : Chan))
      let was := (s.job k).rerun
      let s := (s.countOver k h (if r.cls = 0 then hs.drain.now else 0)).countGov k (flockOf h) o.gov
      let s := (s.writeBack k o).putOuts k chans
      let s := if r.cls = 0 then s else s.stockLeaves h k o
      let s := s.freeHen h ((s.inst k).deadline - s.tick)
      let s := s.setJob k { s.job k with phase := .ended, rerun := false, onTime := true, taint := r.taint, taintIch := r.taintIch }
      let s := if was then s.wakeConsumers k else s
      let s := if (s.job k).again then s.rerelease k else s
      if s.cleared k then s.rerelease k else s
    else s

/-! The words and interrupts of a hen (R112, R130 to R136). -/

/-- Accesses outside the regions counted (R84). -/
def State.countWin (s : State) (h j n : Nat) : State :=
  if n = 0 then s else
    ((s.incBy (R.FL_WIN_ERR_COUNT (flockOf h)) n).wr (R.FL_WIN_LAST_INST (flockOf h)) j).raise Pg.SCH 12

/-- WORD_ISSUE (R112): one word of a user run; a pending interrupt that can be taken goes first (R132). The words of a
stock image are Beyrnapel's and no part of the spec. -/
def doWordIssue (h : Nat) (s : State) : State :=
  let hs := s.hen h
  match hs.run with
  | none => s
  | some r =>
    if r.cls ≠ 0 || hs.ended || hs.takes.isSome then s else
      let o := hs.step r.words
      let s := (s.setHen h o.h).countWin h r.j o.win
      if o.fault then s.giveUp (jobKey r.old r.j) else s

/-- DEADLINE_ALARM (R136): the hen stops at the word boundary and R93 applies. -/
def doDeadlineAlarm (h : Nat) (s : State) : State :=
  match (s.hen h).run with
  | none => s
  | some r =>
    let k := jobKey r.old r.j
    if (s.inst k).deadline ≤ s.tick then s.giveUp k else s

/-- DOORBELL (R131): Sheepdog raises the debug or the doorbell interrupt, in COMMISSION only; it pends. -/
def doDoorbell (h : Nat) (dbg : Bool) (s : State) : State :=
  let hs := s.hen h
  if s.mode.cur == .commission && hs.run.isSome then
    s.setHen h (if dbg then { hs with pendDbg := true } else { hs with pendDb := true })
  else s

/-- INTERRUPT_ENTRY (R132). -/
def doInterruptEntry (h : Nat) (s : State) : State :=
  let hs := s.hen h
  match hs.run, hs.takes with
  | some _, some (dbg, word) => s.setHen h (hs.enter dbg word)
  | _, _ => s

/-! Flock power gating (R102, R103). -/

/-- Whether a graph that is live, or armed to become so, gives a flock home jobs (R102). -/
def State.flockHasHome (s : State) (f : Nat) : Bool :=
  !(homeJobs s.active f).isEmpty || (s.dev.state == .armed && !(homeJobs s.latent f).isEmpty)

/-- A write of 0 to FLf_CTRL.ENABLE (R102). A request refused for home jobs sets GATE_REFUSED, as one refused for its fence does (log entry 45). -/
def gateRequest (path f : Nat) (s : State) : State :=
  if s.flockHasHome f then (s.err (Pg.FL f) 0x008 0x40 path 0).raise (Pg.FL f) 11
  else (s.setEnable (Pg.FL f) false).setFlock f { s.flock f with gateReq := true, readyAt := none }

/-- A write of 1 to FLf_CTRL.ENABLE (R103): powered, and READY 12 blocks later. -/
def ungate (f : Nat) (s : State) : State :=
  let s := s.setEnable (Pg.FL f) true
  let fl := s.flock f
  if fl.powered && fl.taking then s.setFlock f { fl with gateReq := false, fencing := false }
  else s.setFlock f { fl with powered := true, gateReq := false, fencing := false, readyAt := some (s.block + 12) }

/-- UNGATED (R103). -/
def doUngated (f : Nat) (s : State) : State :=
  match (s.flock f).readyAt with
  | some b => if b ≤ s.block then (s.setFlock f { s.flock f with taking := true, readyAt := none }).raise (Pg.FL f) 10 else s
  | none => s

/-- Every job of a flock's queue or on its hens withdrawn as late (R449). -/
def State.withdrawFlock (s : State) (f : Nat) : State :=
  let s := (s.queue f).foldl State.giveUp s
  (List.range 16).foldl (fun s i => match (s.hen (16 * f + i)).run with
    | some r => s.giveUp (jobKey r.old r.j)
    | none => s) s

/-- A flock's hens zeroed (Table 16.3). -/
def State.zeroHens (s : State) (f : Nat) : State :=
  { s with hens := s.hens.filter fun x => x.1 / 16 != f }

end Sys2Proof.Machine
end

