-- ==== Sys2Proof/Machine/Serial.lean ====
section
/-! DEFINITION. Asynchronous converters and test generators (R169 to R172) and the serial audio port groups (chapter 07). -/

namespace Sys2Proof.Machine

/-! The slot table of a group in a bank (Table 7.3). -/

/-- A word of slot table `g`. -/
def slotW (b : Mem) (g off : Nat) : Nat := bkW b (0x600000 + 0x100 * g + off)

/-- SAPG_CFG decoded: rate in Hz, word length and slot in bits, ring length in frames. -/
structure GCfg where
  master : Bool
  bufloop : Bool
  lj : Bool
  fsCode : Nat
  wlen : Nat
  slot : Nat
  buf : Nat
  deriving DecidableEq, Repr

/-- The configuration of a group in a bank. -/
def gcfg (b : Mem) (g : Nat) : GCfg :=
  let w := slotW b g 0
  ⟨bitN w 0 == 1, bitN w 1 == 1, bitN w 2 == 1, bitsN w 4 3, nth 32 [16, 24, 32] (bitsN w 8 2), nth 32 [16, 24, 32] (bitsN w 10 2),
    16 * 2 ^ bitsN w 12 2⟩

/-- The frame rate in Hz that FS names. -/
def GCfg.hz (c : GCfg) : Nat := nth 192000 [44100, 48000, 88200, 96000, 176400, 192000] c.fsCode

/-- Whether the group's clocked channels are synchronous (R183). -/
def GCfg.sync (c : GCfg) : Bool := (c.master && c.fsCode == 3) || c.bufloop

/-- Whether channel `i` (2l + c) is enabled on input and on output. -/
def rxOn (b : Mem) (g i : Nat) : Bool := bitN (slotW b g 4) i == 1
def txOn (b : Mem) (g i : Nat) : Bool := bitN (slotW b g 8) i == 1

/-- Whether lane `l` is bi-phase on input and on output. -/
def rxBp (b : Mem) (g l : Nat) : Bool := bitN (slotW b g 0xC) l == 1
def txBp (b : Mem) (g l : Nat) : Bool := bitN (slotW b g 0xC) (16 + l) == 1

/-- Whether an input channel passes an asynchronous converter (R169), and whether an output channel does. -/
def rxConv (b : Mem) (g i : Nat) : Bool := rxOn b g i && (rxBp b g (i / 2) || !(gcfg b g).sync)
def txConv (b : Mem) (g i : Nat) : Bool := txOn b g i && (txBp b g (i / 2) || !(gcfg b g).sync)

/-- The channels that take converters, in the order in which they are counted (R450): by group, receive before transmit,
mask bits ascending; an egress channel counts + 2,048. Converter channel k serves the k-th (log entry 19). -/
def convList (b : Mem) : List Nat :=
  (List.range 8).flatMap fun g =>
    (((List.range 16).filter (rxConv b g)).map fun i => 1024 + 16 * g + i)
      ++ ((List.range 16).filter (txConv b g)).map fun i => 2048 + 1024 + 16 * g + i

/-! State accessors. -/

/-- A group. -/
def State.grp (s : State) (g : Nat) : GrpSt := tget grp0 s.audio.grps g

/-- A group rewritten. -/
def State.setGrp (s : State) (g : Nat) (v : GrpSt) : State :=
  { s with audio := { s.audio with grps := tset grp0 s.audio.grps g v } }

/-- A lane of a group. -/
def GrpSt.lane (v : GrpSt) (l : Nat) : LaneSt := tget lane0 v.lanes l

/-- A lane rewritten. -/
def GrpSt.setLane (v : GrpSt) (l : Nat) (x : LaneSt) : GrpSt := { v with lanes := tset lane0 v.lanes l x }

/-- The converter that serves a channel. -/
def State.conv (s : State) (ch : Nat) : ConvSt := tget conv0 s.audio.convs ch

/-- A converter rewritten. -/
def State.setConv (s : State) (ch : Nat) (v : ConvSt) : State :=
  { s with audio := { s.audio with convs := tset conv0 s.audio.convs ch v } }

/-- Whether a group takes part in the outside world: enabled, in any mode but BOOT and DARK (R196). -/
def State.grpOn (s : State) (g : Nat) : Bool := s.enabled (Pg.SAPG g) && s.mode.cur.counts

/-- The depth at which an ECH switches in a drain (R70). -/
def State.echSwitch (s : State) (e : Nat) : Nat :=
  match echDepth s.active e with
  | some n => n
  | none => (echDepth s.latent e).getD 0

/-- The bank that egress reads for an ECH: during a drain the old one until its switch (Table 3.5). -/
def State.txBank (s : State) (e : Nat) : Mem :=
  if s.dev.draining && decide (s.dev.egressDone ≤ s.echSwitch e) then s.latent else s.active

/-! Converters (R169, R170). -/

/-- Whether a ratio in Q2.30 lies from 0.44 to 2.10. -/
def ratioOk (r : Word) : Bool := decide (44 * 2 ^ 30 ≤ 100 * r.toNat) && decide (100 * r.toNat ≤ 210 * 2 ^ 30)

/-- Whether frames come in from a group's clock: running, or returned and being qualified. -/
def GrpPhase.clocked : GrpPhase → Bool
  | .qualify _ => true
  | .run => true
  | .lost (some _) => true
  | _ => false

/-- Whether the source of a converter's input is there: a locked bi-phase lane, or a group with a clock; the media clock
drives every output. -/
def State.convFed (s : State) (ch : Nat) : Bool :=
  if 2048 ≤ ch then s.grpOn ((ch - 3072) / 16)
  else
    let g := (ch - 1024) / 16
    let i := (ch - 1024) % 16
    s.grpOn g && (if rxBp s.active g (i / 2) then ((s.grp g).lane (i / 2)).lock else (s.grp g).phase.clocked)

/-- The converters of a bank kept: one that it does not need is free, and begins afresh where it is needed again (R169, R170). -/
def State.keepConvs (s : State) (b : Mem) : State :=
  let l := convList b
  { s with audio := { s.audio with convs := s.audio.convs.filter fun x => l.contains x.1 } }

/-- The word that a converter gives at egress: what it computes while locked, which the spec does not state (log entry 20); after a loss of lock the
concealment of R27 over the last 8 words; else digital zero. -/
def State.convWord (s : State) (ch : Nat) : Word × State :=
  let c := s.conv ch
  if c.lock then
    let w := Config.freeWord s.freeCtr
    (w, s.tick1.setConv ch { c with gave := (w :: c.gave).take 8 })
  else match c.fade with
    | some k => if k < 8 then (BitVec.ofInt 32 ((nth 0 c.gave (7 - k)).toInt * (7 - k : Nat) / 8), s.setConv ch { c with fade := some (k + 1) })
      else (0, s)
    | none => (0, s)

/-- An estimate comes into use (R170): a channel that gains its lock, SRC event 9; one that loses it is concealed, SRC event 8. -/
def State.useConv (s : State) (ch : Nat) (lock : Bool) (ratio phase : Word) : State :=
  let c := s.conv ch
  if lock && !c.lock then
    (s.setConv ch { c with lock := true, ratio := ratio, phase := phase, since := s.smp, conceal := false, gave := [], fade := none }).raise Pg.SRC 9
  else if c.lock && !lock then (s.setConv ch { c with lock := false, since := s.smp, conceal := true, fade := some 0 }).raise Pg.SRC 8
  else s.setConv ch { c with ratio := ratio, phase := phase }

/-- Every channel takes the chip's own estimate into use. -/
def State.useOwnConvs (s : State) : State :=
  s.audio.convs.foldl (fun s x => s.useConv x.1 (s.conv x.1).ownLock (s.conv x.1).ownRatio (s.conv x.1).phase) s

/-- A channel's own estimate, with whether the source's ratio is out of range; a chip outside a pair uses it at once (R296). -/
def State.setEstimate (s : State) (ch : Nat) (lock : Bool) (ratio : Word) (out : Bool) : State :=
  let s := s.setConv ch { s.conv ch with ownLock := lock, ownRatio := ratio, range := out }
  if s.ownNow then s.useConv ch lock ratio (s.conv ch).phase else s

/-- LOCKED (R170): the converter locks to its steady source. -/
def doLocked (k : Nat) (ratio : Word) (s : State) : State :=
  match (convList s.active)[k]? with
  | none => s
  | some ch => if !(s.conv ch).ownLock && ratioOk ratio && s.convFed ch then s.setEstimate ch true ratio false else s

/-! Test generators (R172). -/

/-- TYPE, LEVEL and VALUE of generator `g` in a bank (Table 9.2). -/
def tgCfg (b : Mem) (g : Nat) : Nat := bkW b (0x60A200 + 8 * g)
def tgParam (b : Mem) (g : Nat) : Nat := bkW b (0x60A204 + 8 * g)

/-- The LFSR of the pink noise generator stepped. -/
def lfsrStep (x : Word) : Word := (x >>> 1) ^^^ (if x.getLsbD 0 then 0x80200003 else 0)

/-- One sample of pink noise: v, and the generator after it. -/
def pinkStep (q : GenSt) : Int × GenSt :=
  let w : Word := q.x.sshiftRight 2
  let r := (List.range 3).foldl (fun (a : Int × Sparse BqSec) i =>
    let k := nth (0, 0) pinkCoefs i
    let p := bqSample false [BitVec.ofInt 32 k.1, 0, 0, BitVec.ofInt 32 k.2, 0] (tget bq0 q.secs i) w
    (a.1 + p.1.toInt, tset bq0 a.2 i p.2.1)) (w.toInt / 4, q.secs)
  (max (-2147483648) (min 2147483647 r.1), { q with x := lfsrStep q.x, secs := r.2 })

/-- A generator's sample at a TL and the generator after it. -/
def genSample (cfg param : Nat) (tl : Int) (q : GenSt) : Word × GenSt :=
  let level := min (bitsN cfg 16 16) 0xC000
  let gain : Int := gainOf level
  let value := bitsN param 0 19
  let scaled (v : Int) : Word := convert (BitVec.ofInt 72 (v * gain * 32)) false false
  let typ := bitsN cfg 0 2
  let n : Int := tl - q.t0
  if typ = 1 then
    let inc : Nat := (value * 2 ^ 32 + 768000) / 1536000
    (scaled (sineV ((inc : Int) * n % 2 ^ 32).toNat), q)
  else if typ = 2 then
    let p := pinkStep q
    (scaled p.1, p.2)
  else if typ = 3 then
    (if n % ((8 * max 1 value : Nat) : Int) = 0 then BitVec.ofInt 32 (min (gain * 16) 0x7FFFFFFF) else 0, q)
  else (0, q)

/-- A block of a generator. -/
def genBlock (cfg param : Nat) (tl : Int) (q : GenSt) : List Word × GenSt :=
  (List.range 8).foldl (fun a (n : Nat) =>
    let p := genSample cfg param (tl + (n : Nat)) a.2
    (a.1 ++ [p.1], p.2)) ([], q)

/-- The ingest block of every generator whose page is enabled, written when it is whole. -/
def State.ingestGens (s : State) (blk : Nat) : State :=
  (List.range 16).foldl (fun s g =>
    let p := genBlock (tgCfg s.active g) (tgParam s.active g) (s.tlOf (8 * blk)) (tget gen0 s.audio.gens g)
    let s := { s with audio := { s.audio with gens := tset gen0 s.audio.gens g p.2 } }
    s.setIch blk (1152 + g) ⟨p.1, false, false, false⟩) s

/-- A generator whose words a develop changes restarts at the develop's TL. -/
def State.restartGens (s : State) (old : Mem) (t : Nat) : State :=
  (List.range 16).foldl (fun s g =>
    if tgCfg old g = tgCfg s.active g ∧ tgParam old g = tgParam s.active g then s
    else { s with audio := { s.audio with gens := tset gen0 s.audio.gens g { gen0 g with t0 := t } } }) s

/-! Words of a frame (R175, R176). -/

/-- The number that a list of bits spells, first bit most significant. -/
def bitsMsb (l : List Bool) : Nat := l.foldl (fun a b => 2 * a + b2n b) 0

/-- The word of channel `ch` received in a frame: `bits` from the frame edge on, of which `avail` fell in the frame. -/
def laneWord (c : GCfg) (avail : Nat) (bits : List Bool) (ch : Nat) : Word :=
  let start := ch * c.slot + (if c.lj then 0 else 1)
  let v := bitsMsb ((List.range c.wlen).map fun k => decide (start + k < avail) && nth false bits (start + k))
  BitVec.ofNat 32 (v * 2 ^ (32 - c.wlen))

/-- A sample rounded and saturated to `wlen` bits, as a number of `wlen` bits (R176). -/
def sendWord (wlen : Nat) (x : Word) : Nat :=
  let sh := 32 - wlen
  let q := x.toInt / 2 ^ sh
  let rem := x.toInt % 2 ^ sh
  let up := decide (0 < sh) && (decide (2 ^ (sh - 1) < rem) || (rem == 2 ^ (sh - 1) && q % 2 == 1))
  let q := if up then q + 1 else q
  unsignedN wlen (min (2 ^ (wlen - 1) - 1) q)

/-- The egress sample `e` of an ECH, of the last committed blocks. -/
def State.egSample (s : State) (e ech : Nat) : Word :=
  if e / 8 = s.block then nth 0 (tget chanD s.jobs.ech ech).smp (e % 8)
  else if e / 8 < s.block then nth 0 (tget chanD (nth [] s.audio.echPast (s.block - e / 8 - 1)) ech).smp (e % 8)
  else 0

/-- The modes whose egress samples the output lanes carry (R196, Table 7.4). -/
def Mode.plays : Mode → Bool
  | .standalone => true | .leader => true | .follower => true | .orphan => true
  | _ => false

/-- Whether egress took sample `e` in a mode that plays it (R196). -/
def State.egLive (s : State) (e : Nat) : Bool :=
  if e / 8 = s.block then s.mode.cur.plays else decide (e / 8 < s.block) && nth false s.audio.echLive (s.block - e / 8 - 1)

/-- Whether two configuration words differ in what restarts a group (R191). -/
def restarts (a b : Nat) : Bool := bitsN a 0 12 != bitsN b 0 12

/-- The channel status bytes of an output lane in a bank (Table 7.3). -/
def txcsBytes (b : Mem) (g l : Nat) : Bytes := mBytes bankD b (0x600020 + 0x100 * g + 24 * l) 24

/-- The setting in force for output channel `i` at the present frame (R191): mask bit, bi-phase bit, channel status bytes. A slot switches with the
first frame whose sample follows the egress switch of its ECH, and a group that restarts switches at its restart. -/
def State.txNow (s : State) (g i : Nat) : Bool × Bool × Bytes :=
  let b := if restarts (slotW s.latent g 0) (slotW s.active g 0) then s.active else s.txBank (1024 + 16 * g + i)
  match (tget noTx s.audio.txOld (16 * g + i)).filter fun x => decide (s.smp < x.till) with
  | some x => (x.on, x.bp, x.cs)
  | none => (txOn b g i, txBp b g (i / 2), txcsBytes b g (i / 2))

/-- The word sent for an output channel in a frame that carries egress sample `e` (Table 7.2), or what the converter gives. A sample that egress has
not yet taken is no value the spec states (log entry 20). -/
def State.outWord (s : State) (g i wlen : Nat) (e : Int) : Nat × State :=
  let ech := 1024 + 16 * g + i
  let t := s.txNow g i
  if !t.1 then (0, s)
  else if t.2.1 || !(gcfg s.active g).sync then
    let p := s.convWord (2048 + ech)
    if s.egLive (s.smp - 50) then (sendWord wlen p.1, p.2) else (0, p.2)
  else if e < 0 then (0, s)
  else if s.block < e.toNat / 8 then (sendWord wlen (Config.freeWord s.freeCtr), s.tick1)
  else if s.egLive e.toNat then (sendWord wlen (s.egSample e.toNat ech), s) else (0, s)

/-- Several output words in order; a stopped output mule takes none out (R365). -/
def State.outWords (s : State) (g wlen : Nat) (e : Int) : List Nat → List Nat × State
  | [] => ([], s)
  | i :: t =>
    let p := if s.muleServes (65 + 2 * g) then s.outWord g i wlen e else (0, s)
    let r := p.2.outWords g wlen e t
    (p.1 :: r.1, r.2)

/-! The rings (R188). -/

/-- The base of a ring as an offset of shared memory. -/
def ringOff (a : Nat) : Nat := a - 0x10000000

/-- The position of a channel among the set bits of a slot mask. -/
def ringPos (mask i : Nat) : Nat := ((List.range i).filter fun k => bitN mask k == 1).length

/-- The place of position `j` of frame `f` in a ring of `buf` frames. -/
def ringAt (base buf f j : Nat) : Nat := base + j * 4 * buf + 4 * (f % buf)

/-- One word placed in a ring, and read from it. -/
def putRing (shm : Mem) (base buf f j : Nat) (w : Word) : Mem := mPutB zeroByte shm (ringAt base buf f j) (toLe 4 w.toNat)
def getRing (shm : Mem) (base buf f j : Nat) : Word := BitVec.ofNat 32 (mNat zeroByte shm (ringAt base buf f j) 4)

/-- A group's input and output rings. -/
def State.rxRing (s : State) (g : Nat) : Nat := ringOff (s.rd (R.SAPG_BUF_RX_ADDR g))
def State.txRing (s : State) (g : Nat) : Nat := ringOff (s.rd (R.SAPG_BUF_TX_ADDR g))

/-- The words of some channels placed in a ring by their slot mask, by channel number. -/
def putSlots (shm : Mem) (base buf f mask : Nat) (chans : List Nat) (w : Nat → Word) : Mem :=
  chans.foldl (fun m i => putRing m base buf f (ringPos mask i) (w i)) shm

/-- The channels of a mask. -/
def maskChans (mask : Nat) : List Nat := (List.range 16).filter fun i => bitN mask i == 1

/-- The clocked part of a bank's receive mask. -/
def rxClocked (b : Mem) (g : Nat) : Nat := bitsOfN ((List.range 16).map fun i => rxOn b g i && !rxBp b g (i / 2))
where
  /-- A number by its bits, bit 0 first. -/
  bitsOfN : List Bool → Nat
    | [] => 0
    | b :: t => b2n b + 2 * bitsOfN t

/-! Group operation. -/

/-- A mute begun, where none is open. -/
def GrpSt.mute (v : GrpSt) (start : Nat) (ramp : Bool) : GrpSt :=
  if v.mutes.any (·.stop.isNone) then v else { v with mutes := v.mutes ++ [⟨start, none, ramp⟩] }

/-- The open mute ended: the inputs are heard again from a sample on. -/
def GrpSt.unmute (v : GrpSt) (t : Nat) : GrpSt := { v with mutes := v.mutes.map fun m => if m.stop.isNone then { m with stop := some t } else m }

/-- A group that starts or restarts (R191, R197): it waits for its first frame edge at or after a sample, its inputs at zero from another; its bi-phase
output begins with frame 0 of a block (R181). -/
def GrpSt.restart (v : GrpSt) (t zeroFrom : Nat) : GrpSt :=
  { v.mute zeroFrom false with phase := .waiting t, lanes := (List.range 8).foldl (fun m l => tmod lane0 m l fun x => { x with txPos := 0, rxCnt := 0, txCnt := 0 }) v.lanes }

/-- Whether a group's bi-phase lanes work: they need no frame edge of the group (R174). -/
def State.bpLive (s : State) (g : Nat) : Bool :=
  s.grpOn g && match (s.grp g).phase with
    | .off => false
    | .waiting t => decide (t ≤ s.smp)
    | _ => true

/-- A group started at a frame edge (R191, R194): half a ring of zeros in a buffer-level loop, a new window, its clock qualified
afresh where it is slave. -/
def State.begin (s : State) (g : Nat) : State :=
  let c := gcfg s.active g
  let v := s.grp g
  let n := if c.bufloop then c.buf / 2 else 0
  let mask := (bitsN (slotW s.active g 4) 0 16, rxClocked s.active g)
  let v := { v with phase := if c.master then .run else .qualify s.smp, badRun := 0, noBclk := 0, winFrames := 0,
                    offset := 0, wr := n, rd := 0, masks := List.replicate n mask, level := 0, lastEdge := s.clk }
  let v := if c.master then v.unmute (s.smp + 1) else v
  let shm := (List.range n).foldl (fun m f => putSlots m (s.rxRing g) c.buf f mask.1 (maskChans mask.1) fun _ => 0) s.shm
  { s with shm := shm }.setGrp g v

/-- A due start or restart taken at a frame edge. -/
def State.startAtEdge (s : State) (g : Nat) : State :=
  match (s.grp g).phase with
  | .waiting t => if t ≤ s.smp then s.begin g else s
  | _ => s

/-- Whether the media clock has a frame edge of a rate now (R182): at 96 kHz where a sample period begins, at 48 kHz where an even-numbered one
begins, at 192 kHz at both halves of a sample period. -/
def State.mediaEdge (s : State) (fsCode : Nat) : Bool :=
  if fsCode = 1 then s.clk % 128 == 0 && s.tl % 2 == 0
  else if fsCode = 3 then s.clk % 128 == 0
  else if fsCode = 5 then s.clk % 64 == 0
  else false

/-- Whether a group takes a frame edge now: not off, not before its start; a master drives its own edges, one at a time, and only while the audio
PLL is in lock (R182, R448). -/
def State.frameable (s : State) (g : Nat) : Bool :=
  let c := gcfg s.active g
  let v := s.grp g
  s.grpOn g && (match v.phase with
      | .off => false
      | .waiting t => decide (t ≤ s.smp)
      | _ => true)
    && (!c.master || (!s.audio.apllLost && s.mediaEdge c.fsCode && (v.lastEdge != s.clk || v.wr == 0)))

/-- The bookkeeping of a slave's frame edge: wrong frames in a row (R177), frames of the window (R184), the clock's return (R186). -/
def GrpSt.edge (v : GrpSt) (c : GCfg) (bclks smp clk : Nat) : GrpSt :=
  if c.master then { v with lastEdge := clk } else
    { v with
      badRun := if bclks != 2 * c.slot then v.badRun + 1 else 0
      noBclk := if bclks = 0 then v.noBclk + 1 else 0
      winFrames := v.winFrames + 1
      lastEdge := clk
      phase := match v.phase with
        | .lost none => .lost (some smp)
        | p => p }

/-- Whether a group has a clocked lane in use (R184). -/
def clockedUse (b : Mem) (g : Nat) : Bool :=
  (List.range 16).any fun i => (rxOn b g i && !rxBp b g (i / 2)) || (txOn b g i && !txBp b g (i / 2))

/-- The clock of a group is lost (R185, R448): the group mutes from the next ingest sample on; a loss during a qualification begins it again.
`since`: from when the clock may be without fault again. -/
def State.clkLose (s : State) (g : Nat) (since : Option Nat) : State :=
  let v := { s.grp g with badRun := 0, noBclk := 0 }
  match v.phase with
  | .run => ((s.setGrp g { v.mute (s.smp + 1) true with phase := .lost since }).inc (R.SAPG_CLKLOSS_CNT_COUNT g)).raise (Pg.SAPG g) 8
  | .lost _ => s.setGrp g { v with phase := .lost since }
  | .qualify _ => s.setGrp g { v with phase := .qualify s.smp }
  | _ => s

/-- A frequency outside the window found (R184): a slave group with a clocked lane in use loses its clock. -/
def State.clkOutside (s : State) (g : Nat) : State :=
  if s.grpOn g && clockedUse s.active g && !(gcfg s.active g).master then
    s.clkLose g (some s.smp)
  else s

/-- The words of a received frame, channel by channel; a bi-phase lane and a masked channel give none. -/
def frameWords (b : Mem) (g bclks : Nat) (bits : List (List Bool)) : List Word :=
  let c := gcfg b g
  (List.range 16).map fun i =>
    if rxOn b g i && !rxBp b g (i / 2) then
      laneWord c (bclks + (if c.lj then 0 else 1)) (nth [] bits (i / 2)) (i % 2) else 0

/-- One sample of an ingest channel written. -/
def State.putIch (s : State) (tl ch : Nat) (w : Word) : State := s.setIch (tl / 8) ch ((s.ich (tl / 8) ch).setAt (tl % 8) w)

/-- The bank whose slot table a frame received now is taken under (R191): the bank that its sample meets at ingest, `lead` samples from now. None for
a frame whose sample a restart of the group cuts off. -/
def State.rxTable (s : State) (g lead : Nat) : Option Mem :=
  if s.dev.state == .armed && s.dev.checked && !s.dev.draining && decide (s.dev.t ≤ s.tl + lead) then
    (if restarts (slotW s.active g 0) (slotW s.latent g 0) then none else some s.latent)
  else some s.active

/-- The samples between a clocked frame and its ingest (Table 7.2). -/
def GCfg.lead (c : GCfg) : Nat := if c.bufloop then c.buf / 2 else if c.sync then 1 else 48

/-- A frame received: to the ring, by the group's input mule (R188), and to the converters of its channels. -/
def State.frameIn (s : State) (g bclks : Nat) (bits : List (List Bool)) : State :=
  let c := gcfg s.active g
  match s.rxTable g c.lead with
  | none => s
  | some b =>
    let v := s.grp g
    let w := frameWords b g bclks bits
    let mask := bitsN (slotW b g 4) 0 16
    let chans := maskChans (rxClocked b g)
    let s := if s.muleServes (64 + 2 * g) then { s with shm := putSlots s.shm (s.rxRing g) c.buf v.wr mask chans fun i => nth 0 w i } else s
    let s := if c.sync then s else chans.foldl (fun s i => s.setConv (1024 + 16 * g + i) { s.conv (1024 + 16 * g + i) with fed := nth 0 w i }) s
    s.setGrp g { v with wr := v.wr + 1, masks := ((mask, rxClocked b g) :: v.masks).take (max 1 c.buf) }

/-- The ingest samples that the synchronous groups take from their rings at the start of a sample (R183, R188): under the table with which the frame was
written; a converter's frames are its own matter. -/
def State.popRings (s : State) : State :=
  (List.range 8).foldl (fun s g =>
    let v := s.grp g
    let c := gcfg s.active g
    if !v.phase.clocked || v.wr ≤ v.rd then s
    else if !c.sync then s.setGrp g { v with rd := v.wr }
    else
      let m := nth (0, 0) v.masks (v.wr - 1 - v.rd)
      (maskChans m.2).foldl (fun s i =>
        s.putIch s.smp (1024 + 16 * g + i) (getRing s.shm (s.rxRing g) c.buf v.rd (ringPos m.1 i))) (s.setGrp g { v with rd := v.rd + 1 })) s

/-- The bits of a clocked lane's frame (R175): each word most significant bit first, then zeros to the end of its slot. -/
def frameBits (c : GCfg) (w0 w1 : Nat) : List Bool :=
  [w0, w1].flatMap fun w => (List.range c.slot).map fun k => decide (k < c.wlen) && bitN w (c.wlen - 1 - k) == 1

/-- The egress sample that the frame now sent carries (Table 7.2): of two samples ago, and in a buffer-level loop the one named by the ingest sample of the
frame, whose number in the ring is `f`. -/
def State.frameEgress (s : State) (g f : Nat) : Int :=
  let c := gcfg s.active g
  if c.bufloop then (s.smp : Int) + 1 + f - (s.grp g).rd - 2 - (c.buf / 2 : Nat) else (s.smp : Int) - 2

/-- A frame sent on the clocked output lanes, through the output ring (R188); they are low unless the group runs (R185, R191). -/
def State.frameOut (s : State) (g f : Nat) : State :=
  let c := gcfg s.active g
  let clocked := (List.range 16).filter fun i => !(s.txNow g i).2.1
  let live := (s.grp g).phase == .run
  let p := if live then s.outWords g c.wlen (s.frameEgress g f) clocked else (clocked.map fun _ => 0, s)
  let s := p.2
  let word (i : Nat) : Nat := nth 0 p.1 (clocked.idxOf i)
  let mask := rxClocked.bitsOfN ((List.range 16).map fun i => (s.txNow g i).1)
  let s := if live && s.muleServes (65 + 2 * g) then
    { s with shm := putSlots s.shm (s.txRing g) c.buf f mask (clocked.filter fun i => bitN mask i == 1) fun i => BitVec.ofNat 32 (word i * 2 ^ (32 - c.wlen)) }
    else s
  (List.range 8).foldl (fun s l =>
    if clocked.contains (2 * l) then s.emit (.serial g l (if c.lj then 0 else 1) (frameBits c (word (2 * l)) (word (2 * l + 1)))) else s) s

/-- A master's first frame edge after its clocks come back (R448): its inputs are heard from this frame on. -/
def State.masterBack (s : State) (g : Nat) : State :=
  match (s.grp g).phase with
  | .lost _ => if (gcfg s.active g).master then (s.setGrp g { (s.grp g).unmute (s.smp + 1) with phase := .run }).raise (Pg.SAPG g) 9 else s
  | _ => s

/-- SERIAL_FRAME (R175 to R177, R182, R183): a frame edge of a group. The frames of a master have the bit clocks that it drives. -/
def doSerialFrame (g : Nat) (bits : List (List Bool)) (bclks : Nat) (s : State) : State :=
  if s.frameable g then
    let c := gcfg s.active g
    let bclks := if c.master then 2 * c.slot else bclks
    let s := s.startAtEdge g
    let s := if bclks != 2 * c.slot then s.inc (R.SAPG_FRAME_ERR_COUNT g) else s
    let s := s.setGrp g ((s.grp g).edge c bclks s.smp s.clk)
    let s := if 16 ≤ (s.grp g).badRun then s.clkOutside g else s
    let s := s.masterBack g
    let f := (s.grp g).wr
    (s.frameIn g bclks bits).frameOut g f
  else s

/-- FWIN_WINDOW_END (R184): the frame rate over 512 frames judged against the window. -/
def doFwinWindowEnd (g mediaCycles : Nat) (s : State) : State :=
  let v := s.grp g
  let c := gcfg s.active g
  if s.grpOn g && !c.master && decide (513 ≤ v.winFrames) && decide (0 < mediaCycles) then
    let nom : Int := 512 * 24576000
    let got : Int := mediaCycles * c.hz
    let ppm := (nom - got) * 1000000 / got
    let far := decide ((s.rd (R.SAPG_FWIN_PPM g) : Int) * got < (nom - got) * 1000000)
      || decide ((s.rd (R.SAPG_FWIN_PPM g) : Int) * got < (got - nom) * 1000000)
    let s := s.setGrp g { v with winFrames := 1, offset := max (-32768) (min 32767 ppm) }
    if far then s.clkOutside g else s
  else s

/-- Whether a group's clock is missing: a slave sees no edge for 2 frame periods, or 2 frames without bit clocks (R184); a master has none while the
audio PLL is out of lock (R448). -/
def State.clkMissing (s : State) (g : Nat) : Bool :=
  let v := s.grp g
  let c := gcfg s.active g
  if c.master then s.audio.apllLost
  else decide (2 * 12288000 ≤ (s.clk - v.lastEdge) * c.hz) || decide (2 ≤ v.noBclk)

/-- CLK_LOST (R184, R185, R448): a clock that is missing is lost. A frequency outside the window mutes the group when it is found. -/
def doClkLost (g : Nat) (s : State) : State :=
  if s.grpOn g && clockedUse s.active g && s.clkMissing g then
    let s := s.clkLose g none
    s.setGrp g { s.grp g with winFrames := 0 }
  else s

/-- Whether a slave's lost or unqualified clock has been without fault for 768 samples (R186). -/
def State.clkGood (s : State) (g : Nat) : Bool :=
  s.grpOn g && !(gcfg s.active g).master && !s.clkMissing g &&
    match (s.grp g).phase with
    | .lost (some t) => decide (t + 768 ≤ s.smp)
    | .qualify t => decide (t + 768 ≤ s.smp)
    | _ => false

/-- CLK_OK (R186): the group plays again, its inputs from the next ingest sample on. A master's clocks come back with their first frame edge (R448). -/
def doClkOk (g : Nat) (s : State) : State :=
  if s.clkGood g then
    (s.setGrp g { (s.grp g).unmute (s.smp + 1) with phase := .run, winFrames := 0 }).raise (Pg.SAPG g) 9
  else s

/-- LOCK_LOST (R170): a ratio out of range counts as a frequency outside its group's window (R184). -/
def doLockLost (k : Nat) (out : Bool) (s : State) : State :=
  match (convList s.active)[k]? with
  | none => s
  | some ch =>
    let c := s.conv ch
    if c.ownLock || (out && !c.range) then
      let s := s.setEstimate ch false c.ownRatio out
      let g := (ch - 1024) % 2048 / 16
      let l := (ch - 1024) % 16 / 2
      if out && !(if ch < 2048 then rxBp s.active g l else txBp s.active g l) then s.clkOutside g else s
    else s

/-! Bi-phase lanes (R178 to R181). -/

/-- Even parity over bits 4 to 31 of a subframe. -/
def subParityOk (x : Subframe) : Bool :=
  ((((List.range 24).map fun i => b2n (x.audio.getLsbD i)).foldl (· + ·) 0) + b2n x.v + b2n x.u + b2n x.c + b2n x.p) % 2 == 0

/-- One subframe's V and parity handling (R180): counts, event 14, and whether it is to be concealed. -/
def State.vCheck (s : State) (b : Mem) (g l : Nat) (x : Subframe) : State × Bool :=
  let s1 := if x.v then (s.inc (R.SAPG_VCNT_COUNT g)).raise (Pg.SAPG g) 14 else s
  let s2 := if subParityOk x then s1 else s1.inc (R.SAPG_PERR_COUNT g)
  (s2, !subParityOk x || (x.v && bitN (slotW b g 0x10) l == 0))

/-- The C and U bits of a frame gathered (R179). -/
def LaneSt.gather (v : LaneSt) (x y : Subframe) : LaneSt × Bool :=
  let short := x.pre == .z && (match v.pos with
    | some n => decide (0 < n) && decide (n < 192)
    | none => false)
  let v := if x.pre == .z then { v with pos := some 0, c1 := [], u1 := [], diff := false } else v
  match v.pos with
  | none => (v, short)
  | some n =>
    if n < 192 then
      let v := { v with pos := some (n + 1), c1 := v.c1 ++ [x.c], u1 := v.u1 ++ [x.u], diff := v.diff || x.c != y.c }
      (if n + 1 = 192 then { v with pos := none, ready := some (v.c1, v.u1, v.diff), c1 := [], u1 := [] } else v, short)
    else (v, short)

/-- The word of a subframe's 24 audio bits (R178). -/
def subWord (x : Subframe) : Word := x.audio.setWidth 32 <<< 8

/-- BIPHASE_FRAME (R178 to R180): a decoded frame of a bi-phase input lane, under the table that its samples meet 48 samples on (R191). -/
def doBiphaseFrame (g l : Nat) (x y : Subframe) (s : State) : State :=
  match s.rxTable g 48 with
  | none => s
  | some b =>
  if s.bpLive g && rxBp b g l then
    let preOk := (x.pre == .x || x.pre == .z) && y.pre == .y
    let v := (s.grp g).lane l
    let v := { v with
      good := if preOk && !x.violation && !y.violation then v.good + 1 else 0
      bad := if preOk then 0 else v.bad + 1 }
    if v.lock then
      let p := s.vCheck b g l x
      let q := p.1.vCheck b g l y
      let s := q.1
      let word (i : Nat) : Word := if i % 2 = 0 then subWord x else subWord y
      let chans := [2 * l, 2 * l + 1].filter (rxOn b g)
      let s := chans.foldl (fun s i => s.setConv (1024 + 16 * g + i) { s.conv (1024 + 16 * g + i) with fed := word i }) s
      let s := if s.muleServes (64 + 2 * g) then
        { s with shm := putSlots s.shm (s.rxRing g) (gcfg s.active g).buf v.rxCnt (bitsN (slotW b g 4) 0 16) chans word } else s
      let v := { v with
        rxCnt := v.rxCnt + 1
        vAt0 := if p.2 && rxOn b g (2 * l) then s.smp :: v.vAt0 else v.vAt0
        vAt1 := if q.2 && rxOn b g (2 * l + 1) then s.smp :: v.vAt1 else v.vAt1 }
      let r := v.gather x y
      let s := if r.2 then s.inc (R.SAPG_BLK_ERR_COUNT g) else s
      s.setGrp g ((s.grp g).setLane l r.1)
    else s.setGrp g ((s.grp g).setLane l v)
  else s

/-- LANE_LOCK (R178): a lane locks after 64 good frames or unlocks after 2 without a valid preamble. -/
def doLaneLock (g l : Nat) (s : State) : State :=
  let v := (s.grp g).lane l
  if !v.lock && decide (64 ≤ v.good) then
    (s.setGrp g ((s.grp g).setLane l { v with lock := true, pos := none, c1 := [], u1 := [] })).raise (Pg.SAPG g) 11
  else if v.lock && decide (2 ≤ v.bad) then
    (s.setGrp g ((s.grp g).setLane l { v with lock := false, pos := none, c1 := [], u1 := [], ready := none })).raise (Pg.SAPG g) 11
  else s

/-- 192 bits as 24 bytes, bit 0 of byte 0 first. -/
def bitsToBytes (l : List Bool) : Bytes :=
  (List.range 24).map fun i => BitVec.ofNat 8 (((List.range 8).map fun k => b2n (nth false l (8 * i + k)) * 2 ^ k).foldl (· + ·) 0)

/-- One bit into the CRCC of AES3: x^8 + x^4 + x^3 + x^2 + 1, most significant coefficient first. -/
def crccBit (r : Nat) (b : Bool) : Nat :=
  let top := (bitN r 7 == 1) != b
  let r := r * 2 % 256
  if top then r ^^^ 0x1D else r

/-- The CRCC of the first 23 bytes of a channel status block, in transmission order, as byte 23 carries it: the
coefficient of x^7 in bit 0 (AES3). -/
def crcc (bits : List Bool) : Nat :=
  let r := (bits.take 184).foldl crccBit 255
  ((List.range 8).map fun k => bitN r (7 - k) * 2 ^ k).foldl (· + ·) 0

/-- Six words of a register set written from 24 bytes. -/
def State.setSix (s : State) (at6 : Nat → Nat) (b : Bytes) : State :=
  (List.range 6).foldl (fun s i => s.setW (at6 i) (BitVec.ofNat 32 (leNat ((b.drop (4 * i)).take 4)))) s

/-- CS_NEW (R179): a whole block is captured after the check of its CRCC. -/
def doCsNew (g l : Nat) (s : State) : State :=
  let v := (s.grp g).lane l
  match v.ready with
  | none => s
  | some (c, u, diff) =>
    let s := s.setGrp g ((s.grp g).setLane l { v with ready := none })
    let s := s.wrB ⟨A.SAPG_AES_STAT g, 16 + l, 1⟩ diff
    let b := bitsToBytes c
    if nth false c 0 && crcc c != (nth 0 b 23).toNat then s.inc (R.SAPG_CRCC_ERR_COUNT g)
    else
      let s := (s.setSix (A.SAPG_CS g l) b).setSix (A.SAPG_USR g l) (bitsToBytes u)
      s.raise (Pg.SAPG g) 12

/-- The channel status bits an output lane sends, byte 23 replaced by the CRCC for professional use (R181). -/
def txStatus (bytes : Bytes) : List Bool :=
  let bits := bytes.flatMap fun x => (List.range 8).map fun k => x.getLsbD k
  if nth false bits 0 then bits.take 184 ++ (List.range 8).map fun k => bitN (crcc bits) k == 1 else bits

/-- One output subframe as 28 bits, bit 4 first in bit 0: audio, V, U, C, P. -/
def outSub (audio : Nat) (c : Bool) : Nat :=
  let body := audio + b2n c * 2 ^ 26
  let ones := ((List.range 27).map (bitN body)).foldl (· + ·) 0
  body + ones % 2 * 2 ^ 27

/-- BIPHASE_OUTPUT_FRAME (R181): one frame of a bi-phase output lane, where the media clock has a frame edge of the group's rate. -/
def doBiphaseOutputFrame (g l : Nat) (s : State) : State :=
  let t := s.txNow g (2 * l)
  let c := gcfg s.active g
  if s.bpLive g && t.2.1 && s.mediaEdge c.fsCode then
    let v := (s.grp g).lane l
    let cb := nth false (txStatus t.2.2) v.txPos
    let p := s.outWords g 24 0 [2 * l, 2 * l + 1]
    let s := p.2
    let mask := rxClocked.bitsOfN ((List.range 16).map fun i => (s.txNow g i).1)
    let s := if s.muleServes (65 + 2 * g) then
      { s with shm := putSlots s.shm (s.txRing g) c.buf v.txCnt mask ([2 * l, 2 * l + 1].filter fun i => bitN mask i == 1) fun i =>
          BitVec.ofNat 32 (nth 0 p.1 (i % 2) * 256) } else s
    let s := s.emit (.biphase g l (v.txPos == 0) (outSub (nth 0 p.1 0) cb) (outSub (nth 0 p.1 1) cb))
    s.setGrp g ((s.grp g).setLane l { (s.grp g).lane l with txPos := (v.txPos + 1) % 192, txCnt := v.txCnt + 1 })
  else s

/-! The ingest of serial inputs, block by block. -/

/-- A block concealed without taint (R180, R195; R95 names neither). -/
def concealClean (prev : Chan) : Chan := { concealed prev with taint := false }

/-- Whether a subframe received at TL `r` conceals a block (R180). -/
def vHits (blk : Nat) (l : List Nat) : Bool := l.any fun r => decide (r + 40 ≤ 8 * blk + 7) && decide (8 * blk ≤ r + 56)

/-- What the converter of an input channel gives in a block (R170): zero unless locked, what the spec does not state
while locked (log entry 20), the concealment of R27 in the block that lost lock, unless
the group ramps (R185). -/
def State.convBlock (s : State) (blk ch : Nat) (ramps : Bool) : Chan × State :=
  let c := s.conv ch
  if c.conceal && !ramps then
    (if blk = 0 then chan0 else concealClean (s.ich (blk - 1) ch), s.setConv ch { c with conceal := false })
  else if c.lock || c.conceal then
    let k := s.freeCtr
    let s := s.setConv ch { c with conceal := false }
    (⟨(List.range 8).map fun n => if c.lock && decide (8 * blk + n < c.since) then 0 else Config.freeWord (k + n), false, false, false⟩,
      { s with freeCtr := k + 8 })
  else (chan0, s)

/-- What the mutes of a group leave of a clocked input channel's block (R185, R186, R191): the samples, and the sample that a ramp still fades. `held` is
the sample that a ramp begun in an earlier block fades, `last` the channel's last ingested sample. -/
def muteBlock (blk : Nat) (mutes : List Mute) (held last : Word) (c : Chan) : Chan × Word :=
  let r := (List.range 8).foldl (fun (a : Chan × Word × Word) (n : Nat) =>
    let tl := 8 * blk + n
    match mutes.find? fun m => decide (m.start ≤ tl) && (match m.stop with
        | some e => decide (tl < e)
        | none => true) with
    | none => (a.1, a.2.1, nth 0 a.1.smp n)
    | some m =>
      let h := if m.start = tl then a.2.2 else a.2.1
      let w : Word := if m.ramp && decide (tl - m.start < 32) then BitVec.ofInt 32 (h.toInt * (31 - (tl - m.start) : Nat) / 32) else 0
      (a.1.setAt n w, h, w)) (c, held, last)
  (r.1, r.2.1)

/-- The ingest block of one serial input channel, when it is whole. A synchronous channel masked off keeps the samples that frames brought in under an
earlier table (R188, R192). -/
def State.ingestSerialCh (s : State) (blk g i : Nat) : State :=
  let ch := 1024 + 16 * g + i
  let v := s.grp g
  let bp := rxBp s.active g (i / 2)
  let quiet := bp && (match v.phase with
    | .off => true
    | .waiting t => decide (8 * blk + 8 ≤ t)
    | _ => false)
  let prev := if blk = 0 then chan0 else s.ich (blk - 1) ch
  if quiet || !s.mode.cur.counts then s.setIch blk ch chan0
  else if !rxOn s.active g i then (if bp || !(gcfg s.active g).sync then s.setIch blk ch chan0 else s)
  else
    let ramps := v.mutes.any fun m => m.ramp && decide (m.start < 8 * blk + 8)
    let p := if rxConv s.active g i then s.convBlock blk ch (ramps && !bp) else (s.ich blk ch, s)
    let s := p.2
    let lane := v.lane (i / 2)
    let c := if !s.muleServes (64 + 2 * g) then concealed prev
      else if (bp && vHits blk (if i % 2 = 0 then lane.vAt0 else lane.vAt1)) || (!bp && v.slipBlk == some blk) then concealClean prev
      else p.1
    if bp then s.setIch blk ch c else
      let r := muteBlock blk v.mutes (nth 0 v.held i) (nth 0 prev.smp 7) c
      let v' := s.grp g
      let hs := if v'.held.length = 16 then v'.held else List.replicate 16 0
      (s.setGrp g { v' with held := setNth hs i r.2 }).setIch blk ch r.1

/-- Old subframes that can conceal no later block are forgotten. -/
def LaneSt.prune (v : LaneSt) (blk : Nat) : LaneSt :=
  let keep (r : Nat) : Bool := decide (8 * blk + 8 ≤ r + 56)
  { v with vAt0 := v.vAt0.filter keep, vAt1 := v.vAt1.filter keep }

/-- The ingest block of every serial input, written when it is whole (R183). -/
def State.ingestSerial (s : State) (blk : Nat) : State :=
  (List.range 8).foldl (fun s g =>
    let s := (List.range 16).foldl (fun s i => s.ingestSerialCh blk g i) s
    let v := s.grp g
    let v := (List.range 8).foldl (fun v l => v.setLane l ((v.lane l).prune blk)) v
    s.setGrp g { v with slipBlk := if v.slipBlk == some blk then none else v.slipBlk
                        mutes := v.mutes.filter fun m => match m.stop with
                          | some e => decide (8 * blk + 8 < e)
                          | none => true }) s

/-- L of R194 in 1/256 frame: frames written and not yet ingested, less half the ring, and the part of a frame since the
last frame edge. -/
def State.bufLevel (s : State) (g : Nat) : Int :=
  let v := s.grp g
  256 * ((v.wr : Int) - v.rd - ((gcfg s.active g).buf / 2 : Nat)) + min 255 (2 * (s.clk - v.lastEdge) : Nat)

/-- L measured at a block boundary in every buffer-level loop (R194). -/
def State.measureLevels (s : State) : State :=
  (List.range 8).foldl (fun s g =>
    if (gcfg s.active g).bufloop && (s.grp g).phase.clocked then s.setGrp g { s.grp g with level := s.bufLevel g } else s) s

/-- SLIP (R195): whole frames dropped or repeated until the level is zero; the block is concealed. The frames sent name their egress samples by the
ingest samples of the frames received (Table 7.2), so that both sides slip together. -/
def doSlip (g : Nat) (s : State) : State :=
  let v := s.grp g
  let c := gcfg s.active g
  if s.grpOn g && c.bufloop && v.phase.clocked && (decide (64 * (c.buf : Int) < v.level) || decide (v.level < -(64 * (c.buf : Int)))) then
    let rd := v.wr - c.buf / 2
    ((s.setGrp g { v with rd := rd, level := v.level - 256 * ((rd : Int) - v.rd), slipBlk := some s.block }).inc (R.SAPG_SLIP_COUNT g)).raise (Pg.SAPG g) 13
  else s

/-! Starts, applies and develops. -/

/-- SAPG CTRL.ENABLE written 1 or 0 (R197), the write itself having been accepted: the group starts at the next block
boundary or stops. -/
def State.sapgStart (s : State) (g : Nat) (on : Bool) : State :=
  if on then
    match (s.grp g).phase with
    | .off => s.setGrp g ((s.grp g).restart (8 * (s.block + 1)) (s.smp + 1))
    | _ => s
  else s.setGrp g { (grp0 g).mute (s.smp + 1) false with apply := (s.grp g).apply }

/-- A group whose framing changed restarts at the first frame edge at or after a sample, its inputs at zero from another. -/
def State.reframe (s : State) (g old t zeroFrom : Nat) : State :=
  let v := s.grp g
  match v.phase with
  | .off => s
  | _ => if restarts old (slotW s.active g 0) then s.setGrp g (v.restart t zeroFrom) else s

/-- An output lane that a table makes bi-phase begins with frame 0 of a block (R181). -/
def State.newBiphase (s : State) (old : Mem) (g : Nat) : State :=
  (List.range 8).foldl (fun s l =>
    if !txBp old g l && txBp s.active g l then s.setGrp g ((s.grp g).setLane l { (s.grp g).lane l with txPos := 0 }) else s) s

/-- The receive side of every group switches at the ingest stage of a develop (R191), and the converters that the old bank did not use are free. -/
def State.sapgDevelop (s : State) (old : Mem) (t : Nat) : State :=
  (List.range 8).foldl (fun s g => s.reframe g (slotW old g 0) t t) (s.keepConvs old)

/-- Whether a slot table holds a reserved encoding, as the offset of the first offending word (Table 7.3). -/
def slotReserved (b : Mem) (g : Nat) : Option Nat :=
  let base := 0x600000 + 0x100 * g
  let w (o : Nat) : Nat := slotW b g o
  if 6 ≤ bitsN (w 0) 4 3 ∨ bitsN (w 0) 8 2 = 3 ∨ bitsN (w 0) 10 2 = 3 ∨ bitN (w 0) 3 = 1 ∨ bitN (w 0) 7 = 1 ∨ bitsN (w 0) 14 18 ≠ 0 then some base
  else if bitsN (w 4) 16 16 ≠ 0 then some (base + 4)
  else if bitsN (w 8) 16 16 ≠ 0 then some (base + 8)
  else if bitsN (w 0xC) 8 8 ≠ 0 ∨ bitsN (w 0xC) 24 8 ≠ 0 then some (base + 0xC)
  else if bitsN (w 0x10) 8 24 ≠ 0 then some (base + 0x10)
  else ([0x14, 0x18, 0x1C] ++ (List.range 8).map fun k => 0xE0 + 4 * k).findSome? fun o => if w o ≠ 0 then some (base + o) else none

/-- Whether a slot table is invalid under R190, as the offset of the offending word. -/
def slotInvalid (b : Mem) (g : Nat) : Option Nat :=
  let base := 0x600000 + 0x100 * g
  let c := gcfg b g
  let mrate := c.fsCode == 1 || c.fsCode == 3 || c.fsCode == 5
  if (c.master && (!mrate || c.slot == 24)) || decide (c.slot < c.wlen) || (c.bufloop && (c.master || c.fsCode != 3)) then some base
  else if bitsN (slotW b g 0xC) 16 8 ≠ 0 && !mrate then some (base + 0xC)
  else none

/-- SAPG_APPLY.NEXT written 1 (R192, R73): refused, or the latent table is taken to be applied at boundary B, which travels with a mirrored
write. -/
def State.sapgApplyReq (s : State) (g path off : Nat) (bnd : Option Nat) : State :=
  let v := s.grp g
  if v.apply.isSome then s
  else if s.dev.state == .armed then s.err (Pg.SAPG g) off 0x05 path 1
  else
    let base := 0x600000 + 0x100 * g
    let bytes := mBytes bankD s.latent base 256
    let b := mPutB bankD s.active base bytes
    let need := (convList b).length
    if 256 < need then s.err (Pg.SAPG g) off 0x40 path (BitVec.ofNat 32 need)
    else match lowerOf (slotReserved b g) (slotInvalid b g) with
      | some o => s.err (Pg.SAPG g) off 0x41 path (BitVec.ofNat 32 o)
      | none =>
        let at8 := 8 * bnd.getD (s.block + 1 + (if s.mode.cur == .leader then 1 else 0))
        (s.setGrp g { v with apply := some (at8, bytes) }).wrB (R.SAPG_APPLY_NEXT g) true

/-- APPLIED (R192): at the first frame edge at or after boundary B the table takes effect in both directions. -/
def doApplied (g : Nat) (s : State) : State :=
  let v := s.grp g
  match v.apply with
  | none => s
  | some (at8, bytes) =>
    if at8 ≤ s.smp then
      let old := s.active
      let s := s.setGrp g { v with apply := none }
      let s := { s with active := mPutB bankD s.active (0x600000 + 0x100 * g) bytes }
      let s := (s.keepConvs s.active).newBiphase old g
      ((s.reframe g (slotW old g 0) s.smp (s.smp + 1)).wrB (R.SAPG_APPLY_NEXT g) false).raise (Pg.SAPG g) 10
    else s

end Sys2Proof.Machine
end

