-- ==== Sys2Proof/Machine/Mixer.lean ====
section
/-! DEFINITION. The router and mixer beside the stock runs: gain clamping (R141), direct-class writes (R166 to R168), crossfade
ends (R162), meters (R161) and the values of the MIX and SRC pages. -/

namespace Sys2Proof.Machine

/-! Gain fields and clamping (R141). -/

/-- Whether the halfword at an even bank offset is a gain field: a crosspoint, BUS_GAIN, a TRIM, or the LEVEL of a test
generator. -/
def gainField (o : Nat) : Bool :=
  decide (o < 0x400000)
    || (decide (0x400000 ≤ o) && decide (o < 0x500000) &&
        (o % 0x400 == 0 || (decide (0x20 ≤ o % 0x400) && decide (o % 0x400 < 0x60) && o % 8 == 4)))
    || (decide (0x60A200 ≤ o) && decide (o < 0x60A280) && o % 8 == 2)

/-- The halfword that starts at a request's byte. -/
def halfAt : List (Option Byte) → Option Nat
  | some a :: some b :: _ => some (a.toNat + 256 * b.toNat)
  | _ => none

/-- The gain fields of a request above +24 dB stored as 0xD800: the bytes to store, and how many were clamped. -/
def clampReq (o : Nat) : List (Option Byte) → List (Option Byte) × Nat
  | a :: b :: t =>
    if o % 2 = 1 then
      let r := clampReq (o + 1) (b :: t)
      (a :: r.1, r.2)
    else
      let r := clampReq (o + 2) t
      match halfAt (a :: b :: t) with
      | some v => if gainField o && decide (0xD800 < v) then (some 0x00 :: some 0xD8 :: r.1, r.2 + 1) else (a :: b :: r.1, r.2)
      | none => (a :: b :: r.1, r.2)
  | l => (l, 0)
termination_by structural l => l

/-- The clamps of a request counted (R141): MIX_CLAMP and MIX event 8. -/
def State.countClamps (s : State) (n : Nat) : State :=
  if n = 0 then s else (s.incBy R.MIX_CLAMP_COUNT n).raise Pg.MIX 8

/-! Fields a direct-class write may cover (R166). -/

/-- The bank offsets of the bytes a request covers. -/
def covered (o : Nat) : List (Option Byte) → List Nat
  | [] => []
  | none :: t => covered (o + 1) t
  | some _ :: t => o :: covered (o + 1) t

/-- The bits of a bank byte that a direct-class write may change, as a mask: all, some (BUS_CTL and the insert words) or none. -/
def directMask (o : Nat) : Nat :=
  if o < 0x400000 then 255
  else if o < 0x500000 then
    let k := o % 0x400
    if k < 2 then 255
    else if k = 2 then 0x0F
    else if k = 3 then 0
    else if k < 0xC then 255
    else if k < 0x20 then 0
    else if k < 0x60 then 255
    else if k < 0x6C then (if k % 4 = 3 then 0x40 else 0)
    else if k < 0x80 then 0
    else 255
  else if o < 0x600000 then 255
  else 0

/-- Whether a byte is part of a field that is direct-capable in some of its bits. -/
def directPart (o : Nat) : Bool :=
  decide (0x400000 ≤ o) && decide (o < 0x500000) &&
    (let k := o % 0x400
     k == 2 || k == 3 || (decide (0x60 ≤ k) && decide (k < 0x6C)))

/-- Whether every field of a request is direct-capable, partly capable fields counting where their other bits equal the
active values (R166). -/
def directOk (active : Mem) (o : Nat) : List (Option Byte) → Bool
  | [] => true
  | none :: t => directOk active (o + 1) t
  | some v :: t =>
    (directMask o == 255 ||
      (directPart o && (v.toNat ^^^ (tget bankD active o).toNat) &&& (255 - directMask o) == 0)) && directOk active (o + 1) t

/-- The busses whose bus block fields or crosspoints a request covers (R167). -/
def coveredBusses (o : Nat) (d : List (Option Byte)) : List Nat :=
  ((covered o d).filterMap fun a =>
    if a < 0x400000 then some (a / 2 % 1024) else if a < 0x500000 then some ((a - 0x400000) / 0x400) else none).eraseDups

/-! Applying a direct-class write (R167). -/

/-- A bus of an XMIX state after a direct-class write: the new route stands at once, and every point whose target the write
changed stands at it. -/
def xmixDirect (old new : Mem) (j bus : Nat) (bs : BusSt) : BusSt :=
  if bs.route.isNone then { bs with xf := none } else
  let route := xmixRoute new j bus
  let was := (bs.route.getD []).map RouteE.key
  let pts := route.foldl (fun m e =>
    if xpCode old e.key bus ≠ xpCode new e.key bus ∨ !was.contains e.key then tset noPt m e.key (some ⟨xpCode new e.key bus, 0⟩)
    else m) bs.pts
  { bs with route := some route, xf := none, pts := pts.filter fun p => route.any fun e => e.key == p.1 }

/-- A bus of a DLY state after a direct-class write; a destination that the write connects begins at its target (R163). -/
def dlyDirect (old new : Mem) (bus : Nat) (bs : BusSt) : BusSt :=
  if bs.route.isNone then { bs with xf := none } else
  let route := dlyRoute new bus
  let was (d : Nat) : Bool := (bs.route.getD []).any fun o => o.key == d && o.live
  let pts := route.foldl (fun m e =>
    if destTarget old bus e.key ≠ destTarget new bus e.key ∨ (tget noPt m e.key).isNone ∨ (e.live && !was e.key) = true then
      tset noPt m e.key (some ⟨destTarget new bus e.key, 0⟩)
    else m) bs.pts
  { bs with route := some route, xf := none, pts := pts }

/-- The biquad sections of a bus cleared as R155 says between two banks. -/
def bqClear (old new : Mem) (bus : Nat) (q : Sparse BqSec) : Sparse BqSec :=
  (List.range 32).foldl (fun q i =>
    let enters := decide (nBq old bus ≤ i) && decide (i < nBq new bus)
    let wakes := decide (i < nBq new bus) && bqBypass old bus i && !bqBypass new bus i
    if enters || wakes then tset bq0 q i (bq0 i) else q) q

/-- One stock instance's state after a direct-class write on a bus. -/
def stockDirect (old new : Mem) (j bus : Nat) (st : StockSt) : StockSt :=
  let bs := tget busSt0 st.busses bus
  let put (x : BusSt) : StockSt := { st with busses := tset busSt0 st.busses bus x }
  match clsOf new j with
  | 1 => put (xmixDirect old new j bus bs)
  | 2 => put { bs with bq := bqClear old new bus bs.bq }
  | 3 => put (dlyDirect old new bus bs)
  | _ => st

/-- The stock instances that serve a bus. -/
def busServers (b : Mem) (bus : Nat) : List Nat := servers b 1 bus ++ servers b 2 bus ++ servers b 3 bus

/-- A request with the bits that it may not change as a bank has them (R166). -/
def maskReq (b : Mem) (o : Nat) : List (Option Byte) → List (Option Byte)
  | [] => []
  | none :: t => none :: maskReq b (o + 1) t
  | some v :: t =>
    let m := BitVec.ofNat 8 (directMask o)
    some ((v &&& m) ||| (tget bankD b o &&& ~~~ m)) :: maskReq b (o + 1) t

/-- A request applied to the bank it reaches, with what it changes in the states of the stock instances of that bank's graph: the active bank, or,
where a develop has become live since it was carried out, the previous one (R73). -/
def State.applyDirect (s : State) (q : DirectReq) : State :=
  let old := if q.old then s.latent else s.active
  let new := mPut bankD old q.off (maskReq old q.off q.data)
  let s := if q.old then { s with latent := new } else { s with active := new }
  let s := if q.old && !s.dev.draining then s else
    (coveredBusses q.off q.data).foldl (fun s bus =>
      (busServers new bus).foldl (fun s j => s.modStock (jobKey q.old j) (stockDirect old new j bus)) s) s
  (s.inc R.MIX_DIRECT_CNT_COUNT).raise Pg.MIX 9

/-- DIRECT (R167): the first waiting direct-class write is applied at its boundary, once the boundary's own work is done. -/
def doDirect (s : State) : State :=
  match s.audio.direct with
  | [] => s
  | q :: t => if s.directDue && !s.bndDue then { s with audio := { s.audio with direct := t } }.applyDirect q else s

/-! Crossfades. -/

/-- CROSSFADE_END (R162): the crossfades of a bus whose samples have all been computed leave the new route alone. -/
def doCrossfadeEnd (bus : Nat) (s : State) : State :=
  (busServers s.active bus).foldl (fun s j =>
    match (tget busSt0 (s.stockOf j).busses bus).xf with
    | none => s
    | some x =>
      if x.start + x.len + 8 * (1 + depthOf s.active j) ≤ s.smp then
        s.modStock j fun st => { st with busses := tmod busSt0 st.busses bus fun bs => { bs with xf := none } }
      else s) s

/-! Meters (R161). -/

/-- The meter registers at a commit point: words 0 and 1 of ECH 1184 + m, its taint, and the hold. -/
def State.commitMeters (s : State) : State :=
  (List.range 32).foldl (fun s m =>
    let c := tget chanD s.jobs.ech (1184 + m)
    let pk := nth 0 c.smp 0
    let s := s.setW (A.MIX_MTR_PK m) pk
    let s := s.setW (A.MIX_MTR_MS m) (nth 0 c.smp 1)
    let s := if (s.getW (A.MIX_MTR_HOLD m)).toInt < pk.toInt then s.setW (A.MIX_MTR_HOLD m) pk else s
    s.setW (A.MIX_MTR_STAT m) (BitVec.ofNat 32 (b2n c.taint + 2 * b2n (pk == 0x7FFFFFFF)))) s

/-- MIX_MTR_CLR written: the holds of the selected meters are set to 0. -/
def mtrClr (value : Word) (s : State) : State :=
  (List.range 32).foldl (fun s m => if value.getLsbD m then s.setW (A.MIX_MTR_HOLD m) 0 else s) s

/-! Values of the MIX and SRC pages. -/

/-- MIX_LONG_USE: the busses served by a DLY instance with a line longer than 9,600 samples (R160). -/
def longLines (b : Mem) : List Nat := (busses b).filter fun bus => decide (9600 < dlyLen b bus) && !(servers b 3 bus).isEmpty

/-- The depth that MIX_PATH_LAT shows for an ECH: of the writer that feeds it now (R70, R139). -/
def State.pathWriter (s : State) (e : Nat) : Option (Mem × Nat) :=
  let b := s.txBank e
  (writerOf b 0 e).map fun j => (b, j)

/-- The port term of an ECH (R26): 2 serial, 3 power stage, the stream's presentation offset, 0 for a meter. -/
def portTerm (streamOfs : Nat → Nat) (e : Nat) : Nat :=
  if e < 1024 then streamOfs e else if e < 1152 then 2 else if e < 1184 then 3 else 0

/-- The TAP of the DLY destination that writes an ECH. -/
def pathTap (b : Mem) (j e : Nat) : Nat :=
  if clsOf b j ≠ 3 then 0
  else
    let dests := (List.range (numBus b j)).flatMap fun i =>
      let bus := firstBus b j + i
      ((List.range 8).filter (outUsed b bus)).map fun d => bitsN (outW0 b bus d) 0 18
    nth 0 dests ((outputs b j).idxOf (0, e))

/-- The bank that the job stage of a bus works by, and whether it is the old graph's of a drain: a bus takes the new bank at the job stage switch of its
depth in the new graph, or where the new graph does not process it, in the old one (R68, R148). -/
def State.busBank (s : State) (bus : Nat) : Mem × Bool :=
  if !s.dev.draining then (s.active, false) else
    let d := match lastXmix s.active bus with
      | some j => some (depthOf s.active j)
      | none => (lastXmix s.latent bus).map (depthOf s.latent)
    match d with
    | some n => if s.dev.jobsDone ≤ n then (s.latent, true) else (s.active, false)
    | none => (s.active, false)

/-- Whether any gain point of a bus is stepping, and whether a crossfade of it runs (MIX_BUS_INFO). -/
def State.busMoving (s : State) (bus : Nat) : Bool × Bool :=
  let b := (s.busBank bus).1
  let old := (s.busBank bus).2
  let now := s.smp
  let ptsOff (target : Nat → Nat) (m : Sparse (Option Pt)) : Bool := m.any fun x => match x.2 with
    | some p => p.pos != target x.1
    | none => false
  (busServers b bus).foldl (fun a j =>
    let bs := tget busSt0 (s.stockOf (jobKey old j)).busses bus
    let step := match clsOf b j with
      | 1 => ptsOff (fun k => xpCode b k bus) bs.pts ||
          (match bs.scale with
           | some p => p.pos != scaleTarget (bitsN (busCtl b bus) 2 2) (nActive b bus)
           | none => false)
      | 3 => ptsOff (destTarget b bus) bs.pts
      | _ => false
    let fade := match bs.xf with
      | some x => decide (now < x.start + x.len + 8 * (1 + depthOf b j))
      | none => false
    (a.1 || step, a.2 || fade)) (false, false)

/-- The S in use of a bus (MIX_BUS_SCALE): of its last XMIX instance. -/
def State.busScale (s : State) (bus : Nat) : Nat :=
  let b := (s.busBank bus).1
  match lastXmix b bus with
  | none => 0
  | some j =>
    match (tget busSt0 (s.stockOf (jobKey (s.busBank bus).2 j)).busses bus).scale with
    | some p => p.pos
    | none => scaleTarget (bitsN (busCtl b bus) 2 2) (nActive b bus)

/-- SRC_USE: converter channels at ingest and at egress. -/
def srcUse (b : Mem) : Nat × Nat :=
  let l := convList b
  ((l.filter fun c => decide (c < 2048)).length, (l.filter fun c => decide (2048 ≤ c)).length)

end Sys2Proof.Machine
end

