-- ==== Sys2Proof/Machine/Time.lean ====
section
/-! DEFINITION. The PTP unit, reference selection, the frequency monitor and holdover (chapter 10). -/

namespace Sys2Proof.Machine

/-! Numbers. -/

/-- ln 2 × 2^80, rounded down. -/
def ln2Q : Int := 0xb17217f7d1cf79abc9e3

/-- 2 × atanh(z) in Q80 for z in Q80, by `k` terms of its series from the term with divisor `d`. -/
def atanhTerms (z2 : Int) : Nat → Int → Int → Int → Int
  | 0, _, _, acc => 2 * acc
  | k + 1, d, t, acc => atanhTerms z2 k (d + 2) (t * z2 / 2 ^ 80) (acc + t / d)

/-- ln(num / den) in Q80, for positive numbers. -/
def lnQ (num den : Nat) : Int :=
  let k : Int := (Nat.log2 num : Int) - Nat.log2 den
  let n : Int := if k < 0 then num * 2 ^ (-k).toNat else num
  let d : Int := if k < 0 then den else den * 2 ^ k.toNat
  let z := (n - d) * 2 ^ 80 / (n + d)
  k * ln2Q + atanhTerms (z * z / 2 ^ 80) 60 1 z 0

/-- A quotient rounded to nearest, for a positive divisor. -/
def roundDiv (a b : Int) : Int := (2 * a + b) / (2 * b)

/-- A value saturated to a signed word. -/
def satWord (z : Int) : Word := BitVec.ofInt 32 (max (-2147483648) (min 2147483647 z))

/-- Ticks of an interval of 2^k seconds, `k` read as a signed nibble. -/
def intvTicks (k : Nat) : Nat :=
  match signedN 4 k with
  | .ofNat n => 12288000 * 2 ^ n
  | .negSucc n => 12288000 / 2 ^ (n + 1)

/-! The PTP unit. -/

/-- PTP_STAT.STATE. -/
def State.ptpState (s : State) : Nat := s.rd R.PTP_STAT_STATE

/-- The role in force: slave-only in FOLLOWER and ORPHAN (R256). -/
def State.ptpRole (s : State) : Nat :=
  if s.mode.cur == .follower || s.mode.cur == .orphan then 1 else s.force R.PTP_CFG_ROLE

/-- Whether the link of an external port is up. -/
def State.linkUp (s : State) (p : Nat) : Bool := s.on (R.ETH_STAT_LINK p)

/-- A port's lane stays up in DARK (R226). -/
def State.laneKept (s : State) (p : Nat) : Bool := s.on (R.ETH_WAKE_KEEP p) || s.rd (R.ETH_WAKE_PAT_EN p) != 0

/-- Whether a port's lane is powered (Table 16.7, R203, R226). -/
def State.lanePowered (s : State) (p : Nat) : Bool := s.enabled (Pg.ETH p) && (s.mode.cur != .dark || s.laneKept p)

/-- Whether a message that came in on an external port reaches what sits on the internal port: its link is up, and the device is not in DARK
(R226). -/
def State.heard (s : State) (p : Nat) : Bool := s.linkUp p && s.mode.cur != .dark

/-- Whether a message came over the transport of the profile in force (Table 10.1). -/
def State.transport (s : State) (udp : Bool) : Bool := udp == (s.force R.PTP_CFG_PROFILE == 1)

/-- PTP time in 2^-16 ns: while grandmaster it is derived from TL (R260). -/
def State.ptpNow (s : State) : Int :=
  if s.on R.PTP_STAT_GM then ((s.tl : Int) - s.tlOfs) * 125000 * 65536 / 12 + ((s.subTick * 65536 * 125000 : Nat) : Int) / (12 * 128)
  else s.ptp.time

/-- The whole part of the exact PTP-derived count (R57). -/
def State.ptpCount (s : State) : Int := s.ptpNow * 12 / (125000 * 65536)

/-- LOCK falls, with its event. -/
def State.ptpUnlock (s : State) : State :=
  let s := { s with ptp := { s.ptp with good := 0, bad := 0 } }
  if s.on R.PTP_STAT_LOCK then (s.wrB R.PTP_STAT_LOCK false).raise Pg.PTP 9 else s

/-- The mean path delay d of a port in ns (R257; zero where none is held, log entry 21). -/
def State.pathDelay (s : State) (port : Nat) : Int :=
  if s.on R.PTP_TC_CFG_P2P then (if s.on (R.PTP_LINK_DLY_VALID port) then (s.rd (R.PTP_LINK_DLY_NS port) : Int) else 0)
  else if s.ptp.e2e.isEmpty then 0 else s.ptp.e2e.foldl (· + ·) 0 / s.ptp.e2e.length

/-- One offset fed to the servo (R257, R258). -/
def State.servo (s : State) (o d : Int) : State :=
  let s := ((s.inc R.PTP_RX_SYNC_COUNT).setW A.PTP_OFFSET (satWord o)).setW A.PTP_MPD (satWord d)
  let s := (s.wrB R.PTP_STAT_HOLD false)
  let s := { s with ptp := { s.ptp with lastSync := s.clk } }
  if s.on R.PTP_CFG_STEP_EN && decide (s.rd R.PTP_STEP_NS < o.natAbs) then
    let s := if s.takesMsgs then s else { s with ptp := { s.ptp with time := s.ptp.time - o * 65536 } }
    ((s.ptpUnlock).inc R.PTP_STEPS_COUNT).raise Pg.PTP 12
  else
    let i := s.ptp.i16 + (s.rd R.PTP_SERVO_KI : Int) * o
    let lim : Int := 500000 * 65536
    let adj := max (-lim) (min lim (i + (s.rd R.PTP_SERVO_KP : Int) * o))
    let near := decide (o.natAbs ≤ s.rd R.PTP_LOCK_NS)
    let far := decide (4 * s.rd R.PTP_LOCK_NS < o.natAbs)
    let s := { s with ptp := { s.ptp with i16 := i, adj16 := adj, adjNow := if s.ownNow then adj else s.ptp.adjNow, good := if near then s.ptp.good + 1 else 0, bad := if far then s.ptp.bad + 1 else 0 } }
    let s := s.setW A.PTP_FREQ (satWord (adj / 256))
    if 2 ≤ s.ptp.bad then s.ptpUnlock else s

/-- The offset of a Sync with its origin and total correction (R257). -/
def State.syncOffset (s : State) (port : Nat) (ingress origin corr : Int) : State :=
  let d := s.pathDelay port
  let s := { s with ptp := { s.ptp with diff := ingress - origin - corr, wait := none } }
  s.servo (ingress - origin - corr - d) d

/-- Whether a message is the followed master's, on its port. -/
def State.fromMaster (s : State) (port : Nat) (m : SyncMsg) : Bool :=
  s.heard port && s.enabled Pg.PTP && s.ptpState == 3 && m.domain == s.force R.PTP_CFG_DOMAIN && s.transport m.udp
    && s.ptp.parent == some m.source && s.rd R.PTP_STAT_PORT == port

/-- SYNC (R257). -/
def doSync (port : Nat) (m : SyncMsg) (s : State) : State :=
  if s.fromMaster port m then
    if m.twoStep then { s with ptp := { s.ptp with wait := some (m, port), lastSync := s.clk } }
    else s.syncOffset port m.ingress m.origin m.correction
  else s

/-- FOLLOW_UP (R257): the origin timestamp of the Sync it belongs to. -/
def doFollowUp (port : Nat) (m : SyncMsg) (s : State) : State :=
  match s.ptp.wait with
  | some (w, p) =>
    if s.fromMaster port m && w.source == m.source && w.seq == m.seq && p == port then
      s.syncOffset port w.ingress m.origin (w.correction + m.correction)
    else s
  | none => s

/-- PTP_LOCKED (R258): LOCK rises after COUNT Syncs within the threshold. -/
def doPtpLocked (s : State) : State :=
  if s.ptpState == 3 && !s.on R.PTP_STAT_LOCK && decide (s.rd R.PTP_LOCK_COUNT ≤ s.ptp.good) then
    (s.wrB R.PTP_STAT_LOCK true).raise Pg.PTP 8
  else s

/-! Best master clock (R253, R256, R259). -/

/-- The order of two data sets of IEEE 1588-2019 and of IEEE 802.1AS: priority1, clockClass and clockAccuracy, variance, priority2, identity, then
steps and source. -/
def annKey (m : AnnounceMsg) : List Nat := [m.prio1, m.gmQuality, m.gmVariance, m.prio2, m.gmId, m.steps, m.source]

/-- Lexicographic order. -/
def lexLt : List Nat → List Nat → Bool
  | a :: s, b :: t => decide (a < b) || (a == b && lexLt s t)
  | _, _ => false

/-- The least of a list by a key. -/
def leastBy {α : Type} (key : α → List Nat) : List α → Option α
  | [] => none
  | a :: t => match leastBy key t with
    | none => some a
    | some b => if lexLt (key b) (key a) then some b else some a

/-- The device MAC address (BR_MAC_HI and BR_MAC_LO). -/
def State.mac (s : State) : Nat := s.rd R.BR_MAC_HI_MAC * 2 ^ 32 + s.rd R.BR_MAC_LO_MAC

/-- The device's clock identity: its MAC address as an EUI-64 (PRESUMED, IEEE 1588, log entry 22). -/
def State.clockId (s : State) : Nat := s.mac / 2 ^ 24 * 2 ^ 40 + 0xFFFE * 2 ^ 24 + s.mac % 2 ^ 24

/-! Reference candidates (R262 to R264). -/

/-- A candidate. -/
def State.cand (s : State) (n : Nat) : CandSt := tget cand0 s.ref.cands n

/-- A candidate rewritten. -/
def State.setCand (s : State) (n : Nat) (c : CandSt) : State := { s with ref := { s.ref with cands := tset cand0 s.ref.cands n c } }

/-- REF_CAND_n in force (R270). -/
def State.candW (s : State) (n : Nat) : Nat := (s.forceW (A.REF_CAND n)).toNat
def State.candPrio (s : State) (n : Nat) : Nat := bitsN (s.candW n) 0 4
def State.candLoop (s : State) (n : Nat) : Bool := bitN (s.candW n) 8 == 1
def State.candGrp (s : State) (n : Nat) : Nat := bitsN (s.candW n) 12 3
def State.candLane (s : State) (n : Nat) : Nat := bitsN (s.candW n) 16 3

/-- Whether the twin link is up and carries the twin's timing: its edges arrive, and so did its last block message. -/
def State.twinTimed (s : State) : Bool := s.twUp && (s.cand 7).input && s.ref.timing

/-- Whether a candidate is present (Table 10.2, R262, R264). -/
def State.candPresent (s : State) (n : Nat) : Bool :=
  s.candPrio n != 0 &&
    (if n = 0 then s.ptpState == 3 && s.on R.PTP_STAT_LOCK
     else if 2 ≤ n ∧ n ≤ 5 then
       (if s.candLoop n then
          (gcfg s.active (s.candGrp n)).bufloop && s.grpOn (s.candGrp n) && (s.grp (s.candGrp n)).phase == .run
        else (s.cand n).input && ((s.grp (s.candGrp n)).lane (s.candLane n)).lock)
     else if n = 7 then s.twinTimed && !s.ref.twinAct7
     else (s.cand n).input)

/-- The quality of a candidate (Table 10.2, R263). -/
def State.candQ (s : State) (n : Nat) : Nat :=
  if n = 0 then s.rd R.PTP_GMQ_Q
  else if 2 ≤ n ∧ n ≤ 5 ∧ !s.candLoop n then
    let w0 := (s.getW (A.SAPG_CS (s.candGrp n) (s.candLane n) 0)).toNat
    let w1 := (s.getW (A.SAPG_CS (s.candGrp n) (s.candLane n) 1)).toNat
    if bitN w0 0 = 0 then 0xFFFF
    else if bitsN w1 0 2 = 1 then s.force R.REF_AESQ_G1
    else if bitsN w1 0 2 = 2 then s.force R.REF_AESQ_G2
    else 0xFFFF
  else if n = 7 then s.ref.twinQ
  else s.force (R.REF_QUAL_Q n)

/-- Fit (R266). -/
def State.candFit (s : State) (n : Nat) : Bool :=
  s.candPresent n && s.candQ n != 0xFFFF && decide (s.candQ n ≤ s.force R.REF_CFG_QMAX)

/-- The output quality (R284, Table 10.3). -/
def State.outQ (s : State) : Nat :=
  match s.ref.state with
  | .locked => s.candQ s.ref.act
  | .acquiring => s.candQ s.ref.act
  | .holdover => if s.ref.elapsed ≤ s.rd R.HOLD_SPEC_S then s.force R.REF_HOLDQ_Q1 else s.force R.REF_HOLDQ_Q2
  | .freeRun => 0xF8FE

/-- Whether TL follows PTP (R56, R260). -/
def State.srcPtp (s : State) : Bool :=
  s.on R.PTP_STAT_GM ||
    (if s.ref.leader then s.ref.leadAct == 0 && (s.ref.state == .acquiring || s.ref.state == .locked)
     else s.ref.act == 0 && (s.ref.state == .acquiring || s.ref.state == .locked))

/-- The identity of one of the device's PTP ports: 1 the ordinary clock; for link delays external port p has p + 1 (PRESUMED, log entry 22). -/
def State.ptpId (s : State) (n : Nat) : Nat := s.clockId * 65536 + n

/-- The data set the device announces (R260). -/
def State.ownAnn (s : State) : AnnounceMsg :=
  ⟨s.force R.PTP_CFG_DOMAIN, s.ptpId 1, s.clockId, s.outQ, 0xFFFF, s.rd R.PTP_PRIO_PRIO1, s.rd R.PTP_PRIO_PRIO2, 0, false, false⟩

/-- Ticks of the Announce interval, and of the Announce timeout (R259). -/
def State.annTicks (s : State) : Nat := intvTicks (s.rd R.PTP_INTV_ANN)
def State.annTmo (s : State) : Nat := s.rd R.PTP_INTV_ANN_TMO * s.annTicks

/-- Whether a master takes part in the choice: the one followed, or one with two Announces within the last four intervals (IEEE 1588-2019
9.3.2.4). -/
def State.qualified (s : State) (f : Foreign) : Bool :=
  s.ptp.parent == some f.m.source || match f.prev with
    | some t => decide (s.clk ≤ t + 4 * s.annTicks)
    | none => false

/-- A change of grandmaster or parent: counted, with its event, and LOCK falls (R259). -/
def State.masterChange (s : State) : State := ((s.inc R.PTP_MASTER_CHG_COUNT).raise Pg.PTP 10).ptpUnlock

/-- The grandmaster shown in PTP_GMID and PTP_GMQ. -/
def State.showGm (s : State) (m : AnnounceMsg) : State :=
  let s := (s.wr R.PTP_GMID_LO_ID (m.gmId % 2 ^ 32)).wr R.PTP_GMID_HI_ID (m.gmId / 2 ^ 32)
  (s.wr R.PTP_GMQ_Q m.gmQuality).wr R.PTP_GMQ_PRIO1 m.prio1

/-- The device stops being grandmaster: its clock goes on from the time it served. -/
def State.leaveGm (s : State) : State :=
  if s.on R.PTP_STAT_GM then { s with ptp := { s.ptp with time := s.ptpNow } }.wrB R.PTP_STAT_GM false else s

/-- The port becomes master, and the device grandmaster (R260). -/
def State.toMaster (s : State) : State :=
  if s.ptpState == 4 then s
  else
    let me := some (s.ptpId 1)
    let s := if s.ptp.parent.isSome && s.ptp.parent != me then s.masterChange else s.ptpUnlock
    let s := (((s.wr R.PTP_STAT_STATE 4).wrB R.PTP_STAT_GM true).wrB R.PTP_STAT_HOLD false).showGm s.ownAnn
    { s with ptp := { s.ptp with parent := me, wait := none } }

/-- The port becomes, or stays, slave of a master. -/
def State.toSlave (s : State) (f : Foreign) : State :=
  let s := s.leaveGm
  let gm0 := s.rd R.PTP_GMID_HI_ID * 2 ^ 32 + s.rd R.PTP_GMID_LO_ID
  let other := s.ptp.parent.isSome && (s.ptp.parent != some f.m.source || gm0 != f.m.gmId)
  let fresh := s.ptpState != 3 || s.ptp.parent != some f.m.source
  let s := if other then s.masterChange else s
  let s := ((s.wr R.PTP_STAT_STATE 3).wr R.PTP_STAT_PORT f.port).showGm f.m
  if fresh then { s with ptp := { s.ptp with parent := some f.m.source, lastAnn := s.clk, lastSync := s.clk, wait := none } } else s

/-- The state the best master clock algorithm gives (R253, R256): slave of the best qualified master; master where the device may be and is
better; under the default profile passive where a device of clockClass 1 to 127 is not better; without any master, master or listening. -/
def State.bmca (s : State) (mayMaster : Bool) : State :=
  let own := s.ptpRole == 2
  match leastBy (fun f => annKey f.m ++ [f.port]) (s.ptp.foreign.filter s.qualified) with
  | some f =>
    let cls := s.outQ / 256
    if own && lexLt (annKey s.ownAnn) (annKey f.m) then s.toMaster
    else if own && s.force R.PTP_CFG_PROFILE == 1 && decide (1 ≤ cls) && decide (cls ≤ 127) then
      if s.ptpState == 5 then s else { (s.leaveGm.ptpUnlock.wr R.PTP_STAT_STATE 5) with ptp := { s.leaveGm.ptpUnlock.ptp with wait := none } }
    else s.toSlave f
  | none =>
    if own && mayMaster then s.toMaster
    else if s.ptpState == 3 then { (s.wr R.PTP_STAT_STATE 1) with ptp := { s.ptp with since := s.clk } } else s

/-- ANNOUNCE (R253, R259): one that carries the device's own identity, or more than 254 steps, takes no part in the choice. -/
def doAnnounce (port : Nat) (m : AnnounceMsg) (s : State) : State :=
  if s.heard port && s.enabled Pg.PTP && s.ptpRole != 0 && m.domain == s.force R.PTP_CFG_DOMAIN && s.transport m.udp && s.ptpState != 0 then
    let s := s.inc R.PTP_RX_ANN_COUNT
    if m.source / 65536 == s.clockId || m.path || decide (255 ≤ m.steps) then s
    else
      let prev := (s.ptp.foreign.find? fun f => f.m.source == m.source).map Foreign.last
      let l := ⟨m, port, s.clk, prev⟩ :: s.ptp.foreign.filter (fun f => f.m.source != m.source && s.qualified { f with prev := some f.last })
      let mine := s.ptpState == 3 && s.ptp.parent == some m.source
      let s := { s with ptp := { s.ptp with foreign := l, lastAnn := if mine then s.clk else s.ptp.lastAnn } }
      s.bmca false
  else s

/-- Whether the followed master is silent for too long (R259). -/
def State.masterSilent (s : State) : Bool :=
  decide (s.ptp.lastSync + s.rd R.PTP_INTV_SYNC_TMO * intvTicks (s.rd R.PTP_INTV_SYNC) ≤ s.clk)
    || decide (s.ptp.lastAnn + s.annTmo ≤ s.clk)

/-- MASTER_LOST (R259): the servo holds its rate. -/
def doMasterLost (s : State) : State :=
  if s.ptpState == 3 && s.masterSilent then
    let s := (((s.wrB R.PTP_STAT_HOLD true).ptpUnlock).inc R.PTP_SYNC_LOST_COUNT).raise Pg.PTP 11
    let s := { s with ptp := { s.ptp with wait := none, foreign := s.ptp.foreign.filter fun f => some f.m.source != s.ptp.parent } }
    s.bmca true
  else s

/-- The port of a chip that becomes slave-only stops being master (R256). -/
def State.ptpDemote (s : State) : State :=
  if s.ptpRole != 2 && decide (4 ≤ s.ptpState) then
    let s := s.leaveGm.wr R.PTP_STAT_STATE 1
    { s with ptp := { s.ptp with since := s.clk } }
  else s

/-! Delays received (R254, R257). -/

/-- DELAY_RESP (R257): an end-to-end exchange completes. -/
def doDelayResp (port : Nat) (m : DelayMsg) (s : State) : State :=
  match s.ptp.dly with
  | some q =>
    match q.sent with
    | some sent =>
      if s.heard port && s.enabled Pg.PTP && s.ptpState == 3 && !s.on R.PTP_TC_CFG_P2P && m.domain == s.force R.PTP_CFG_DOMAIN
          && s.transport m.udp && q.seq == m.seq && m.answers == s.ptpId 1 && some m.source == s.ptp.parent && s.rd R.PTP_STAT_PORT == port then
        let d := (4 * (s.ptp.diff + m.remote) - sent) / 8
        let s := { s with ptp := { s.ptp with dly := none, e2e := (d :: s.ptp.e2e).take 8 } }
        s.setW A.PTP_MPD (satWord (s.pathDelay port))
      else s
    | none => s
  | none => s

/-- Whether a peer delay message of a port answers its pending request: link delay measurement runs over Ethernet whatever the profile. -/
def State.answersPeer (s : State) (port : Nat) (m : DelayMsg) (q : DelayReq) : Bool :=
  s.heard port && s.on R.PTP_TC_CFG_P2P && !m.udp && q.seq == m.seq && m.answers == s.ptpId (port + 1)

/-- PDELAY_RESP (R254): t2 and t4 of a link delay measurement. -/
def doPdelayResp (port : Nat) (m : DelayMsg) (s : State) : State :=
  match tget noDly s.ptp.pdly port with
  | some q =>
    if s.answersPeer port m q then
      { s with ptp := { s.ptp with pdly := tset noDly s.ptp.pdly port (some { q with t2 := some m.remote, t4 := m.localTs }) } }
    else s
  | none => s

/-- PDELAY_RESP_FOLLOW_UP (R254): the measurement completes, and PTP_LINK_DLY shows the mean of the last 8. -/
def doPdelayRespFollowUp (port : Nat) (m : DelayMsg) (s : State) : State :=
  match tget noDly s.ptp.pdly port with
  | some q =>
    match q.sent, q.t2 with
    | some t1, some t2 =>
      if s.answersPeer port m q then
        let d := (4 * (q.t4 - (m.remote - t2)) - t1) / 8
        let l := (d :: tget noP2p s.ptp.p2p port).take 8
        let s := { s with ptp := { s.ptp with pdly := tset noDly s.ptp.pdly port none, p2p := tset noP2p s.ptp.p2p port l } }
        (s.wr (R.PTP_LINK_DLY_NS port) (max 0 (l.foldl (· + ·) (0 : Int) / (l.length : Int))).toNat).wrB (R.PTP_LINK_DLY_VALID port) true
      else s
    | _, _ => s
  | none => s

/-! Configuration and time of day (R256, R261). -/

/-- The port returns to LISTENING (or DISABLED where ROLE is none or the page is not enabled). -/
def State.ptpListen (s : State) : State :=
  let s := s.ptpUnlock
  let s := s.leaveGm
  let s := (s.wr R.PTP_STAT_STATE (b2n (s.enabled Pg.PTP && s.ptpRole != 0))).wrB R.PTP_STAT_HOLD false
  { s with ptp := { s.ptp with wait := none, foreign := [], parent := none, since := s.clk } }

/-- ROLE, PROFILE and DOMAIN of PTP_CFG copied into force. -/
def State.ptpTake (s : State) : State := { s with inForce := tset resetWord s.inForce A.PTP_CFG (s.getW A.PTP_CFG) }

/-- PTP_CFG written (R256): at once while the page is not enabled, else at the next block boundary. -/
def State.ptpCfgWritten (s : State) (old : Word) : State :=
  let key (w : Word) : Nat × Nat × Nat := (bitsN w.toNat 0 2, bitsN w.toNat 4 2, bitsN w.toNat 16 8)
  if key old = key (s.getW A.PTP_CFG) then s
  else if s.enabled Pg.PTP then { s with ptp := { s.ptp with cfgAt := some (s.block + 1) } }
  else s.ptpTake.ptpListen

/-- PTP_CONFIG_APPLY (R256). -/
def doPtpConfigApply (s : State) : State :=
  match s.ptp.cfgAt with
  | some b => if b ≤ s.block then ({ s with ptp := { s.ptp with cfgAt := none } }.ptpTake).ptpListen else s
  | none => s

/-- PTP CTRL.ENABLE written. -/
def State.ptpEnable (s : State) : State := s.ptpTake.ptpListen

/-- PTP_TOD_HI written (R261): refused outside COMMISSION or in the wrong role or state, else applied at the next boundary. -/
def State.todWrite (s : State) (path : Nat) (lo hi : Nat) : State :=
  if s.mode.cur != .commission then s.err Pg.PTP 0x094 0x05 path (BitVec.ofNat 32 hi)
  else if s.ptpRole != 2 || s.ptpState == 3 then s.err Pg.PTP 0x094 0x40 path (BitVec.ofNat 32 hi)
  else
    let s := (s.wr R.PTP_TOD_LO_S lo).wr R.PTP_TOD_HI_S hi
    { s with ptp := { s.ptp with tod := some (hi % 65536 * 2 ^ 32 + lo, s.block + 1) } }

/-- TOD_APPLY (R261): TL_OFS is set so that the boundary falls at PTP_TOD seconds. -/
def doTodApply (s : State) : State :=
  match s.ptp.tod with
  | some (sec, blk) =>
    if blk ≤ s.block then
      let b := s.tlOf (8 * blk)
      ({ s with ptp := { s.ptp with tod := none } }.setOfs (b - sec * 96000)).raise Pg.TL 11
    else s
  | none => s

/-! Reference selection (R265 to R275). -/

/-- The reference registers whose writes act at a block boundary, copied into force (R270). -/
def State.refTake (s : State) : State :=
  let l := [A.REF_CFG, A.REF_WTR, A.REF_LOCK, A.REF_SWT, A.REF_FWIN, A.REF_GUARD, A.REF_DPLL, A.REF_AESQ, A.REF_HOLDQ]
    ++ (List.range 8).map A.REF_CAND ++ (List.range 8).map A.REF_QUAL
  { s with inForce := l.foldl (fun m a => tset resetWord m a (s.getW a)) s.inForce }

/-- Whether the service in force is RUN. -/
def State.inRun (s : State) : Bool := s.ref.svc == 1

/-- The rank key of a candidate (R268). -/
def State.rank (s : State) (n : Nat) : List Nat := [s.candQ n, s.candPrio n, n]

/-- Eligible (R266). -/
def State.candElig (s : State) (n : Nat) : Bool :=
  let c := s.cand n
  s.candFit n && (!s.inRun || (!c.disq && c.wait.isNone && !c.later))

/-- A wait to restore begun (R267): none where REF_WTR.S is 0. -/
def State.waitFor (s : State) : Option Nat := if s.force R.REF_WTR_S = 0 then none else some (12000 * s.force R.REF_WTR_S)

/-- One candidate at a block boundary: fitness, its wait, R274's pending mark, eligibility with REF event 12. -/
def State.candStep (s : State) (n : Nat) : State :=
  let c := s.cand n
  let f := s.candFit n
  let above := s.ref.state == .acquiring && n != s.ref.act && lexLt (s.rank n) (s.rank s.ref.act)
  let c1 : CandSt :=
    if !f then { c with fit := false, wait := none, later := false }
    else if c.disq && s.inRun then { c with fit := true, wait := none, later := false }
    else if !c.fit && s.inRun then
      (if above then { c with fit := true, later := true } else { c with fit := true, wait := s.waitFor })
    else { c with fit := true, wait := c.wait.map (· - 1) }
  let s := s.setCand n c1
  let e := s.candElig n
  let fresh := f && !c.fit || e && !c.elig
  let s := if above && fresh then
      let better := match s.ref.pend with
        | some p => lexLt (s.rank n) (s.rank p)
        | none => true
      if better then { s with ref := { s.ref with pend := some n } } else s
    else s
  let s := s.setCand n { s.cand n with elig := e }
  if e != c.elig then s.raise Pg.REF 12 else s

/-- The temperature term in 2^-16 ppb (R280), θ in 1/256 °C; zero while TEMP_EN is 0. -/
def State.tempTerm (s : State) (theta : Int) : Int :=
  if s.on R.HOLD_CFG_TEMP_EN then
    let d := theta - signedN 16 (s.rd R.HOLD_T0_T0)
    let c (a : Nat) : Int := (s.getW a).toInt
    (c A.HOLD_TC1 * d * 65536 + c A.HOLD_TC2 * d * d * 256 + c A.HOLD_TC3 * d * d * d) / 2 ^ 24
  else 0

/-- The ageing term in 2^-16 ppb at a time in seconds since the origin of the model (R280); zero while AGE_EN is 0 or no fit exists. -/
def State.ageTerm (s : State) (t : Nat) : Int :=
  if s.on R.HOLD_CFG_AGE_EN && s.rd R.HOLD_AGE_H_H != 0 then
    let a : Int := (s.getW A.HOLD_AGE_A).toInt
    let b : Int := (s.getW A.HOLD_AGE_B).toInt
    let tau := max 1 (s.rd R.HOLD_AGE_TAU)
    a * t / 86400 + b * lnQ (3600 * tau + t) (3600 * tau) / 2 ^ 80
  else 0

/-- The means over the newest `n` seconds of a history (R279); where it holds none, u as it stands with the present terms. -/
def State.histMean (s : State) (l : List HistSec) (n : Nat) : HistMean :=
  let w := l.take n
  if w.isEmpty then ⟨s.ref.u, s.tempTerm s.ref.temp, s.ageTerm s.ref.ageSec⟩
  else
    let mean (f : HistSec → Int) : Int := (w.map f).foldl (· + ·) 0 / (w.length : Int)
    ⟨mean (·.u), mean fun h => s.tempTerm h.theta, mean fun h => s.ageTerm h.age⟩

/-- The DAC code for a control frequency in 2^-16 ppb (R251). -/
def State.setU (s : State) (u : Int) : State :=
  let gain := signedN 24 (s.rd R.HOLD_VCXO_GAIN)
  let want : Int := if gain = 0 then 0x8000 else if 0 < gain then 0x8000 + roundDiv (u * 1000) (65536 * gain)
    else 0x8000 + roundDiv (-u * 1000) (65536 * -gain)
  let code := (max 0 (min 65535 want)).toNat
  { s with ref := { s.ref with u := u, dac := code, rail := decide (want < 0) || decide (65535 < want) } }

/-- No candidate: holdover, or free running before the first lock (R275). -/
def State.enterHold (s : State) : State :=
  if s.ref.state == .holdover then s
  else if !s.ref.everLocked then { s with ref := { s.ref with state := .freeRun, again := false, pend := none } }
  else
    let drift := s.ref.guarded.isSome
    let base := s.ref.guarded.getD (s.histMean s.ref.hist (s.rd R.HOLD_CFG_HIST))
    let s := { s with ref := { s.ref with
      state := .holdover, again := false, pend := none, drift := drift, guarded := none, base := some base, elapsed := 0,
      specDone := false, holdAt := s.clk } }
    let s := s.setU base.u
    ((s.inc R.REF_HOLD_CNT_COUNT).raise Pg.REF 10).raise Pg.HOLD 8

/-- SWITCH_START (R271): a switch to a candidate begins, from the control frequency as it stands; leaving holdover sets HOLD event 9. -/
def State.switchStart (s : State) (n : Nat) : State :=
  let s := if s.ref.state == .holdover then s.raise Pg.HOLD 9 else s
  let s := match s.ref.guarded with
    | some h => s.setU h.u
    | none => s
  let s := { s with ref := { s.ref with
    state := .acquiring, act := n, swAt := s.block, loop := { loop0 with inSince := s.block, uBase := s.ref.u }, again := false, pend := none, drift := false, guarded := none, elapsed := 0 } }
  (s.inc R.REF_SWITCH_COUNT).raise Pg.REF 8

/-- The first-ranked eligible candidate (R268), or the forced one in TEST (R269). -/
def State.chosen (s : State) : Option Nat :=
  if s.ref.svc == 2 && s.on R.REF_FORCE_EN then
    (if s.candPresent (s.rd R.REF_FORCE_CAND) then some (s.rd R.REF_FORCE_CAND) else none)
  else leastBy s.rank ((List.range 8).filter s.candElig)

/-- What the selector does with its choice. -/
def State.choose (s : State) : State :=
  let forced := s.ref.svc == 2 && s.on R.REF_FORCE_EN
  let actOk := if forced then s.chosen == some s.ref.act else s.candElig s.ref.act
  match s.ref.state, s.chosen with
  | .freeRun, some n => s.switchStart n
  | .freeRun, none => s.enterHold
  | .holdover, some n => s.switchStart n
  | .holdover, none => s
  | .acquiring, some n => if actOk && !s.ref.again then s else s.switchStart n
  | .acquiring, none => s.enterHold
  | .locked, none => s.enterHold
  | .locked, some n =>
    let moves := !actOk || (n != s.ref.act && lexLt (s.rank n) (s.rank s.ref.act)
      && (s.on R.REF_CFG_REVERT || (s.ref.pend.isSome && !s.inRun)))
    if moves then s.switchStart n else { s with ref := { s.ref with pend := none } }

/-- A chip that takes the leader's selection locks its own loop to candidate 7 (R287). -/
def State.follow7 (s : State) : State :=
  if s.twinTimed && !(s.ref.act == 7 && (s.ref.state == .acquiring || s.ref.state == .locked)) then s.switchStart 7 else s

/-- REF_SELECT (R268) at a block boundary: settings come into force, candidates are judged, and the selector chooses unless the leader's
choice stands (R287). True where PTP has just become the selected reference. -/
def State.refSelect (s : State) : State × Bool :=
  let s := s.refTake
  let s := (List.range 8).foldl State.candStep s
  if s.ref.leader then (s.follow7, false)
  else
    let t := s.choose
    (t, t.ref.act == 0 && t.ref.state == .acquiring && !(s.ref.act == 0 && (s.ref.state == .acquiring || s.ref.state == .locked)))

/-- CAND_CHANGE (R262): a candidate's input appears or goes. -/
def doCandChange (n : Nat) (present : Bool) (s : State) : State :=
  let c := s.cand n
  s.setCand n { c with input := present, avgs := if present then c.avgs else [], fastRun := if present then c.fastRun else 0 }

/-- SERVICE_CHANGE (R265): a written service takes effect at its boundary. -/
def doServiceChange (s : State) : State :=
  match s.ref.svcAt with
  | none => s
  | some b =>
    if b ≤ s.block then
      let new := s.rd R.REF_CFG_SVC
      let old := s.ref.svc
      let s := { s with ref := { s.ref with svc := new, svcAt := none } }
      let s := if old == 1 && new != 1 then
          (List.range 8).foldl (fun s n => s.setCand n { s.cand n with wait := none, later := false, disq := false, fastRun := 0, okRun := 0 }) s
        else s
      if old == 2 && new != 2 then s.wrB R.REF_FORCE_EN false else s
    else s

/-! The clean-up DPLL (R271, R285). -/

/-- The phase of a candidate against the media clock in 2^-16 ns: of the PTP clock against the sample grid of R56, of a buffer-level loop its ring
level (R194), of any other what its edges show, a free value. -/
def State.refPhase (s : State) (n : Nat) : Int × State :=
  if n = 0 then (s.ptpNow - ((s.tl : Int) - s.tlOfs) * 125000 * 65536 / 12, s)
  else if 2 ≤ n ∧ n ≤ 5 ∧ s.candLoop n then
    let g := s.candGrp n
    ((s.grp g).level * 256 * 1000000000 / ((gcfg s.active g).hz : Int), s)
  else (Config.freeInt s.freeCtr, s.tick1)

/-- One comparison of the loop: the built-out part of candidates 0 and 7 is removed at the slope PSL; the proportional pull is limited to it; the
integral follows from a damping factor of 1 (log entry 48). `k` is the blocks that the comparison stands for. -/
def State.compare (s : State) (k : Nat) : State :=
  let r := s.refPhase s.ref.act
  let x := r.1
  let s := r.2
  let l := s.ref.loop
  let slope : Int := s.force R.REF_DPLL_PSL * 65536
  let abs := s.ref.act == 0 || s.ref.act == 7
  let zero := match l.zero with
    | none => x
    | some z => if abs then (if 0 ≤ z then max 0 (z - slope / 12000) else min 0 (z + slope / 12000)) else z
  let e := x - zero
  let err := if abs then x else e
  let integ := l.integ + e * k
  let kp : Int := Config.loopGain (s.force R.REF_DPLL_BW)
  let p := max (-slope) (min slope (kp * e / 65536))
  let within := decide (err.natAbs ≤ s.force R.REF_LOCK_NS * 65536)
  let l := { l with zero := some zero, err := err, integ := integ, inSince := if within then l.inSince else s.block + 1 }
  ({ s with ref := { s.ref with loop := l } }).setU (l.uBase + p + kp * kp * integ / (4 * 2 ^ 32 * 12000))

/-- The loop at a block boundary: GNSS is compared once per second, every other candidate at every boundary; and u enters the second's mean. -/
def State.refLoop (s : State) : State :=
  let on := s.ref.state == .acquiring || s.ref.state == .locked
  let s := if !on then s
    else if s.ref.act = 6 then (if (s.block - s.ref.swAt) % 12000 = 0 then s.compare 12000 else s)
    else s.compare 1
  { s with ref := { s.ref with uSum := s.ref.uSum + s.ref.u, uN := s.ref.uN + 1, secOk := s.ref.secOk && s.ref.state == .locked } }

/-- SWITCH_DONE (R272, R274): the error has stayed within the window for REF_LOCK.MS. -/
def doSwitchDone (s : State) : State :=
  if s.ref.state == .acquiring && !s.ref.again && s.ref.loop.zero.isSome && decide (s.ref.loop.inSince + 12 * s.force R.REF_LOCK_MS ≤ s.block) then
    let s := { s with ref := { s.ref with state := .locked, everLocked := true, pend := if s.inRun then none else s.ref.pend } }
    let s := (List.range 8).foldl (fun s n =>
      let c := s.cand n
      if c.later then s.setCand n { c with later := false, wait := s.waitFor } else s) s
    s.raise Pg.REF 9
  else s

/-- SWITCH_FAIL (R272): REF_SWT.S seconds have passed. -/
def doSwitchFail (s : State) : State :=
  if s.ref.state == .acquiring && !s.ref.again && decide (s.ref.swAt + 12000 * s.force R.REF_SWT_S ≤ s.block) then
    let n := s.ref.act
    let s := (s.raise Pg.REF 14).err Pg.REF 0x070 0x40 0 (BitVec.ofNat 32 n)
    let s := if s.inRun then s.setCand n { s.cand n with wait := s.waitFor } else s
    { s with ref := { s.ref with again := true } }
  else s

/-- WTR_END (R267): a wait has run out. -/
def doWtrEnd (n : Nat) (s : State) : State :=
  let c := s.cand n
  if c.wait == some 0 then s.setCand n { c with wait := none } else s

/-! Frequency monitor and holdover (R276 to R284). -/

/-- θ in 1/256 °C from a thermistor code (R281), none where the formula has no value. -/
def thermTheta (b ratio adc : Nat) : Option Int :=
  if adc = 0 ∨ 4095 ≤ adc ∨ b = 0 ∨ ratio = 0 then none
  else
    let l := lnQ (ratio * adc) (4096 * (4095 - adc))
    let bq : Int := b * 2 ^ 80
    let den := 100 * bq + 29815 * l
    if den ≤ 0 then none else some (roundDiv (29815 * bq * 256 * 100 - 27315 * 256 * den) (100 * den))

/-- θ taken (R281): the on-die sensor's, or the thermistor's on its rail-sense input; the spec gives none at the ends of its range. -/
def State.takeTemp (s : State) (sensor : Int) : State :=
  if s.rd R.HOLD_CFG_TSRC = 0 then { s with ref := { s.ref with temp := sensor } }
  else match thermTheta (s.rd R.HOLD_THERM_B) (s.rd R.HOLD_THERM_RATIO) (tget zeroNat s.rails (s.rd R.HOLD_CFG_SENSE)) with
    | some t => { s with ref := { s.ref with temp := t } }
    | none => { s.tick1 with ref := { s.ref with temp := Config.freeInt s.freeCtr } }

/-- Ten times the sum of averages that R276's rate is made of: the last ten less the ten before, where both are held. -/
def rate100 (l : List Int) : Option Int :=
  if 20 ≤ l.length then some ((l.take 10).foldl (· + ·) 0 - ((l.drop 10).take 10).foldl (· + ·) 0) else none

/-- The guarded history of a disqualification in the present second (R278): it ends REF_GUARD.S seconds before. -/
def State.guardedMean (s : State) : HistMean :=
  s.histMean (s.ref.hist.filter fun h => decide (h.sec + s.force R.REF_GUARD_S ≤ s.ref.secNo)) (s.rd R.HOLD_CFG_HIST)

/-- One candidate's second of the frequency monitor (R276, R277); averages in 1/16 ppb. An absent one breaks its runs of seconds. -/
def State.monitor (s : State) (n : Nat) (avg : Int) : State :=
  let c := s.cand n
  if !s.candPresent n then s.setCand n { c with avgs := [], fastRun := 0, okRun := 0 }
  else
    let l := (avg :: c.avgs).take 20
    let s := s.setW (A.REF_CFREQ n) (satWord avg)
    let inside := decide (avg.natAbs ≤ 160 * s.force R.REF_FWIN_PPM)
    let fast := match rate100 l with
      | some r => decide (1600 * s.force R.REF_FWIN_RATE < r.natAbs)
      | none => false
    let fastRun := if fast then c.fastRun + 1 else 0
    let bad := !inside || decide (3 ≤ fastRun)
    let c := { c with avgs := l, fastRun := fastRun }
    if c.disq then
      let run := if inside && !fast then c.okRun + 1 else 0
      if 10 ≤ run then s.setCand n { c with disq := false, okRun := 0, wait := if s.inRun && c.fit then s.waitFor else none }
      else s.setCand n { c with okRun := run }
    else if bad then
      let s := s.raise Pg.REF 11
      if s.inRun then
        let s := (s.setCand n { c with disq := true, okRun := 0, wait := none, later := false }).inc R.REF_DISQ_COUNT
        if n = s.ref.act && (s.ref.state == .locked || s.ref.state == .acquiring) && !s.ref.leader then
          { s with ref := { s.ref with guarded := some s.guardedMean } }
        else s
      else s.setCand n c
    else s.setCand n c

/-- The second that ends enters the history where STATE was LOCKED all through it (R279), and the hour's mean of u + T(θ) in RUN (R282). -/
def State.keepSecond (s : State) : State :=
  let r := s.ref
  let ok := r.secOk && r.state == .locked && r.uN != 0
  let u := r.uSum / (r.uN : Int)
  let learn := ok && s.inRun && s.on R.HOLD_CFG_AGE_EN
  { s with ref := { r with
      uSum := 0, uN := 0, secOk := r.state == .locked
      hist := if ok then (⟨r.secNo, u, r.temp, r.ageSec⟩ :: r.hist).take 4096 else r.hist
      hourSum := if learn then r.hourSum + u + s.tempTerm r.temp else r.hourSum
      hourN := if learn then r.hourN + 1 else r.hourN } }

/-- FREQ_MEASURE (R276, R279): once a second, with each candidate's average and the mean temperature of the sensor over that second. -/
def doFreqMeasure (averages : List Int) (temperature : Int) (s : State) : State :=
  if s.ref.measAt + 12288000 ≤ s.clk && s.mode.cur.counts then
    let s := s.takeTemp temperature
    let s := { s with ref := { s.ref with measAt := s.clk, ageSec := s.ref.ageSec + 1, secNo := s.ref.secNo + 1 } }
    (List.range 8).foldl (fun s n => s.monitor n (nth 0 averages n)) s.keepSecond
  else s

/-- HOLDOVER_UPDATE (R280): once a second in holdover the control frequency is computed anew. -/
def doHoldoverUpdate (temperature : Int) (s : State) : State :=
  if s.ref.state == .holdover && decide (s.ref.holdAt + 12288000 ≤ s.clk) then
    let s := s.takeTemp temperature
    let s := { s with ref := { s.ref with elapsed := s.ref.elapsed + 1, holdAt := s.clk } }
    match s.ref.base with
    | some h => s.setU (h.u + h.t - s.tempTerm s.ref.temp + h.a - s.ageTerm s.ref.ageSec)
    | none => s
  else s

/-- A determinant of three rows. -/
def det3 (a b c d e f g h i : Int) : Int := a * (e * i - f * h) - b * (d * i - f * g) + c * (d * h - e * g)

/-- The ageing model fitted to hourly means by least squares (R282): the A and B, in 2^-16 ppb, and a constant for which the means lie nearest to the
constant − A × t_d − B × ln(1 + t_h / TAU), which is what R280 makes of u + T(θ) (log entry 49); none where the means fix no such values. -/
def fitAge (tau : Nat) (l : List (Nat × Int)) : Option (Int × Int) :=
  let p := l.map fun x => ((x.1 : Int), lnQ (3600 * tau + x.1) (3600 * tau) / 2 ^ 56, x.2)
  let sum (f : Int → Int → Int → Int) : Int := (p.map fun x => f x.1 x.2.1 x.2.2).foldl (· + ·) 0
  let n : Int := l.length
  let x := sum fun x _ _ => x
  let z := sum fun _ z _ => z
  let xx := sum fun x _ _ => x * x
  let xz := sum fun x z _ => x * z
  let zz := sum fun _ z _ => z * z
  let y := sum fun _ _ y => y
  let xy := sum fun x _ y => x * y
  let zy := sum fun _ z y => z * y
  let d := det3 n x z x xx xz z xz zz
  if d ≤ 0 then none
  else some (roundDiv (-86400 * det3 n y z x xy xz z zy zz) d, roundDiv (-(2 ^ 24) * det3 n x y x xx xy z xz zy) d)

/-- The hour that ends enters the learned data; a model that the host restored stands for its hours by its curve, laid through this one. -/
def State.keepHour (s : State) : State :=
  let r := s.ref
  let h := s.rd R.HOLD_AGE_H_H
  if r.hourN = 0 then { s with ref := { r with ageAt := s.clk } }
  else
    let t := r.ageSec - 1800
    let m := r.hourSum / (r.hourN : Int)
    let old := if r.hours.isEmpty then
        ((List.range h).map fun k => (3600 * k + 1800, m + s.ageTerm t - s.ageTerm (3600 * k + 1800))).reverse
      else r.hours
    { (s.wr R.HOLD_AGE_H_H (min 65535 (h + 1))) with ref := { r with ageAt := s.clk, hourSum := 0, hourN := 0, hours := (t, m) :: old } }

/-- AGE_UPD (R282): an hour of learning ends; once MINH hours are held, the model is fitted. -/
def doAgeUpd (s : State) : State :=
  if s.on R.HOLD_CFG_AGE_EN && decide (s.ref.ageAt + 3600 * 12288000 ≤ s.clk) then
    let s := s.keepHour
    if s.rd R.HOLD_AGE_MINH ≤ s.rd R.HOLD_AGE_H_H then
      let k := s.freeCtr
      let s := match fitAge (max 1 (s.rd R.HOLD_AGE_TAU)) s.ref.hours with
        | some x => (s.setW A.HOLD_AGE_A (satWord x.1)).setW A.HOLD_AGE_B (satWord x.2)
        | none => ({ s with freeCtr := k + 2 }.setW A.HOLD_AGE_A (Config.freeWord k)).setW A.HOLD_AGE_B (Config.freeWord (k + 1))
      s.raise Pg.HOLD 11
    else s
  else s

/-- SPEC_END (R284): holdover passes HOLD_SPEC.S. -/
def doSpecEnd (s : State) : State :=
  if s.ref.state == .holdover && !s.ref.specDone && decide (s.rd R.HOLD_SPEC_S < s.ref.elapsed) then
    { s with ref := { s.ref with specDone := true } }.raise Pg.HOLD 10
  else s

/-- Entering DARK (R288): waits cancelled, history cleared, the DAC held, the service unchanged; no candidate is present on the wake: the ordinary clock
has lost its master, and the twin's timing is gone. -/
def State.refDark (s : State) : State :=
  let s := s.ptpListen
  let s := (List.range 8).foldl (fun s n =>
    s.setCand n { s.cand n with wait := none, later := false, input := false, fit := false, elig := false, avgs := [], fastRun := 0, okRun := 0 }) s
  { s with ref := { s.ref with hist := [], state := .freeRun, pend := none, again := false, guarded := none, timing := false, heard7 := false,
                               secOk := false } }

end Sys2Proof.Machine
end

