-- ==== Sys2Proof/Machine/MuleCore.lean ====
section
/-! DEFINITION. Chapter 13, mules: allocation, instruction words, stops, starts, flags and fences. Executing an instruction that moves data is in
Mules.lean, beside the fabric. -/

namespace Sys2Proof.Machine

/-- The page of a mule, and its slot there (R352). -/
def mulPage (m : Nat) : Nat := Pg.MUL (m / 8)

/-- Mules 88 to 95 take host programs (Table 13.1). -/
def isHostMule (m : Nat) : Bool := decide (88 ≤ m)

/-- MUL_PROG. -/
def State.mulProg (s : State) (m : Nat) : Nat := s.rd (R.MUL_PROG_ADDR (m / 8) (m % 8))

/-- An address in shared memory. -/
def inShm (a : Nat) : Bool := decide (0x10000000 ≤ a) && decide (a < 0x16000000)

/-! Instructions (Tables 13.2 to 13.5). -/

/-- A decoded instruction. -/
inductive MuleOp where
  | move (mode pack : Nat) (scur scn dcur dcn sl0 sl1 dl0 dl1 : Bool) (src dst len : Nat)
  | loop (inner : Bool) (body count : Nat) (ss ds : Int)
  | waitBlock (tick : Nat)
  | waitTl (t : Nat)
  | waitFlag (flag : Nat)
  | signalFlag (flag : Nat)
  | signalEvent (v : Word)
  | signalRelease (v : Word)
  | jump (target : Nat)
  | fin
  deriving DecidableEq, Repr

/-- A MOVE's words (Tables 13.3 and 13.4). -/
def decodeMove (w0 w1 w2 w3 : Nat) : Option MuleOp :=
  let mode := bitsN w0 4 3
  let pack := bitsN w0 8 2
  let f (i : Nat) : Bool := bitN w0 i == 1
  let undefZero := bitN w0 7 == 0 && bitsN w0 10 2 == 0 && bitsN w0 20 12 == 0 && bitsN w3 24 8 == 0
  let lenOk :=
    if mode = 0 then bitsN w3 0 24 != 0
    else if mode = 3 then bitsN w3 0 24 != 0 && decide (bitsN w3 0 24 ≤ 524287)
    else bitsN w3 0 8 != 0 && bitsN w3 8 16 != 0
  let curOk := !(f 12 && w1 != 0) && !(f 14 && w2 != 0) && !(f 12 && f 14 && f 13 == f 15)
    && !(f 12 && (f 16 || f 17)) && !(f 14 && (f 18 || f 19))
  if undefZero && decide (mode < 4) && decide (pack < 3) && (pack == 0 || mode == 0) && lenOk && curOk then
    some (.move mode pack (f 12) (f 13) (f 14) (f 15) (f 16) (f 17) (f 18) (f 19) w1 w2 (bitsN w3 0 24))
  else none

/-- An instruction's words (Tables 13.2 and 13.5): none where the encoding itself is illegal (R355). -/
def decodeMule (w0 w1 w2 w3 : Nat) : Option MuleOp :=
  let rest0 := w1 == 0 && w2 == 0 && w3 == 0
  match w0 % 16 with
  | 1 => decodeMove w0 w1 w2 w3
  | 2 =>
    if bitsN w0 5 11 = 0 && bitsN w0 28 4 = 0 && bitsN w0 16 12 != 0 then
      some (.loop (bitN w0 4 == 1) (bitsN w0 16 12) w1 (signedN 32 w2) (signedN 32 w3))
    else none
  | 3 =>
    if bitsN w0 6 2 != 0 || bitsN w0 14 18 != 0 then none
    else match bitsN w0 4 2 with
      | 0 => if bitsN w0 8 6 = 0 && w1 < 1024 && w2 = 0 && w3 = 0 then some (.waitBlock w1) else none
      | 1 => if bitsN w0 8 6 = 0 && w3 = 0 then some (.waitTl (w1 + w2 * 2 ^ 32)) else none
      | 2 => if rest0 then some (.waitFlag (bitsN w0 8 6)) else none
      | _ => none
  | 4 =>
    if bitsN w0 6 2 != 0 || bitsN w0 14 18 != 0 || w2 != 0 || w3 != 0 then none
    else match bitsN w0 4 2 with
      | 0 => if w1 = 0 then some (.signalFlag (bitsN w0 8 6)) else none
      | 1 => if bitsN w0 8 6 = 0 then some (.signalEvent (BitVec.ofNat 32 w1)) else none
      | 2 => if bitsN w0 8 6 = 0 then some (.signalRelease (BitVec.ofNat 32 w1)) else none
      | _ => none
  | 5 => if w0 = 5 && w2 = 0 && w3 = 0 && w1 % 16 = 0 && inShm w1 then some (.jump w1) else none
  | 6 => if w0 = 6 && rest0 then some .fin else none
  | _ => none

/-- The instruction at an address of shared memory. -/
def State.muleAt (s : State) (pc : Nat) : Option MuleOp :=
  if inShm pc && inShm (pc + 15) then
    let w (i : Nat) : Nat := mNat zeroByte s.shm (pc - 0x10000000 + 4 * i) 4
    decodeMule (w 0) (w 1) (w 2) (w 3)
  else none

/-- A cursor: BASE, SIZE in bytes, OFS. -/
def State.cursor (s : State) (m : Nat) (one : Bool) : Nat × Nat × Nat :=
  let p := m / 8
  let k := m % 8
  if one then (s.rd (R.MUL_CUR1_BASE_BASE p k), 2 ^ s.rd (R.MUL_CUR1_CFG_SIZE p k), s.rd (R.MUL_CUR1_OFS_OFS p k))
  else (s.rd (R.MUL_CUR0_BASE_BASE p k), 2 ^ s.rd (R.MUL_CUR0_CFG_SIZE p k), s.rd (R.MUL_CUR0_OFS_OFS p k))

/-- The offset of a running loop level on a side. -/
def loopOfs (l : Option MuleLoop) (dst : Bool) : Int :=
  match l with
  | some x => (x.idx : Int) * (if dst then x.ds else x.ss)
  | none => 0

/-- One side of a MOVE: first address, and the byte address at an offset from it; through a cursor both wrap (R357, R359). -/
structure Side where
  base : Nat
  ofs : Nat
  size : Option Nat
  deriving DecidableEq, Repr

/-- The fabric address of a side at an offset. -/
def Side.at (x : Side) (o : Nat) : Nat :=
  match x.size with
  | some n => x.base + (x.ofs + o) % n
  | none => (x.base + o) % 2 ^ 32

/-- A side of a MOVE of mule `m`. -/
def State.side (s : State) (m : Nat) (cur cn l0 l1 : Bool) (addr : Nat) (dst : Bool) : Side :=
  let v := s.mule m
  if cur then
    let c := s.cursor m cn
    ⟨c.1, c.2.2, some c.2.1⟩
  else
    let a : Int := addr + (if l0 then loopOfs v.l0 dst else 0) + (if l1 then loopOfs v.l1 dst else 0)
    ⟨unsignedN 32 a, 0, none⟩

/-- Whether an instruction that decodes is legal where it stands (R355, R357, R359, R361). -/
def State.muleOk (s : State) (m : Nat) (op : MuleOp) : Bool :=
  let v := s.mule m
  match op with
  | .move _ pack scur scn dcur dcn sl0 sl1 dl0 dl1 src dst _ =>
    let a := s.side m scur scn sl0 sl1 src false
    let b := s.side m dcur dcn dl0 dl1 dst true
    !((sl0 || dl0) && v.l0.isNone) && !((sl1 || dl1) && v.l1.isNone)
      && (pack == 2 || (a.base + a.ofs) % 4 == 0) && (pack == 1 || (b.base + b.ofs) % 4 == 0)
  | .loop inner body _ _ _ =>
    let past := v.pc + 16 * (body + 1)
    if inner then v.l1.isNone && (match v.l0 with | some x => decide (past ≤ x.past) | none => false)
    else v.l0.isNone
  | .waitFlag f => !isHostMule m || decide (32 ≤ f)
  | .signalFlag f => !isHostMule m || decide (32 ≤ f)
  | .signalRelease _ => !isHostMule m
  | _ => true

/-- The legal instruction that a mule stands at. -/
def State.muleOp (s : State) (m : Nat) : Option MuleOp :=
  match s.muleAt (s.mule m).pc with
  | some op => if s.muleOk m op then some op else none
  | none => none

/-- WAIT and END, at which a fenced mule holds and the instruction count starts afresh (R363, R366). -/
def MuleOp.holds : MuleOp → Bool
  | .waitBlock _ => true | .waitTl _ => true | .waitFlag _ => true | .fin => true
  | _ => false

/-- The instruction that a mule in RUN executes next: not where it is illegal or the count has reached MUL_BUDGET.N (R363). -/
def State.muleNext (s : State) (m : Nat) : Option MuleOp :=
  let v := s.mule m
  match v.st, s.muleOp m with
  | .run, some op => if op.holds || decide (v.steps < s.rd (R.MUL_BUDGET_N (m / 8))) then some op else none
  | _, _ => none

/-- The loop level that ends at an address, after a pass (R359). -/
def MuleSt.endOuter (v : MuleSt) : MuleSt :=
  match v.l0 with
  | some x => if v.pc = x.past then (if x.idx + 1 < x.count then { v with pc := x.first, l0 := some { x with idx := x.idx + 1 } } else { v with l0 := none }) else v
  | none => v

/-- A mule that goes on at an address; loop bodies that end there run their next pass or are left. -/
def MuleSt.goto (v : MuleSt) (pc : Nat) : MuleSt :=
  let v := { v with pc := pc }
  match v.l1 with
  | some x =>
    if pc = x.past then
      if x.idx + 1 < x.count then { v with pc := x.first, l1 := some { x with idx := x.idx + 1 } }
      else MuleSt.endOuter { v with l1 := none }
    else v.endOuter
  | none => v.endOuter

/-- An instruction completed: counted, and on to the next. -/
def MuleSt.advance (v : MuleSt) : MuleSt := { v with steps := v.steps + 1 }.goto (v.pc + 16)

/-! Stops and starts (R364, R365, R367). -/

/-- A stop (R365): recorded; a device-owned mule is restarted at the next block boundary, a bound mule's run withdrawn as late. -/
def State.muleStop (s : State) (m cause : Nat) (served : Option JobRef) : State :=
  let v := s.mule m
  let s := s.setMule m { v with st := .stopped, err := cause, l0 := none, l1 := none, used := [],
                                restart := if isHostMule m then none else some (s.block + 1) }
  let s := (s.inc (R.MUL_STOPS_COUNT (m / 8))).raise (mulPage m) 9
  let s := s.err (mulPage m) (0x108 + 64 * (m % 8)) 0x41 0 (BitVec.ofNat 32 (m + cause * 256))
  if m < 64 then (match served with | some r => s.giveUp (jobKey r.old r.j) | none => s) else s

/-- A mule running from MUL_PROG; its cursors stand (R367). -/
def State.muleRun (s : State) (m : Nat) : State :=
  s.setMule m { s.mule m with st := .run, pc := s.mulProg m, cnt := 0, l0 := none, l1 := none, steps := 0, used := [], restart := none }

/-- A device-owned mule started by the device (R352, R365): where no program that can run stands at MUL_PROG, it waits. -/
def State.muleDevStart (s : State) (m : Nat) : State :=
  let s := s.muleRun m
  match s.muleOp m with
  | some _ => s
  | none => s.setMule m { s.mule m with st := .wait, waitBlk := s.block }

/-- The modes in which a host mule may be started (R367). -/
def Mode.hostMule : Mode → Bool
  | .commission => true | .standalone => true | .leader => true | .orphan => true | .quiesce => true
  | _ => false

/-- A write of MUL_CTRL (R367). -/
def State.mulCtrl (s : State) (m path : Nat) (value : Word) : State :=
  let off := 0x100 + 64 * (m % 8)
  let v := s.mule m
  let s :=
    if bitN value.toNat 0 = 1 then
      if !isHostMule m || v.busy || v.st == .off then s.err (mulPage m) off 0x40 path value
      else if !(s.modeFor path).hostMule then s.err (mulPage m) off 0x05 path value
      else if !s.enabled (mulPage m) then s.err (mulPage m) off 0x40 path value
      else s.muleRun m
    else s
  if bitN value.toNat 1 = 1 && isHostMule m && (s.mule m).busy then s.muleStop m 6 none else s

/-- A flag of the 64 (R361). -/
def State.flag (s : State) (i : Nat) : Bool := s.fab.flags.contains i

/-- A flag set; one that is set stays set. -/
def State.setFlag (s : State) (i : Nat) : State :=
  if s.flag i then s else { s with fab := { s.fab with flags := i :: s.fab.flags } }

/-- A flag cleared. -/
def State.clrFlag (s : State) (i : Nat) : State := { s with fab := { s.fab with flags := s.fab.flags.filter (· != i) } }

/-- A write of MUL_HFLAG_SET. -/
def State.hflagSet (s : State) (value : Nat) : State :=
  (List.range 32).foldl (fun s i => if bitN value i = 1 then s.setFlag (32 + i) else s) s

/-- A write of MUL_HFLAG_CLR; a flag signalled in the same cycle stays set. -/
def State.hflagClr (s : State) (value signalled : Nat) : State :=
  (List.range 32).foldl (fun s i => if bitN signalled i = 1 then s.setFlag (32 + i) else if bitN value i = 1 then s.clrFlag (32 + i) else s) s

/-- A write of a MUL page's CTRL.ENABLE in COMMISSION: 0 stops every mule of the page with cause HOST_STOP and holds it IDLE, 1 restarts the
device-owned ones at the next block boundary. -/
def State.mulEnable (s : State) (p : Nat) (on : Bool) : State :=
  (List.range 8).foldl (fun s i =>
    let m := 8 * p + i
    if on then (if isHostMule m then s else s.setMule m { s.mule m with restart := some (s.block + 1) })
    else
      let s := if (s.mule m).busy then s.muleStop m 6 none else s
      s.setMule m { s.mule m with st := .idle, restart := none }) s

/-! Fences (R366). -/

/-- The audio domain's number among the fences. -/
def audioDom : Nat := 16

/-- Whether a mule uses a domain: it lies there, or it has accessed an address there; an idle, stopped, done or unpowered mule uses none. -/
def State.uses (s : State) (m dom : Nat) : Bool :=
  (s.mule m).busy && ((dom < 16 && m / 4 == dom) || (dom == audioDom && decide (64 ≤ m) && decide (m < 88)) || (s.mule m).used.contains dom)

/-- Whether a mule is inside a domain. -/
def inDomain (m dom : Nat) : Bool := (dom < 16 && m / 4 == dom) || (dom == audioDom && decide (64 ≤ m) && decide (m < 88))

/-- Whether a mule is fenced. -/
def State.isFenced (s : State) (m : Nat) : Bool := s.fab.fences.any fun f => s.uses m f.dom

/-- A fence begins: every mule that uses the domain and is at a WAIT holds at once. -/
def State.fence (s : State) (dom : Nat) : State :=
  let s := { s with fab := { s.fab with fences := s.fab.fences ++ [⟨dom, s.clk⟩] } }
  (List.range 96).foldl (fun s m => if s.uses m dom && (s.mule m).st == .wait then s.setMule m { s.mule m with st := .fenced } else s) s

/-- Mules that no fence holds any more carry on from their WAIT or END. -/
def State.unfence (s : State) (dom : Nat) : State :=
  let s := { s with fab := { s.fab with fences := s.fab.fences.filter fun f => f.dom != dom } }
  (List.range 96).foldl (fun s m =>
    let v := s.mule m
    if v.st == .fenced && !s.isFenced m then
      s.setMule m { v with used := [], st := match s.muleAt v.pc with | some .fin => .run | _ => .wait }
    else s) s

/-- ENABLE = 1 of a flock: it powers up, and a fence under way for its gating ends (R103). -/
def State.ungateFlock (s : State) (f : Nat) : State :=
  let fenced := (s.flock f).fencing
  let t := ungate f s
  if fenced then t.unfence f else t

/-- Whether every mule fenced for a domain holds. -/
def State.fenceHeld (s : State) (dom : Nat) : Bool :=
  (List.range 96).all fun m => !s.uses m dom || (s.mule m).st == .fenced

/-- The mules inside a domain that powers down go to OFF with cause POWER; the others are released. -/
def State.cutMules (s : State) (dom : Nat) : State :=
  let s := (List.range 96).foldl (fun s m =>
    if inDomain m dom then
      let v := s.mule m
      s.setMule m { v with st := .off, err := if v.busy then 7 else v.err, l0 := none, l1 := none, used := [], restart := none }
    else s) s
  s.unfence dom

/-- A refused fence (R366): every mule released; the page of the first mule not held records it. -/
def State.refuseFence (s : State) (dom : Nat) : State :=
  let s := match (List.range 96).find? fun m => s.uses m dom && (s.mule m).st != .fenced with
    | some m => (s.raise (mulPage m) 11).err (mulPage m) (0x108 + 64 * (m % 8)) 0x42 0 (BitVec.ofNat 32 m)
    | none => s
  s.unfence dom

end Sys2Proof.Machine
end

