-- ==== Sys2Proof/Machine/Crypto.lean ====
section
/-! DEFINITION. The published functions the device computes over byte strings: SHA-256 (FIPS 180-4), HMAC-SHA-256
(FIPS 198-1), ECDSA verification over P-256 (FIPS 186-5), and the cyclic redundancy checks. -/

namespace Sys2Proof.Machine

/-! SHA-256. -/

/-- The round constants of SHA-256: fraction bits of the cube roots of the first 64 primes. -/
def shaK : List Nat :=
  [0x428a2f98, 0x71374491, 0xb5c0fbcf, 0xe9b5dba5, 0x3956c25b, 0x59f111f1, 0x923f82a4, 0xab1c5ed5] ++
  [0xd807aa98, 0x12835b01, 0x243185be, 0x550c7dc3, 0x72be5d74, 0x80deb1fe, 0x9bdc06a7, 0xc19bf174] ++
  [0xe49b69c1, 0xefbe4786, 0x0fc19dc6, 0x240ca1cc, 0x2de92c6f, 0x4a7484aa, 0x5cb0a9dc, 0x76f988da] ++
  [0x983e5152, 0xa831c66d, 0xb00327c8, 0xbf597fc7, 0xc6e00bf3, 0xd5a79147, 0x06ca6351, 0x14292967] ++
  [0x27b70a85, 0x2e1b2138, 0x4d2c6dfc, 0x53380d13, 0x650a7354, 0x766a0abb, 0x81c2c92e, 0x92722c85] ++
  [0xa2bfe8a1, 0xa81a664b, 0xc24b8b70, 0xc76c51a3, 0xd192e819, 0xd6990624, 0xf40e3585, 0x106aa070] ++
  [0x19a4c116, 0x1e376c08, 0x2748774c, 0x34b0bcb5, 0x391c0cb3, 0x4ed8aa4a, 0x5b9cca4f, 0x682e6ff3] ++
  [0x748f82ee, 0x78a5636f, 0x84c87814, 0x8cc70208, 0x90befffa, 0xa4506ceb, 0xbef9a3f7, 0xc67178f2]

/-- The initial hash value of SHA-256. -/
def shaInit : List (BitVec 32) :=
  [0x6a09e667, 0xbb67ae85, 0x3c6ef372, 0xa54ff53a, 0x510e527f, 0x9b05688c, 0x1f83d9ab, 0x5be0cd19]

/-- The next 48 words of the message schedule, the 16 newest words held newest first. -/
def shaSchedule : Nat → List (BitVec 32) → List (BitVec 32)
  | 0, w => w.reverse
  | n + 1, w =>
    let x15 := nth 0 w 14
    let x2 := nth 0 w 1
    let s0 := x15.rotateRight 7 ^^^ x15.rotateRight 18 ^^^ x15 >>> 3
    let s1 := x2.rotateRight 17 ^^^ x2.rotateRight 19 ^^^ x2 >>> 10
    shaSchedule n ((nth 0 w 15 + s0 + nth 0 w 6 + s1) :: w)

/-- The 64 rounds over the eight working variables. -/
def shaRounds : List (Nat × BitVec 32) → List (BitVec 32) → List (BitVec 32)
  | [], v => v
  | (k, w) :: t, v =>
    let a := nth 0 v 0
    let e := nth 0 v 4
    let s1 := e.rotateRight 6 ^^^ e.rotateRight 11 ^^^ e.rotateRight 25
    let ch := (e &&& nth 0 v 5) ^^^ (~~~e &&& nth 0 v 6)
    let t1 := nth 0 v 7 + s1 + ch + BitVec.ofNat 32 k + w
    let s0 := a.rotateRight 2 ^^^ a.rotateRight 13 ^^^ a.rotateRight 22
    let maj := (a &&& nth 0 v 1) ^^^ (a &&& nth 0 v 2) ^^^ (nth 0 v 1 &&& nth 0 v 2)
    shaRounds t [t1 + (s0 + maj), a, nth 0 v 1, nth 0 v 2, nth 0 v 3 + t1, e, nth 0 v 5, nth 0 v 6]

/-- Big-endian 32-bit words of a byte string. -/
def beWords : Bytes → List (BitVec 32)
  | a :: b :: c :: d :: t => BitVec.ofNat 32 (beNat [a, b, c, d]) :: beWords t
  | _ => []

/-- Blocks of SHA-256, `n` of them. -/
def shaBlocks : Nat → Bytes → List (BitVec 32) → List (BitVec 32)
  | 0, _, h => h
  | n + 1, m, h =>
    let w := shaSchedule 48 (beWords (m.take 64)).reverse
    let v := shaRounds (shaK.zip w) h
    shaBlocks n (m.drop 64) (List.zipWith (· + ·) h v)

/-- The SHA-256 digest of a byte string, 32 bytes. -/
def sha256 (m : Bytes) : Bytes :=
  let pad := (119 - m.length % 64) % 64
  let padded := m ++ [0x80] ++ List.replicate pad 0 ++ toBe 8 (8 * m.length)
  (shaBlocks (padded.length / 64) padded shaInit).flatMap fun w => toBe 4 w.toNat

/-- HMAC-SHA-256 with a key of at most 64 bytes. -/
def hmac256 (key m : Bytes) : Bytes :=
  let k := key ++ List.replicate (64 - key.length) 0
  sha256 ((k.map (· ^^^ 0x5C)) ++ sha256 ((k.map (· ^^^ 0x36)) ++ m))

/-! ECDSA over P-256. -/

/-- The field prime of P-256. -/
def p256 : Nat := 0xffffffff00000001000000000000000000000000ffffffffffffffffffffffff
/-- The order of its base point. -/
def n256 : Nat := 0xffffffff00000000ffffffffffffffffbce6faada7179e84f3b9cac2fc632551
/-- The coefficient b. -/
def b256 : Nat := 0x5ac635d8aa3a93e7b3ebbd55769886bc651d06b0cc53b0f63bce3c3e27d2604b
/-- The base point. -/
def g256 : Nat × Nat :=
  (0x6b17d1f2e12c4247f8bce6e563a440f277037d812deb33a0f4a13945d898c296,
   0x4fe342e2fe1a7f9b8ee7eb4a7c0f9e162bce33576b315ececbb6406837bf51f5)

/-- `a ^ e` modulo `m`, over the low `k` bits of `e`, lowest first. -/
def powMod : Nat → Nat → Nat → Nat → Nat
  | 0, _, _, _ => 1
  | k + 1, a, e, m =>
    let r := powMod k (a * a % m) (e / 2) m
    if e % 2 == 1 then a * r % m else r

/-- The inverse modulo a prime of at most 256 bits. -/
def invMod (a m : Nat) : Nat := powMod 256 (a % m) (m - 2) m

/-- A point: none is the point at infinity. -/
abbrev EcPt := Option (Nat × Nat)

/-- Point addition on P-256. -/
def ecAdd : EcPt → EcPt → EcPt
  | none, q => q
  | p, none => p
  | some (x1, y1), some (x2, y2) =>
    if x1 = x2 ∧ (y1 + y2) % p256 = 0 then none else
      let l := if x1 = x2 then (3 * x1 * x1 + (p256 - 3)) * invMod (2 * y1) p256 % p256
               else (y2 + p256 - y1) * invMod (x2 + p256 - x1) p256 % p256
      let x3 := (l * l + 2 * p256 - x1 - x2) % p256
      some (x3, (l * (x1 + p256 - x3) + p256 - y1) % p256)

/-- `e` times a point, over the low `k` bits of `e`. -/
def ecMul : Nat → Nat → EcPt → EcPt
  | 0, _, _ => none
  | k + 1, e, q =>
    let r := ecMul k (e / 2) (ecAdd q q)
    if e % 2 == 1 then ecAdd q r else r

/-- Whether a public key is a point of the curve. -/
def onCurve (x y : Nat) : Bool :=
  decide (x < p256) && decide (y < p256) &&
    y * y % p256 == (x * x * x + (p256 - 3) * x + b256) % p256

/-- ECDSA verification of signature (r, s) over a digest with public key (x, y). -/
def ecdsaOk (x y r s : Nat) (digest : Bytes) : Bool :=
  if onCurve x y && decide (0 < r) && decide (r < n256) && decide (0 < s) && decide (s < n256) then
    let w := invMod s n256
    let u1 := beNat digest * w % n256
    let u2 := r * w % n256
    match ecAdd (ecMul 256 u1 (some g256)) (ecMul 256 u2 (some (x, y))) with
    | none => false
    | some (px, _) => px % n256 == r
  else false

/-! Cyclic redundancy checks. -/

/-- One bit-reflected step of a CRC register, `k` times. -/
def crcBitsR (poly : Nat) : Nat → Nat → Nat
  | 0, c => c
  | k + 1, c => crcBitsR poly k (if c % 2 == 1 then (c / 2) ^^^ poly else c / 2)

/-- CRC-32 of IEEE 802.3 (the frame check sequence). -/
def crc32 (m : Bytes) : Nat :=
  (m.foldl (fun c b => crcBitsR 0xEDB88320 8 (c ^^^ b.toNat)) 0xFFFFFFFF) ^^^ 0xFFFFFFFF

/-- The four octets of the frame check sequence as sent. -/
def fcsOf (m : Bytes) : Bytes := toLe 4 (crc32 m)

/-- One step of a most-significant-bit-first CRC register of width `w`, `k` times. -/
def crcBits (w poly : Nat) : Nat → Nat → Nat
  | 0, c => c
  | k + 1, c => crcBits w poly k
      (if bitN c (w - 1) == 1 then (c * 2 % 2 ^ w) ^^^ poly else c * 2 % 2 ^ w)

/-- A most-significant-bit-first CRC of width `w` over bytes, from a starting value. -/
def crcMsb (w poly init : Nat) (m : Bytes) : Nat :=
  m.foldl (fun c b => crcBits w poly 8 (c ^^^ (b.toNat * 2 ^ (w - 8)))) init

end Sys2Proof.Machine
end

