-- ==== Sys2Proof/Machine/Power.lean ====
section
/-! DEFINITION. Chapter 12, power stage controllers: sample feed, period grid and duty, channel states, diagnostics, power limit,
current limit and trip, the two mutes, and band checks. -/

namespace Sys2Proof.Machine

/-- Channel `c`. -/
def State.ps (s : State) (c : Nat) : PsCh := tget psCh0 s.psm.chans c

/-- Channel `c` rewritten. -/
def State.setPs (s : State) (c : Nat) (v : PsCh) : State := { s with psm := { s.psm with chans := tset psCh0 s.psm.chans c v } }

/-- The bank offset of a channel's settings (Table 9.2). -/
def psOff (c : Nat) : Nat := 0x60A000 + 16 * c

/-- PS_CH_CFG, PS_CH_LIM and PS_CH_DYN in force: they switch at the egress switch of ECH 1152 + c. -/
def State.psCfg (s : State) (c : Nat) : Nat := bkW (s.txBank (1152 + c)) (psOff c)
def State.psLim (s : State) (c : Nat) : Nat := bkW (s.txBank (1152 + c)) (psOff c + 4)
def State.psDyn (s : State) (c : Nat) : Nat := bkW (s.txBank (1152 + c)) (psOff c + 8)

/-- Fields of PS_CH_CFG. -/
def cfgN (w : Nat) : Nat := max 1 (bitsN w 0 11)
def cfgRail (w : Nat) : Nat := bitsN w 12 3
def cfgEn (w : Nat) : Bool := bitN w 15 == 1
def cfgPhase (w : Nat) : Nat := bitsN w 16 11
def cfgDiag (w : Nat) : Bool := bitN w 28 == 1

/-- The page of a channel's controller. -/
def psPage (c : Nat) : Nat := Pg.PS (c / 8)

/-- The latest reading of a rail in 10 mV (R330). -/
def State.railV (s : State) (n : Nat) : Nat := tget zeroNat s.rails n * s.rd (R.PSM_RAIL_SCALE n) / 1000

/-- RAIL_CONVERSION (R330). -/
def doRailConversion (n code : Nat) (s : State) : State :=
  { s with rails := tset zeroNat s.rails n code, psm := { s.psm with rails := if s.psm.rails.contains n then s.psm.rails else n :: s.psm.rails } }

/-! The feed and the power limit (R331, R344). -/

/-- The limit of a channel: TAU and T; none while it is inactive. -/
def State.psLimit (s : State) (c : Nat) : Option (Nat × Nat) :=
  let w := bitsN (s.psLim c) 0 16
  let v := s.rd (R.PSM_RAIL_VNOM (cfgRail (s.psCfg c)))
  if w = 0 || v = 0 then none
  else some (bitsN (s.psDyn c) 0 5, 2 ^ 30 * w * bitsN (s.psLim c) 16 16 / (v * v))

/-- A sample under a reduction: xl = (x × G(0xC000 - Lr)) >> 27, G(0xC000) being 2^27. -/
def limited (lr : Nat) (x : Int) : Int := if lr = 0 then x else x * (gainOf (0xC000 - lr) : Int) / 2 ^ 27

/-- One channel fed: the sample handed over becomes the one that plays, and P follows the limited sample. -/
def State.feedCh (s : State) (c : Nat) : State :=
  let v := s.ps c
  let x := if 2 ≤ s.smp then (s.egSample (s.smp - 2) (1152 + c)).toInt else 0
  match s.psLimit c with
  | none => s.setPs c { v with cur := v.nxt, nxt := x, lr := 0, avg := 0 }
  | some (tau, _) =>
    let xl := limited v.lr x
    let xh := xl / 65536
    s.setPs c { v with cur := v.nxt, nxt := xl, avg := v.avg + (xh * xh - v.avg) / 2 ^ tau }

/-- SAMPLE_FEED (R331, R311): once per sample period while TL counts. -/
def doSampleFeed (s : State) : State :=
  if s.mode.cur.counts && s.psm.fedSmp != some s.smp then
    let s := (List.range 32).foldl State.feedCh s
    { s with psm := { s.psm with feed := s.psm.feed + 1, fresh := s.psm.fresh + 1, fedSmp := some s.smp, fedAt := s.clk } }
  else s

/-- The sample feed runs: the present sample or the one before was handed over, and no stall has begun since. -/
def State.feedRuns (s : State) : Bool :=
  match s.psm.fedSmp with
  | none => false
  | some x => decide (s.smp ≤ x + 1) && (match s.psm.stall with | none => true | some y => decide (y < x))

/-- The reduction Lr at a block boundary (R344), and LIMIT when it leaves 0. -/
def State.limitCh (s : State) (c : Nat) : State :=
  let v := s.ps c
  match s.psLimit c with
  | none => s.setPs c { v with lr := 0, avg := 0 }
  | some (_, t) =>
    let lr := if (t : Int) < v.avg then min 6144 (v.lr + 32) else v.lr - 1
    let s := s.setPs c { v with lr := lr }
    if v.lr = 0 && lr != 0 then s.raise (psPage c) 12 else s

/-! Channel states (R338 to R343). -/

/-- The right to run, TRIPPED and FAULT apart (R338). -/
def State.psMay (s : State) (c : Nat) : Bool :=
  (match s.mode.cur with | .standalone => true | .leader => true | .follower => true | .orphan => true | _ => false)
    && s.enabled (psPage c) && cfgEn (s.psCfg c)

/-- The first count of a grid at or after a count (R332). -/
def gridAt (x n ph : Nat) : Nat := x + (ph % n + n - x % n) % n

/-- A channel whose half duty begins at the first period boundary at or after a count (R339, step 2). -/
def State.psBegin (s : State) (c x : Nat) : State :=
  let w := s.psCfg c
  let n := cfgN w
  let at_ := gridAt x n (cfgPhase w)
  s.setPs c { s.ps c with
    next := some at_, n := n, ph := cfgPhase w, live := false, e1 := 0, e2 := 0, y := 0, lim := false, win := [],
    tr := (at_ + 4095) / 4096 + 8, ramp := bitsN (s.psDyn c) 16 14, ts := none, mute := none, offAt := none, step := 0, am := false }

/-- A channel with all four gates low, in a state. -/
def State.psLow (s : State) (c : Nat) (st : PsState) : State :=
  let v := s.ps c
  (s.setPs c { v with st := st, cmd := false, step := 0, next := none, live := false, lim := false, win := [], ts := none, mute := none, offAt := none }).emit (.gate c [])

/-- A block boundary in progress: its work is done and no tick has passed. -/
def State.atBoundary (s : State) : Bool := s.tick == 0 && !s.bndDue

/-- CHANNEL_START (R338, R339, R349): an OFF channel that may run, at a block boundary, with the audio PLL locked, the chip's feed
running and, in FOLLOWER, the twin's feed counter advancing. -/
def doChannelStart (c : Nat) (s : State) : State :=
  let v := s.ps c
  let twinFed := s.mode.cur != .follower || !s.twin.hb || decide (s.clk ≤ s.twin.hbFeedAt + 256)
  if s.atBoundary && v.st == .off && v.next.isNone && s.psMay c && !s.audio.apllLost && s.feedRuns && twinFed
      && (!v.am || decide (8 ≤ s.psm.fresh)) then
    if cfgDiag (s.psCfg c) && !v.am then
      s.setPs c { v with st := .diag, prev := .off, cmd := false, step := 1, since := s.clk, cut := false }
    else s.psBegin c s.count
  else s

/-- A diagnostic fault (R342). -/
def State.psFault (s : State) (c result : Nat) : State :=
  let s := s.psLow c .fault
  let s := s.setPs c { s.ps c with result := result }
  (s.raise (psPage c) 9).err (psPage c) (0x114 + 32 * (c % 8)) 0x42 0 (BitVec.ofNat 32 (c + result * 256))

/-- Whether a step of Table 12.3 names a comparator. -/
def stepNames (i : Nat) (legB : Bool) : Bool := if legB then i == 2 || i == 4 || i == 5 else i == 1 || i == 3 || i == 5

/-- DIAG_STEP (R342, Table 12.3): the step under way is judged by the comparators read high during its pulse, or by the sense input at the
end of its settle time. -/
def doDiagStep (c : Nat) (a b : Bool) (sense : Nat) (s : State) : State :=
  let v := s.ps c
  if v.st == .diag && v.step != 0 && decide (v.since ≤ s.clk) then
    if v.step < 6 then
      if v.cut || (a && stepNames v.step false) || (b && stepNames v.step true) then s.psFault c (v.step + 1)
      else if decide (s.rd R.PSM_DIAG_PULSE * 12288 ≤ (s.clk - v.since) * 4000) then
        s.setPs c { v with step := v.step + 1, since := v.since + 128 }
      else s
    else if decide (v.since + 128 * s.rd R.PSM_DIAG_SETTLE ≤ s.clk) then
      if s.rd R.PSM_DIAG_OPEN_THR < sense then s.psFault c 7
      else
        let s := s.setPs c { v with result := 1, step := 0 }
        if v.cmd then s.psLow c v.prev else s.psBegin c s.count
    else s
  else s

/-- RAMP_START (R339, step 4). -/
def doRampStart (c : Nat) (s : State) : State :=
  let v := s.ps c
  if v.st == .start && decide (v.tr ≤ s.tl) then s.setPs c { v with st := .ramp } else s

/-- RAMP_END (R339, step 5). -/
def doRampEnd (c : Nat) (s : State) : State :=
  let v := s.ps c
  if v.st == .ramp && decide (v.tr + v.ramp ≤ s.tl) then s.setPs c { v with st := .run } else s

/-- A diagnostic sequence ended without a result of its own (R340, R349): back to the state held before, or OFF. -/
def State.psAbort (s : State) (c result : Nat) : State :=
  let v := s.ps c
  let s := s.psLow c (if v.cmd then v.prev else .off)
  s.setPs c { s.ps c with result := result }

/-- CHANNEL_STOP (R340, R350): a channel that may no longer run. -/
def doChannelStop (c : Nat) (s : State) : State :=
  let v := s.ps c
  if s.psMay c then s
  else
    match v.st with
    | .diag => if v.cmd then s else s.psAbort c 9
    | .off => if v.next.isSome then s.psLow c .off else s.setPs c { v with am := false }
    | .start | .ramp | .run =>
      if v.mute.isSome then s.psLow c .off
      else
        let ts := if s.subTick = 0 then s.tl else s.tl + 1
        let g := if ts < v.tr then (0, 1) else if ts < v.tr + v.ramp then (ts - v.tr, v.ramp) else (1, 1)
        s.setPs c { v with st := .stopping, ts := some ts, gn := g.1, gd := g.2, offAt := some (4096 * (ts + 960)) }
    | _ => s

/-! Periods (R332 to R335, R345, R346). -/

/-- The next period boundary of a channel, once its count has come. -/
def State.psDue (s : State) (c : Nat) : Option Nat :=
  match (s.ps c).next with
  | some x => if x < s.count + 32 && s.mode.cur.counts then some x else none
  | none => none

/-- Whether the channel stops at its next boundary (R340, R350). -/
def State.psEnds (s : State) (c x : Nat) : Bool := match (s.ps c).offAt with | some y => decide (y ≤ x) | none => false

/-- The window of limit periods with the period under way (R346). -/
def State.psWin (s : State) (c : Nat) : List Bool :=
  let v := s.ps c
  if v.live then (v.lim :: v.win).take (s.rd R.PSM_LIM_M) else v.win

/-- Whether the channel trips at its next boundary (R346). -/
def State.psTrips (s : State) (c : Nat) : Bool :=
  let v := s.ps c
  v.live && v.lim && decide (s.rd R.PSM_LIM_K ≤ ((s.psWin c).filter id).length)

/-- A limit period counted at its end. -/
def State.psCount (s : State) (c : Nat) : State :=
  let v := s.ps c
  if v.live && v.lim then s.inc (R.PS_CH_CBC_COUNT (c / 8) (c % 8)) else s

/-- The sample after ramp and power limit that a period beginning in a sample takes (R339, R340). -/
def PsCh.gained (v : PsCh) (t : Nat) : Int :=
  match v.ts with
  | some ts =>
    if ts ≤ t then v.cur * ((960 - (t - ts) : Nat) * v.gn : Nat) / ((960 * v.gd : Nat) : Int)
    else if t < v.tr + v.ramp then v.cur * ((t - v.tr : Nat) : Int) / (v.ramp : Int) else v.cur
  | none => if t < v.tr + v.ramp then v.cur * ((t - v.tr : Nat) : Int) / (v.ramp : Int) else v.cur

/-- The feed-forward factor in Q16 (R334). -/
def State.feedForward (s : State) (rail : Nat) : Nat :=
  let vn := s.rd (R.PSM_RAIL_VNOM rail)
  if vn = 0 || !s.psm.rails.contains rail then 0x10000
  else if s.railV rail = 0 then 0x20000 else min 0x20000 (vn * 65536 / s.railV rail)

/-- The duty computation (R334): y and the shaper's state from e1, e2, a sample, the period, the feed-forward and MINW. -/
def duty (e1 e2 xg : Int) (n ff minw : Nat) : Int × Int × Int :=
  let sv := xg * n * ff / 2 ^ 31
  let w := sv - 2 * e1 + e2
  let y := (w + 0x8000) / 65536
  let lim : Int := n - minw
  if lim < y || y < -lim then (if 0 < y then lim else -lim, 0, 0) else (y, y * 65536 - w, e1)

/-- The width of leg A's high state (R334). -/
def legA (n : Nat) (y : Int) : Int := (n + y + 1) / 2

/-- PERIOD_BOUNDARY (R332 to R335, R345): the period under way ends, and the next begins; a comparator already high makes it a limit
period at once. A boundary at which the channel stops or trips is STOP_END or TRIP. -/
def doPeriodBoundary (c : Nat) (a b : Bool) (s : State) : State :=
  match s.psDue c with
  | none => s
  | some x =>
    if s.psEnds c x || s.psTrips c then s
    else
      let win := s.psWin c
      let s := s.psCount c
      let v := s.ps c
      let w := s.psCfg c
      let n := cfgN w
      let ph := cfgPhase w
      let len := if n = v.n && ph = v.ph then n else gridAt (x + (n + 1) / 2) n ph - x
      let st := if v.st == .off || v.st == .diag then .start else v.st
      let t := x / 4096
      let flat := st == .start && decide (t < v.tr) || (match v.mute with | some m => decide (m ≤ x) | none => false)
      let d := if flat then (0, 0, 0) else duty v.e1 v.e2 (v.gained t) len (s.feedForward (cfgRail w)) (s.rd (R.PS_DT_MINW (c / 8)))
      let wA := legA len d.1
      (s.setPs c { v with st := st, next := some (x + len), n := n, ph := ph, live := true, win := win, lim := a || b,
                          y := d.1, e1 := d.2.1, e2 := d.2.2, wA := wA, wB := wA - d.1 }).emit (.gate c [len, wA.toNat, (wA - d.1).toNat])

/-- TRIP (R346), at the boundary that ends the K-th limit period. -/
def doTrip (c : Nat) (s : State) : State :=
  match s.psDue c with
  | none => s
  | some _ =>
    if s.psTrips c then
      let s := (s.psCount c).psLow c .tripped
      let s := (s.inc (R.PS_CH_TRIPS_COUNT (c / 8) (c % 8))).raise (psPage c) 8
      s.err (psPage c) (0x114 + 32 * (c % 8)) 0x43 0 (BitVec.ofNat 32 c)
    else s

/-- STOP_END (R340, R350). -/
def doStopEnd (c : Nat) (s : State) : State :=
  match s.psDue c with
  | none => s
  | some x => if s.psEnds c x && !s.psTrips c then (s.psCount c).psLow c .off else s

/-- PSOC_RISE (R345): the pulse of the period under way ends; in a diagnostic pulse, one that the step names ends that (R342). -/
def doPsocRise (c : Nat) (legB : Bool) (s : State) : State :=
  let v := s.ps c
  match v.st with
  | .start | .ramp | .run | .stopping => if v.live then s.setPs c { v with lim := true } else s
  | .diag => if v.step != 0 && decide (v.since ≤ s.clk) && decide ((s.clk - v.since) * 4000 ≤ s.rd R.PSM_DIAG_PULSE * 12288) && stepNames v.step legB
      then s.setPs c { v with cut := true } else s
  | _ => s

/-! The mutes (R348 to R350). -/

/-- Whether a channel is running: DIAG to STOPPING. -/
def PsCh.running (v : PsCh) : Bool :=
  match v.st with
  | .off => false | .tripped => false | .fault => false | _ => true

/-- Whether a channel switches. -/
def PsCh.switching (v : PsCh) : Bool := v.running && v.st != .diag

/-- An event on every PS page with a channel that a test picks. -/
def State.psEvent (s : State) (f : PsCh → Bool) (bit : Nat) : State :=
  (List.range 4).foldl (fun s i => if (List.range 8).any (fun j => f (s.ps (8 * i + j))) then s.raise (Pg.PS i) bit else s) s

/-- FEED_STALL (R348): the present sample period has begun without a fresh sample; the sample last handed over plays. -/
def doFeedStall (s : State) : State :=
  if s.mode.cur.counts && s.psm.fedSmp.isSome && s.psm.fedSmp != some s.smp && !(match s.psm.stall with | some x => x == s.smp | none => false) then
    let first := s.feedRuns
    let s := { s with psm := { s.psm with fresh := 0, stall := if first then some s.smp else s.psm.stall } }
    (List.range 32).foldl (fun s c => s.setPs c { s.ps c with cur := (s.ps c).nxt }) s
  else s

/-- The feed mute takes effect one sample after a stall began, at the instant the last handed sample ends (R348); a stop under way
ends at the first period boundary from there (R350). -/
def State.feedMuteAt (s : State) : State :=
  match s.psm.stall with
  | none => s
  | some x =>
    if x + 1 = s.smp && !s.psm.feedMute then
      let m := 4096 * s.tl
      let s := s.psEvent PsCh.switching 10
      let s := (List.range 32).foldl (fun s c =>
        let v := s.ps c
        if v.switching || v.next.isSome then s.setPs c { v with mute := some m, offAt := if v.st == .stopping then some m else v.offAt } else s) s
      ({ s with psm := { s.psm with feedMute := true } }).raise Pg.PSM 9
    else s

/-- UNMUTE (R348): at a block boundary after 8 fresh samples in a row. -/
def doUnmute (s : State) : State :=
  if s.psm.feedMute && s.atBoundary && decide (8 ≤ s.psm.fresh) && !s.audio.apllLost then
    let s := s.psEvent (fun v => v.mute.isSome) 11
    let s := (List.range 32).foldl (fun s c =>
      let v := s.ps c
      if v.mute.isSome && v.st != .stopping then
        s.setPs c { v with st := .ramp, mute := none, tr := s.tl, ramp := bitsN (s.psDyn c) 16 14, e1 := 0, e2 := 0 } else s) s
    { s with psm := { s.psm with feedMute := false, stall := none } }
  else s

/-- The audio PLL mute (R349, R350): every gate low. -/
def State.psApllLost (s : State) : State :=
  let s := s.psEvent PsCh.running 10
  let s := (List.range 32).foldl (fun s c =>
    let v := s.ps c
    match v.st with
    | .diag => let s := s.psAbort c 8; s.setPs c { s.ps c with am := !v.cmd }
    | .start | .ramp | .run => let s := s.psLow c .off; s.setPs c { s.ps c with am := true }
    | .stopping => s.psLow c .off
    | .off => if v.next.isSome then (let s := s.psLow c .off; s.setPs c { s.ps c with am := true }) else s
    | _ => s) s
  { s with psm := { s.psm with apllMute := true } }

/-- The audio PLL has relocked (R349): 8 fresh samples are counted from here, and the starts to come run no diagnostics. -/
def State.psApllRelock (s : State) : State :=
  let s := (List.range 32).foldl (fun s c => let v := s.ps c; if v.st == .off && s.psMay c then s.setPs c { v with am := true } else s) s
  { s with psm := { s.psm with apllMute := false, fresh := 0 } }

/-- Every gate low at once on entering BOOT or DARK (R340); a trip or a fault stands. -/
def State.psDark (s : State) : State :=
  (List.range 32).foldl (fun s c =>
    let v := s.ps c
    match v.st with
    | .tripped => s
    | .fault => s
    | .diag => s.psAbort c 9
    | _ => let s := s.psLow c .off; s.setPs c { s.ps c with am := false, want := false }) s

/-! Commands, band checks, and the work of a block boundary. -/

/-- A write of PS_CH_CMD: RESTART (R346) and DIAG (R343). -/
def State.psCmd (s : State) (c path : Nat) (value : Word) : State :=
  let off := 0x110 + 32 * (c % 8)
  let s :=
    if bitN value.toNat 0 = 1 then
      let v := s.ps c
      if (v.st == .tripped || v.st == .fault) && cfgEn (s.psCfg c) then s.psLow c .off
      else s.err (psPage c) off 0x40 path value
    else s
  if bitN value.toNat 1 = 1 then
    let v := s.ps c
    if s.modeFor path != .commission || !(v.st == .off || v.st == .fault) then s.err (psPage c) off 0x40 path value
    else if s.twin.driveIn then s.err (psPage c) off 0x41 path value
    else s.setPs c { v with want := true }
  else s

/-- Whether a channel hits band `n` (R337). -/
def State.bandHit (s : State) (c n : Nat) : Bool :=
  let w := s.psCfg c
  let en := s.on (R.PSM_BAND_M_EN n)
  let lo : Int := s.rd (R.PSM_BAND_E_LO n)
  let hi : Int := s.rd (R.PSM_BAND_E_HI n)
  let m : Int := s.rd (R.PSM_BAND_M_MARGIN n)
  let nn : Int := bitsN w 0 11
  en && cfgEn w && (List.range 8).any (fun i => decide (nn * (lo - m) ≤ ((i + 1) * 393216 : Nat)) && decide (((i + 1) * 393216 : Nat) ≤ nn * (hi + m)))

/-- PSM_BAND_HIT evaluated; BAND whenever a bit rises (R337). -/
def State.bandCheck (s : State) : State :=
  let hits := (List.range 32).foldl (fun a c => if (List.range 4).any (s.bandHit c) then a + 2 ^ c else a) 0
  let rises := (List.range 32).any fun c => bitN hits c == 1 && bitN (s.rd R.PSM_BAND_HIT_HIT) c == 0
  let s := s.wr R.PSM_BAND_HIT_HIT hits
  if rises then s.raise Pg.PSM 8 else s

/-- The work of a block boundary: reductions, unless the feed stalls (R344), and sequences asked for (R343). -/
def State.psBoundary (s : State) : State :=
  let s := if s.feedRuns then (List.range 32).foldl State.limitCh s else s
  (List.range 32).foldl (fun s c =>
    let v := s.ps c
    if v.want then
      if s.mode.cur == .commission && (v.st == .off || v.st == .fault) then
        s.setPs c { v with want := false, st := .diag, prev := v.st, cmd := true, step := 1, since := s.clk, cut := false }
      else s.setPs c { v with want := false }
    else s) s

/-- A commanded sequence runs (R343). -/
def State.psTesting (s : State) : Bool := (List.range 32).any fun c => (s.ps c).st == .diag && (s.ps c).cmd

end Sys2Proof.Machine
end

