-- ==== Sys2Proof/Machine/Wake.lean ====
section
/-! DEFINITION. The wake from DARK (R427), which wake patterns, the WAKE pin, a host command and a Loupe alarm start. -/

namespace Sys2Proof.Machine

/-- Each flock returns to the state that its ENABLE field holds (R103), and every fence is released. -/
def State.flocksBack (s : State) : State :=
  let s := s.fab.fences.foldl (fun s f => s.unfence f.dom) s
  (List.range 16).foldl (fun s f =>
    if s.enabled (Pg.FL f) then ungate f s
    else if (s.flock f).powered && (s.flock f).fencing then s.fence f else s) s

/-- A wake event of a source (0 pattern, 1 pin, 2 host, 3 Loupe): in DARK it starts the wake into COMMISSION; during an entry to
DARK it abandons the entry; at any other time it is ignored. -/
def State.wake (s : State) (src : Nat) : State :=
  if s.mode.cur == .dark || s.mode.entering then
    let fresh := s.mode.cur == .dark
    let s := { s with bndDue := if fresh then false else s.bndDue
                      mode := { s.mode with cur := .commission, entering := false, audioReady := false, wakeAt := some s.clk } }
    let s := s.wr R.MODE_WAKE_SRC (2 ^ src)
    let s := s.flocksBack
    let s := if fresh then s.raise Pg.MODE 8 else s
    s.raise Pg.MODE 10
  else s

end Sys2Proof.Machine
end

