-- ==== Sys2Proof/Machine/Bridge.lean ====
section
/-! DEFINITION. Ethernet ports, the bridge with its address and VLAN tables and queues, ring managers, PAUSE, the transparent
clock and MDIO (chapter 08). -/

namespace Sys2Proof.Machine

/-! Frames. -/

/-- A frame taken apart: addresses, VLAN tag as (PCP, VID), EtherType, and what follows it. -/
structure Hdr where
  dst : Nat
  src : Nat
  tag : Option (Nat × Nat)
  etype : Nat
  payload : Bytes
  deriving DecidableEq, Repr

/-- Two octets as a number. -/
def be2 (b : Bytes) (i : Nat) : Nat := beNat ((b.drop i).take 2)

/-- A frame without its FCS taken apart; at most one VLAN tag is read. -/
def parseFrame (b : Bytes) : Hdr :=
  let t := be2 b 12
  if t = 0x8100 then
    ⟨beNat (b.take 6), beNat ((b.drop 6).take 6), some (be2 b 14 / 8192, be2 b 14 % 4096), be2 b 16, b.drop 18⟩
  else ⟨beNat (b.take 6), beNat ((b.drop 6).take 6), none, t, b.drop 14⟩

/-- A frame without its FCS put together, tagged or not. -/
def buildFrame (h : Hdr) (tag : Option (Nat × Nat)) : Bytes :=
  toBe 6 h.dst ++ toBe 6 h.src
    ++ (match tag with
        | some t => toBe 2 0x8100 ++ toBe 2 (t.1 * 8192 + t.2)
        | none => [])
    ++ toBe 2 h.etype ++ h.payload

/-- The corrupted FCS: the ones' complement of the right one (R206). -/
def stompOf (b : Bytes) : Bytes := (fcsOf b).map fun x => ~~~x

/-! Ports. -/

/-- A port. -/
def State.port (s : State) (p : Nat) : EthPort := tget port0 s.eth.ports p

/-- A port rewritten. -/
def State.setPort (s : State) (p : Nat) (v : EthPort) : State :=
  { s with eth := { s.eth with ports := tset port0 s.eth.ports p v } }

/-- Bits per second of a port's mode (Table 8.1). -/
def State.lineRate (s : State) (p : Nat) : Nat :=
  match s.rd (R.ETH_CFG_MODE p) with
  | 0 => 25000000000
  | 1 => 10000000000
  | _ => 1000000000

/-- ETH_MAXLEN of a port. -/
def State.maxLen (s : State) (p : Nat) : Nat := s.rd (R.ETH_MAXLEN_LEN p)

/-- The other external port of a port's network. -/
def mate (p : Nat) : Nat := p / 2 * 2 + (1 - p % 2)

/-- Octets that the stored frames of a port take. -/
def EthPort.room (v : EthPort) (low : Bool) : Nat :=
  ((v.frames.filter fun f => !low || decide (f.queue < 6)).map fun f => f.bytes.length + 4).foldl (· + ·) 0

/-- A frame stored for a port (R207, R216): not where it is too long, its link is down or its share is full. -/
def State.store (s : State) (p : Nat) (f : QFrame) : State :=
  let v := s.port p
  let n := f.bytes.length + 4
  if p < 4 && decide (s.maxLen p < n) then s.inc (R.ETH_TX_OVERSIZE_COUNT p)
  else if p < 4 && !s.linkUp p then s.inc (R.ETH_TX_DROP_COUNT p)
  else
    let share := if p < 4 then 1572864 else 2097152
    let full := decide (share < v.room false + n) || (p < 4 && decide (f.queue < 6) && decide (share - 262144 < v.room true + n))
    if full then (if p < 4 then s.inc (R.ETH_TX_DROP_COUNT p) else s)
    else s.setPort p { v with frames := v.frames ++ [f] }

/-- Whether a port may send: its link is up and it is not paused. -/
def State.canSend (s : State) (p : Nat) : Bool := s.linkUp p && (s.port p).pauseEnd.isNone

/-! VLANs (R214). -/

/-- The words of a VLAN entry. -/
def State.vlanA (s : State) (v : Nat) : Nat := (s.getW (pageAddr Pg.BR (0x200 + 8 * v))).toNat
def State.vlanB (s : State) (v : Nat) : Nat := (s.getW (pageAddr Pg.BR (0x204 + 8 * v))).toNat

/-- The member and untagged masks of a VID. -/
def State.vlan (s : State) (vid : Nat) : Option (Nat × Nat) :=
  ((List.range 64).find? fun v => bitN (s.vlanA v) 15 == 1 && bitsN (s.vlanA v) 0 12 == vid).map fun v =>
    (bitsN (s.vlanB v) 0 5, bitsN (s.vlanB v) 8 5)

/-- The PCP and VID of a frame received on a port. -/
def State.frameVlan (s : State) (p : Nat) (h : Hdr) : Nat × Nat :=
  match h.tag with
  | some (pcp, vid) => (pcp, if vid = 0 then s.rd (R.ETH_CFG_PVID p) else vid)
  | none => (s.rd (R.ETH_CFG_DEF_PCP p), s.rd (R.ETH_CFG_PVID p))

/-- The queue of a PCP. -/
def State.pcpQueue (s : State) (pcp : Nat) : Nat := bitsN (s.rd R.BR_PCP_MAP_MAP) (3 * pcp) 3

/-! Address table (R211). -/

/-- The bucket of a key. -/
def atuBucket (mac vid : Nat) : Nat := Config.atuHash (mac * 4096 + vid) % 1024

/-- The entry at an index. -/
def State.atuAt (s : State) (i : Nat) : Option AtuE := tget noAtu s.eth.atu i

/-- The entry at an index rewritten. -/
def State.setAtu (s : State) (i : Nat) (e : Option AtuE) : State := { s with eth := { s.eth with atu := tset noAtu s.eth.atu i e } }

/-- The index of a key's entry. -/
def State.atuFind (s : State) (mac vid : Nat) : Option Nat :=
  ((List.range 4).map fun w => 4 * atuBucket mac vid + w).find? fun i => match s.atuAt i with
    | some e => e.mac == mac && e.vid == vid
    | none => false

/-- The first index of a key's bucket whose entry meets a test. -/
def State.atuWay (s : State) (mac vid : Nat) (test : Option AtuE → Bool) : Option Nat :=
  ((List.range 4).map fun w => 4 * atuBucket mac vid + w).find? fun i => test (s.atuAt i)

/-- The source address of an accepted frame (R211): its dynamic entry ages anew; while LEARN is 1 it is learned. -/
def State.learn (s : State) (p mac vid : Nat) : State :=
  let on := s.on R.BR_CFG_LEARN
  if bitN (mac / 2 ^ 40) 0 == 1 then s
  else match s.atuFind mac vid with
    | some i => (match s.atuAt i with
      | some e => if e.static then s else s.setAtu i (some { e with ports := if on then 2 ^ p else e.ports, last := s.clk })
      | none => s)
    | none =>
      if !on then s
      else match s.atuWay mac vid Option.isNone with
        | some i => s.setAtu i (some ⟨mac, vid, 2 ^ p, false, false, 0, s.clk⟩)
        | none => (s.inc R.BR_LEARN_FULL_COUNT).raise Pg.BR 11

/-- The dynamic entries removed whose ports a test selects. -/
def State.flushDyn (s : State) (test : Nat → Bool) : State :=
  { s with eth := { s.eth with atu := s.eth.atu.filter fun x => match x.2 with
      | some e => e.static || !test e.ports
      | none => true } }

/-! Forwarding (R198, R212, R213, R217). -/

/-- BR_NET_x of a network (0 A, 1 B). -/
def State.netW (s : State) (net : Nat) : Nat := (s.getW (if net = 0 then A.BR_NET_A else A.BR_NET_B)).toNat
def State.netRing (s : State) (net : Nat) : Bool := bitN (s.netW net) 0 == 1
def State.netTmo (s : State) (net : Nat) : Nat := bitsN (s.netW net) 8 4

/-- A bit of BR_RING_STAT: 0 OPEN, 1 BLOCKING, 2 CONFLICT. -/
def ringBit (net bit : Nat) : RField := ⟨A.BR_RING_STAT, 4 * net + bit, 1⟩

/-- Whether this node acts as ring manager of a network. -/
def State.manager (s : State) (net : Nat) : Bool :=
  s.netRing net && bitN (s.netW net) 1 == 1 && !s.on (ringBit net 2)

/-- Whether forwarding between the two ports of a network is blocked. -/
def State.netBlocked (s : State) (net : Nat) : Bool := s.manager net && s.on (ringBit net 1)

/-- The ports a frame may go to from an ingress port, whatever its address: not back, not to the other network, not past a
block, not between external ports while the bridge is off, and not to the internal port in DARK. -/
def State.reachable (s : State) (p : Nat) : Nat → Bool := fun e =>
  e != p && (if e = 4 then s.mode.cur != .dark
    else if p = 4 then true
    else p / 2 == e / 2 && s.enabled Pg.BR && !s.netBlocked (p / 2))

/-- What the address table gives for a frame: the ports, the queue, and whether it is flooded; none where it is dropped for want
of a STREAM entry. -/
def State.route (s : State) (h : Hdr) (pcp vid members : Nat) : Option (Nat × Nat × Bool) :=
  let q := s.pcpQueue pcp
  let ent := match s.atuFind h.dst vid with
    | some i => s.atuAt i
    | none => none
  let stream := match ent with
    | some e => e.static && e.stream
    | none => false
  if h.etype = 0x22F0 && !stream then none
  else match ent with
    | some e => some (e.ports, if e.static && e.stream then e.queue else q, false)
    | none => some (members, q, true)

/-- A frame as it leaves a port: tagged or not by the VLAN's untagged mask. -/
def egressBytes (h : Hdr) (pcp vid untag e : Nat) : Bytes :=
  buildFrame h (if bitN untag e = 1 then none else some (pcp, vid))

/-- A frame stored for each port of a list. -/
def State.storeAll (s : State) (h : Hdr) (pcp vid untag queue : Nat) (inTs : Option Nat) (p : Nat) (l : List Nat) : State :=
  l.foldl (fun s e => s.store e ⟨egressBytes h pcp vid untag e, queue, inTs, p⟩) s

/-- A frame that the device itself sends from the internal port, on a VLAN with a PCP (R198): routed like any other, dropped where port 4 is no
member (R214), from both networks' ports the ones in `nets`. -/
def State.sendFrom4 (s : State) (h : Hdr) (pcp vid : Nat) (nets : Nat → Bool) (queue : Option Nat) : State :=
  match s.vlan vid with
  | none => s
  | some (members, untag) =>
    if bitN members 4 = 0 then s
    else match s.route h pcp vid members with
    | none => s.inc R.BR_STREAM_NOENT_COUNT
    | some (mask, q, flood) =>
      let s := if flood then s.inc R.BR_FLOOD_COUNT else s
      s.storeAll h pcp vid untag (queue.getD q) none 4
        ((List.range 4).filter fun e => bitN mask e == 1 && nets e)

/-- The egress ports that cut a frame through (R208). -/
def State.cutPorts (s : State) (p : Nat) (h : Hdr) (queue : Nat) (l : List Nat) : List Nat :=
  if s.on R.BR_CFG_CT_EN && s.mode.cur != .dark && h.etype == 0x22F0 then
    l.filter fun e => decide (e < 4) && decide (s.lineRate e ≤ s.lineRate p) && decide (s.maxLen p ≤ s.maxLen e) && s.canSend e
      && !(s.port e).frames.any fun f => decide (queue ≤ f.queue)
  else []

/-- A frame cut through to ports, with a right or a corrupted FCS. -/
def State.cut (s : State) (h : Hdr) (pcp vid untag : Nat) (bad : Bool) (l : List Nat) : State :=
  let s := if l.isEmpty then s else s.inc R.BR_CT_COUNT
  l.foldl (fun s e =>
    let b := egressBytes h pcp vid untag e
    let s := (s.emit (.frame e (b ++ if bad then stompOf b else fcsOf b))).inc (R.ETH_TX_OK_COUNT e)
    if bad then s.inc (R.ETH_TX_STOMP_COUNT e) else s) s

/-- The egress ports, queue and flood mark of a frame received on a port with its VLAN. -/
def State.egressFor (s : State) (p : Nat) (h : Hdr) (pcp vid members : Nat) : Option (List Nat × Nat × Bool) :=
  (s.route h pcp vid members).map fun r =>
    ((List.range 5).filter (fun e => bitN r.1 e == 1 && s.reachable p e), r.2.1, r.2.2)

/-- Whether a destination lies in 01-80-C2-00-00-00 to 01-80-C2-00-00-0F (R213). -/
def linkLocal (dst : Nat) : Bool := dst / 16 == 0x0180C200000

/-- A bad frame that was being cut through leaves truncated or with a corrupted FCS (R206, R209). -/
def State.cutBad (s : State) (p : Nat) (b : Bytes) : State :=
  let h := parseFrame b
  let v := s.frameVlan p h
  match s.vlan v.2 with
  | none => s
  | some (members, untag) =>
    if bitN members p = 0 || linkLocal h.dst then s
    else match s.egressFor p h v.1 v.2 members with
      | none => s
      | some (l, q, _) => s.cut h v.1 v.2 untag true (s.cutPorts p h q l)

/-- The PTP messageType of an Ethernet PTP frame. -/
def ptpType (h : Hdr) : Nat := (nth 0 h.payload 0).toNat % 16

/-- Whether a frame is a ring check or a ring change (Table 8.3). -/
def ringFrame (h : Hdr) : Bool :=
  h.etype == 0x88B5 && ((h.dst == 0x034B5A0000A0 && nth 0 h.payload 0 == 0x10) || (h.dst == 0x034B5A0000A1 && nth 0 h.payload 0 == 0x11))

/-- An accepted frame classified and forwarded (R212 to R216, R219, R222). PAUSE, ring, PTP, management, heartbeat and stream frames
act through their own commands. -/
def State.classify (s : State) (p : Nat) (h : Hdr) (ts : Nat) : State :=
  let v := s.frameVlan p h
  let s := s.learn p h.src v.2
  if h.etype = 0x8808 then (if be2 h.payload 0 = 1 then s else s.inc (R.ETH_RX_PFC_COUNT p))
  else if ringFrame h && s.netRing (p / 2) then s
  else
    match s.vlan v.2 with
    | none => s.inc (R.ETH_RX_VLAN_COUNT p)
    | some (members, untag) =>
      if bitN members p = 0 then s.inc (R.ETH_RX_VLAN_COUNT p)
      else if linkLocal h.dst then
          if h.etype = 0x88F7 then
            let t := ptpType h
            let through := h.dst == 0x0180C200000E && t != 2 && t != 3 && t != 10 && bitN members (mate p) == 1 && s.reachable p (mate p)
            s.storeAll h v.1 v.2 untag (s.pcpQueue v.1) (some ts) p
              ((if through then [mate p] else []) ++ if s.reachable p 4 then [4] else [])
          else s
        else match s.egressFor p h v.1 v.2 members with
          | none => s.inc R.BR_STREAM_NOENT_COUNT
          | some (l, q, flood) =>
            let s := if flood then s.inc R.BR_FLOOD_COUNT else s
            let c := (s.cutPorts p h q l).filter fun e => decide ((egressBytes h v.1 v.2 untag e).length + 4 ≤ s.maxLen e)
            (s.cut h v.1 v.2 untag false c).storeAll h v.1 v.2 untag q (some ts) p (l.filter fun e => !c.contains e)

/-! Wake patterns (R227, R228). -/

/-- The octets of a frame that a pattern's mask selects, in order. -/
def State.selected (s : State) (n : Nat) (frame : Bytes) : Bytes :=
  ((List.range (min 1024 frame.length)).zip frame).filterMap fun x =>
    if (s.getW (pageAddr Pg.BR (0xC00 + 0x80 * n + 4 * (x.1 / 32)))).getLsbD (x.1 % 32) then some x.2 else none

/-- Octets that a pattern's mask selects, over all 1,024. -/
def State.maskBits (s : State) (n : Nat) : Nat :=
  ((List.range 1024).filter fun i => (s.getW (pageAddr Pg.BR (0xC00 + 0x80 * n + 4 * (i / 32)))).getLsbD (i % 32)).length

/-- Whether a frame matches a wake pattern. -/
def State.wakeMatch (s : State) (n : Nat) (frame : Bytes) : Bool :=
  let sel := s.selected n frame
  s.maskBits n != 0 && sel.length == s.maskBits n && crcMsb 16 0x1021 0xFFFF sel == s.rd (R.BR_WAKE_CRC_CRC n)

/-- The lowest pattern a frame matches on a port in DARK. -/
def State.wakePattern (s : State) (p : Nat) (frame : Bytes) : Option Nat :=
  if s.mode.cur != .dark then none
  else (List.range 8).find? fun n => bitN (s.rd (R.ETH_WAKE_PAT_EN p)) n == 1 && s.wakeMatch n frame

/-- WAKE_MATCH (R228): the match is recorded and the wake starts. -/
def State.wakeMatched (s : State) (p n : Nat) : State :=
  let s := ((s.wr R.BR_WAKE_STAT_PAT n).wr R.BR_WAKE_STAT_PORT p).wrB R.BR_WAKE_STAT_VALID true
  (s.raise (Pg.ETH p) 12).wake 0

/-- FRAME_RECEIVE (R205): a received frame with its FCS is judged, counted, tested against the wake patterns in DARK, and
classified. -/
def doFrameReceive (p : Nat) (frame : Bytes) (ts : Nat) (s : State) : State :=
  if !s.linkUp p then s
  else
    let n := frame.length
    let body := frame.take (n - 4)
    if n ≤ 63 then s.inc (R.ETH_RX_RUNT_COUNT p)
    else if s.maxLen p < n then (s.inc (R.ETH_RX_OVERSIZE_COUNT p)).cutBad p (frame.take (s.maxLen p - 4))
    else if frame.drop (n - 4) ≠ fcsOf body then (s.inc (R.ETH_RX_FCS_COUNT p)).cutBad p body
    else
      let s := s.inc (R.ETH_RX_OK_COUNT p)
      let t := s.classify p (parseFrame body) ts
      match s.wakePattern p frame with
      | some n => t.wakeMatched p n
      | none => t

/-! UDP, and the transparent clock (R215, R224, R225). -/

/-- Bytes replaced from an offset on. -/
def putAt (b : Bytes) (i : Nat) (x : Bytes) : Bytes := b.take i ++ x ++ b.drop (i + x.length)

/-- A ones' complement sum folded to 16 bits. -/
def fold16 (n : Nat) : Nat := let a := n % 65536 + n / 65536; a % 65536 + a / 65536

/-- Ones' complement sum of 16-bit words. -/
def sum16 (b : Bytes) : Nat :=
  fold16 (fold16 (((List.range ((b.length + 1) / 2)).map fun i => be2 (b ++ [0]) (2 * i)).foldl (· + ·) 0))

/-- A UDP datagram of the device in an IPv4 header: destination address, both ports, UDP payload; without a UDP checksum. -/
def State.ipUdp (s : State) (dst port : Nat) (body : Bytes) : Bytes :=
  let udp := toBe 2 port ++ toBe 2 port ++ toBe 2 (8 + body.length) ++ toBe 2 0 ++ body
  let hd (ck : Nat) : Bytes := toBe 1 0x45 ++ toBe 1 (s.rd R.STTX_IPHDR_DSCP * 4) ++ toBe 2 (20 + udp.length) ++ toBe 2 0 ++ toBe 2 0x4000
    ++ toBe 1 (s.rd R.STTX_IPHDR_TTL) ++ toBe 1 17 ++ toBe 2 ck ++ toBe 4 (s.rd R.STTX_IPV4_ADDR) ++ toBe 4 dst
  hd (65535 - sum16 (hd 0)) ++ udp

/-- A UDP checksum updated for octets that changed (R225): zero stays zero, and a result of zero is sent as 0xFFFF. -/
def udpFix (sum : Nat) (old new : Bytes) : Nat :=
  if sum = 0 then 0
  else
    let words (b : Bytes) : List Nat := (List.range (b.length / 2)).map fun i => be2 b (2 * i)
    let t := (65535 - sum) + ((words old).map (65535 - ·)).foldl (· + ·) 0 + (words new).foldl (· + ·) 0
    let r := 65535 - fold16 (fold16 t)
    if r = 0 then 0xFFFF else r

/-- Where the PTP message of a frame starts in what follows its EtherType, and where its UDP checksum stands. -/
def ptpAt (h : Hdr) : Option (Nat × Option Nat) :=
  if h.etype = 0x88F7 then some (0, none)
  else if h.etype = 0x0800 then
    let ihl := (nth 0 h.payload 0).toNat % 16 * 4
    if nth 0 h.payload 9 = 17 ∧ be2 h.payload (ihl + 2) = 319 then some (ihl + 8, some (ihl + 6)) else none
  else none

/-- The correctionField of a forwarded event message increased by a time in 2^-16 ns (R224). -/
def correct (b : Bytes) (add : Int) : Bytes :=
  let h := parseFrame b
  match ptpAt h with
  | none => b
  | some (o, ck) =>
    if 4 ≤ (nth 0 h.payload o).toNat % 16 then b
    else
      let old := (h.payload.drop (o + 8)).take 8
      let new := toBe 8 (unsignedN 64 ((beNat old : Int) + add))
      let pl := putAt h.payload (o + 8) new
      let pl := match ck with
        | some k => putAt pl k (toBe 2 (udpFix (be2 h.payload k) old new))
        | none => pl
      buildFrame { h with payload := pl } h.tag

/-- The frame a port sends next: the highest queue, in arrival order (R215). -/
def nextFrame (l : List QFrame) : Option QFrame :=
  let top := (l.map QFrame.queue).foldl max 0
  l.find? fun f => f.queue == top

/-! Links (R202, R203). -/

/-- Whether a port looks for a link: its lane is powered and it has none. -/
def State.searches (s : State) (p : Nat) : Bool := s.lanePowered p && !s.linkUp p && s.mode.cur != .boot

/-- Whether a port negotiates (Table 8.1). -/
def State.negotiates (s : State) (p : Nat) : Bool := s.rd (R.ETH_CFG_MODE p) == 2 && s.on (R.ETH_CFG_AN_EN p)

/-- A Clause 37 exchange (R201): the device offers full duplex only, with PAUSE = 1 and ASM_DIR = 1. -/
def State.offer (s : State) (p : Nat) : State := if s.negotiates p then s.emit (.ability p true false true true) else s

/-- AN_FAIL (R201): a failed Clause 37 exchange. -/
def doAnFail (p : Nat) (s : State) : State :=
  if s.searches p && s.negotiates p then (s.offer p).inc (R.ETH_AN_FAIL_COUNT p) else s

/-- LINK_UP (R201, R202): `full` is whether the partner offers full duplex, which a negotiated link needs. -/
def doLinkUp (p : Nat) (full : Bool) (s : State) : State :=
  if s.negotiates p && !full then doAnFail p s
  else if s.searches p then
    let s := s.offer p
    let s := (s.wrB (R.ETH_STAT_LINK p) true).wrB (R.ETH_STAT_FEC_LOCK p) (s.rd (R.ETH_CFG_FEC p) != 0)
    let s := s.wrB (R.ETH_STAT_AN_DONE p) (s.negotiates p)
    s.raise (Pg.ETH p) 8
  else s

/-- What a link going down does (R202). -/
def State.dropLink (s : State) (p : Nat) : State :=
  if s.linkUp p then
    let v := s.port p
    let s := s.incBy (R.ETH_TX_DROP_COUNT p) v.frames.length
    let s := s.setPort p { v with frames := [], pauseEnd := none }
    let s := s.flushDyn fun m => bitN m p == 1
    let s := ((s.wrB (R.ETH_STAT_LINK p) false).wrB (R.ETH_STAT_FEC_LOCK p) false).wrB (R.ETH_STAT_AN_DONE p) false
    ((s.wrB (R.ETH_STAT_PAUSED p) false).inc (R.ETH_LINK_DOWN_COUNT p)).raise (Pg.ETH p) 9
  else s

/-- LINK_DOWN (R202). -/
def doLinkDown (p : Nat) (s : State) : State := s.dropLink p

/-- ADDRESS_AGE_OUT (R211). -/
def doAddressAgeOut (i : Nat) (s : State) : State :=
  match s.atuAt i with
  | some e => if !e.static && decide (e.last + s.rd R.BR_AGE_SEC * 12288000 ≤ s.clk) then s.setAtu i none else s
  | none => s

/-! Address table commands (R211). -/

/-- The key in BR_ATU_E0 and E1. -/
def State.atuKey (s : State) : Nat × Nat := (s.rd R.BR_ATU_E1_MAC * 2 ^ 32 + s.rd R.BR_ATU_E0_MAC, s.rd R.BR_ATU_E1_VID)

/-- An entry shown in BR_ATU_E0 to E2. -/
def State.atuShow (s : State) (e : Option AtuE) : State :=
  match e with
  | some e =>
    let s := (s.setW A.BR_ATU_E0 (BitVec.ofNat 32 e.mac)).setW A.BR_ATU_E1 (BitVec.ofNat 32 (e.mac / 2 ^ 32 + e.vid * 2 ^ 16))
    s.setW A.BR_ATU_E2 (BitVec.ofNat 32 (e.ports + b2n e.static * 2 ^ 8 + b2n e.stream * 2 ^ 9 + 2 ^ 10 + e.queue * 2 ^ 12))
  | none => ((s.setW A.BR_ATU_E0 0).setW A.BR_ATU_E1 0).setW A.BR_ATU_E2 0

/-- A failed operation: BR code 0x40 with the bucket. -/
def State.atuFail (s : State) (path : Nat) : State :=
  s.err Pg.BR 0x070 0x40 path (BitVec.ofNat 32 (atuBucket s.atuKey.1 s.atuKey.2))

/-- OP 1. -/
def atuRead (s : State) : State := s.atuShow (s.atuAt (s.rd R.BR_ATU_IDX_IDX))

/-- OP 2: in place of an entry of the same key, else a free way, else a dynamic entry's; it fails where the bucket holds four static entries. -/
def atuWrite (path : Nat) (s : State) : State :=
  let k := s.atuKey
  let e : AtuE := ⟨k.1, k.2, s.rd R.BR_ATU_E2_PORTS, true, s.on R.BR_ATU_E2_STREAM, s.rd R.BR_ATU_E2_QUEUE, s.clk⟩
  let dyn (x : Option AtuE) : Bool := match x with
    | some y => !y.static
    | none => false
  let place := s.atuFind k.1 k.2 <|> s.atuWay k.1 k.2 Option.isNone <|> s.atuWay k.1 k.2 dyn
  let room := (s.atuWay k.1 k.2 fun x => x.isNone || dyn x).isSome
  match place, room with
  | some i, true => (s.setAtu i (some e)).wr R.BR_ATU_IDX_IDX i
  | _, _ => s.atuFail path

/-- OP 3. -/
def atuDelete (path : Nat) (s : State) : State :=
  match s.atuFind s.atuKey.1 s.atuKey.2 with
  | some i => s.setAtu i none
  | none => s.atuFail path

/-- OP 4. -/
def atuLookup (path : Nat) (s : State) : State :=
  match s.atuFind s.atuKey.1 s.atuKey.2 with
  | some i => (s.wr R.BR_ATU_IDX_IDX i).atuShow (s.atuAt i)
  | none => s.atuFail path

/-- OP 5: the dynamic entries of the selected ports, of all where none is selected. -/
def atuFlush (ports : Nat) (s : State) : State :=
  s.flushDyn fun m => ports == 0 || m &&& ports != 0

/-- BR_ATU_CMD written with GO: its OP carried out. -/
def atuGo (path : Nat) (s : State) : State :=
  match s.rd R.BR_ATU_CMD_OP with
  | 1 => atuRead s
  | 2 => atuWrite path s
  | 3 => atuDelete path s
  | 4 => atuLookup path s
  | 5 => atuFlush (s.rd R.BR_ATU_CMD_PORTS) s
  | _ => s

/-! Rings (R217 to R220). -/

/-- The device's block count for ring timing, which runs in DARK too (R226). -/
def State.ringBlock (s : State) : Nat := s.clk / 1024

/-- A ring frame of a manager sent on one port (Table 8.3): a forwarded one keeps the manager's source address. -/
def State.sendRing (s : State) (sub net p mac seq : Nat) : State :=
  let pl := toBe 1 sub ++ toBe 1 1 ++ toBe 1 net ++ toBe 1 0 ++ toBe 6 mac ++ toBe 4 seq ++ List.replicate 32 (0 : Byte)
  let h : Hdr := ⟨if sub = 0x10 then 0x034B5A0000A0 else 0x034B5A0000A1, mac, none, 0x88B5, pl⟩
  s.store p ⟨buildFrame h none, 7, none, 4⟩

/-- A frame of the manager sent on both ports of its network, each with its next sequence number. -/
def State.sendRingBoth (s : State) (sub net : Nat) : State :=
  let r := tget ring0 s.eth.rings net
  let s := { s with eth := { s.eth with rings := tset ring0 s.eth.rings net { r with seq0 := (r.seq0 + 1) % 2 ^ 32, seq1 := (r.seq1 + 1) % 2 ^ 32 } } }
  (s.sendRing sub net (2 * net) s.mac r.seq0).sendRing sub net (2 * net + 1) s.mac r.seq1

/-- A ring manager sends its checks at a block boundary (R218). -/
def State.ringChecks (s : State) : State :=
  [0, 1].foldl (fun s net => if s.manager net then s.sendRingBoth 0x10 net else s) s

/-- BLOCKED of ETH_STAT kept equal to the manager's block. -/
def State.showBlocked (s : State) (net : Nat) : State :=
  (s.wrB (R.ETH_STAT_BLOCKED (2 * net)) (s.netBlocked net)).wrB (R.ETH_STAT_BLOCKED (2 * net + 1)) (s.netBlocked net)

/-- The manager's block set or lifted, the change counted and told to the ring (R218). -/
def State.ringTurn (s : State) (net : Nat) (closed : Bool) : State :=
  let s := ((s.wrB (ringBit net 0) (!closed)).wrB (ringBit net 1) closed).showBlocked net
  let s := (s.inc R.BR_RING_CHANGE_COUNT).raise Pg.BR (if closed then 9 else 8)
  s.sendRingBoth 0x11 net

/-- BR_NET_x written: a manager begins with its block set, a conflict ends (R217, R220, log entry 23). -/
def State.netWritten (s : State) (net : Nat) : State :=
  let mgr := s.netRing net && bitN (s.netW net) 1 == 1
  let s := ((s.wrB (ringBit net 0) false).wrB (ringBit net 1) mgr).wrB (ringBit net 2) false
  let r := tget ring0 s.eth.rings net
  let s := { s with eth := { s.eth with rings := tset ring0 s.eth.rings net { r with last := s.ringBlock } } }
  s.showBlocked net

/-- RING_CHECK_RECEIVE (R218 to R220). -/
def doRingCheckReceive (p mac : Nat) (seq : Word) (s : State) : State :=
  let net := p / 2
  if !s.linkUp p || !s.netRing net then s
  else if s.manager net && mac == s.mac then
    let r := tget ring0 s.eth.rings net
    let s := { s with eth := { s.eth with rings := tset ring0 s.eth.rings net { r with last := s.ringBlock } } }
    if s.on (ringBit net 0) then s.ringTurn net true else s
  else
    let s := if s.manager net && decide (mac < s.mac) then
        (((s.wrB (ringBit net 1) false).wrB (ringBit net 2) true).showBlocked net).raise Pg.BR 10
      else s
    if mac == s.mac then s else s.sendRing 0x10 net (mate p) mac seq.toNat

/-- RING_OPEN (R218): TMO blocks without a check. -/
def doRingOpen (net : Nat) (s : State) : State :=
  if s.manager net && s.on (ringBit net 1) && decide ((tget ring0 s.eth.rings net).last + s.netTmo net ≤ s.ringBlock) then
    s.ringTurn net false
  else s

/-- RING_CHANGE_RECEIVE (R219): the dynamic entries of the ring's ports go, and the frame goes on unless it is the node's own. -/
def doRingChangeReceive (p mac : Nat) (seq : Word) (s : State) : State :=
  let net := p / 2
  if !s.linkUp p || !s.netRing net then s
  else
    let s := s.flushDyn fun m => bitN m (2 * net) == 1 || bitN m (2 * net + 1) == 1
    if mac == s.mac then s else s.sendRing 0x11 net (mate p) mac seq.toNat

/-! PAUSE (R221 to R223). -/

/-- Ticks of a pause of `q` quanta on a port, rounded up. -/
def State.pauseTicks (s : State) (p q : Nat) : Nat := (q * 512 * 12288000 + s.lineRate p - 1) / s.lineRate p

/-- A running pause ended: the watchdog's sum takes its length. -/
def State.endPause (s : State) (p : Nat) : State :=
  let v := s.port p
  match v.pauseEnd with
  | none => s
  | some _ => (s.setPort p { v with pauseEnd := none, pauseSum := v.pauseSum + (s.clk - v.pauseFrom), pauseLast := s.clk }).wrB
      (R.ETH_STAT_PAUSED p) false

/-- PAUSE_RECEIVE (R221, R223): obeyed, or counted as ignored in a hold. -/
def doPauseReceive (p q : Nat) (s : State) : State :=
  if !s.linkUp p then s
  else
    let v := s.port p
    if v.holdEnd.isSome then s.inc (R.ETH_RX_PAUSE_IGN_COUNT p)
    else
      let s := s.inc (R.ETH_RX_PAUSE_COUNT p)
      if q = 0 then s.endPause p
      else match v.pauseEnd with
        | some _ => s.setPort p { v with pauseEnd := some (s.clk + s.pauseTicks p q) }
        | none =>
          let sum := if v.pauseLast + 1024 ≤ s.clk then 0 else v.pauseSum
          (s.setPort p { v with pauseEnd := some (s.clk + s.pauseTicks p q), pauseFrom := s.clk, pauseSum := sum }).wrB
            (R.ETH_STAT_PAUSED p) true

/-- PAUSE_END (R221). -/
def doPauseEnd (p : Nat) (s : State) : State :=
  match (s.port p).pauseEnd with
  | some t => if t ≤ s.clk then s.endPause p else s
  | none => s

/-- PAUSE_BROKEN (R223): the sum has reached WDT; a hold begins. -/
def doPauseBroken (p : Nat) (s : State) : State :=
  let v := s.port p
  if v.pauseEnd.isSome && decide (s.force (R.ETH_PAUSE_WDT p) * 12288 ≤ (v.pauseSum + (s.clk - v.pauseFrom)) * 1000) then
    let s := s.endPause p
    let s := s.setPort p { s.port p with holdEnd := some (s.clk + 12288 * s.force (R.ETH_PAUSE_HOLD_MS p)) }
    ((s.wrB (R.ETH_STAT_HOLD p) true).inc (R.ETH_PAUSE_BROKEN_COUNT p)).raise (Pg.ETH p) 10
  else s

/-- HOLD_END (R223). -/
def doHoldEnd (p : Nat) (s : State) : State :=
  match (s.port p).holdEnd with
  | some t =>
    if t ≤ s.clk then
      ((s.setPort p { s.port p with holdEnd := none, pauseSum := 0 }).wrB (R.ETH_STAT_HOLD p) false).raise (Pg.ETH p) 11
    else s
  | none => s

/-- ETH_PAUSE and ETH_PAUSE_HOLD copied into force at a block boundary (R223). -/
def State.ethTake (s : State) : State :=
  (List.range 4).foldl (fun s p => { s with
    inForce := tset resetWord (tset resetWord s.inForce (A.ETH_PAUSE p) (s.getW (A.ETH_PAUSE p))) (A.ETH_PAUSE_HOLD p) (s.getW (A.ETH_PAUSE_HOLD p)) }) s

/-! MDIO (R229). -/

/-- BR_MDIO_CMD written with GO: refused while BUSY, else a frame goes out. -/
def mdioGo (path : Nat) (value : Word) (s : State) : State :=
  if s.on R.BR_MDIO_CMD_BUSY then s.err Pg.BR 0x094 0x41 path value
  else
    let v := value.toNat
    let s := s.setW A.BR_MDIO_CMD (BitVec.ofNat 32 (bitsN v 0 3 + bitsN v 8 5 * 2 ^ 8 + bitsN v 16 5 * 2 ^ 16 + 2 ^ 30))
    let s := { s with eth := { s.eth with mdioRead := decide (2 ≤ bitsN v 0 2) } }
    s.emit (.mdio (bitsN v 0 3) (bitsN v 8 5) (bitsN v 16 5) (s.rd R.BR_MDIO_DATA_DATA))

/-- MDIO_DONE (R229). -/
def doMdioDone (answer : Option (BitVec 16)) (s : State) : State :=
  if s.on R.BR_MDIO_CMD_BUSY then
    let s := s.wrB R.BR_MDIO_CMD_BUSY false
    let s := if s.eth.mdioRead then
        (match answer with
         | some d => s.wr R.BR_MDIO_DATA_DATA d.toNat
         | none => ((s.wr R.BR_MDIO_DATA_DATA 0xFFFF).wrB R.BR_MDIO_CMD_NORESP true).err Pg.BR 0x094 0x42 0
             (BitVec.ofNat 32 (s.rd R.BR_MDIO_CMD_PHY)))
      else s
    s.raise Pg.BR 12
  else s

end Sys2Proof.Machine
end

