-- ==== Sys2Proof/Machine/Streams.lean ====
section
/-! DEFINITION. Streams, duplicate discard and herds (chapter 09). -/

namespace Sys2Proof.Machine

/-! Tables (R239). -/

/-- Word `i` of receive entry `n` and of transmit entry `n`. -/
def rxW (b : Mem) (n i : Nat) : Nat := bkW b (0x601000 + 32 * n + 4 * i)
def txW (b : Mem) (n i : Nat) : Nat := bkW b (0x603000 + 32 * n + 4 * i)

/-- The receive map entry of an ICH, and the transmit map entry of a channel. -/
def rxMap (b : Mem) (i : Nat) : Nat := bkW b (0x604000 + 4 * i)
def txMap (b : Mem) (n c : Nat) : Nat := bk b (0x605000 + 128 * n + 2 * c) 2

/-- GANGED and RX_OFS of a herd. -/
def herdGang (b : Mem) (h : Nat) : Bool := bitN (bkW b (0x609000 + 4 * h)) 0 == 1
def herdOfs (b : Mem) (h : Nat) : Nat := bitsN (bkW b (0x609000 + 4 * h)) 16 10

/-- The fields of word 0 that both kinds of entry share. -/
def eEn (w : Nat) : Bool := bitN w 0 == 1
def eRtp (w : Nat) : Bool := bitN w 1 == 1
def e96 (w : Nat) : Bool := bitN w 2 == 1
def eFmt (w : Nat) : Nat := bitsN w 3 2
def eCh (w : Nat) : Nat := bitsN w 8 6
def eHerd (w : Nat) : Nat := bitsN w 16 5

/-- The MAC address in two words. -/
def macOf (lo hi : Nat) : Nat := bitsN hi 0 16 * 2 ^ 32 + lo

/-- Octets of a sample in a format. -/
def fmtBytes (f : Nat) : Nat := if f = 0 then 3 else if f = 3 then 2 else 4

/-- The ICH that a receive stream feeds, with the channel of each. -/
def fedIch (b : Mem) (n : Nat) : List (Nat × Nat) :=
  (List.range 1024).filterMap fun i =>
    let w := rxMap b i
    if bitN w 31 = 1 ∧ bitsN w 0 8 = n then some (i, bitsN w 8 6) else none

/-- A receive stream, a transmit stream and a herd. -/
def State.rx (s : State) (n : Nat) : RxSt := tget rx0 s.str.rx n
def State.tx (s : State) (n : Nat) : TxSt := tget tx0 s.str.tx n
def State.herd (s : State) (h : Nat) : HerdSt := tget herd0 s.str.herds h

/-- Each of them rewritten. -/
def State.setRx (s : State) (n : Nat) (v : RxSt) : State := { s with str := { s.str with rx := tset rx0 s.str.rx n v } }
def State.setTx (s : State) (n : Nat) (v : TxSt) : State := { s with str := { s.str with tx := tset tx0 s.str.tx n v } }
def State.setHerd (s : State) (h : Nat) (v : HerdSt) : State := { s with str := { s.str with herds := tset herd0 s.str.herds h v } }

/-- Whether an ingest block lies before the last switch of the receive tables (R241, R242). -/
def State.rxBefore (s : State) (blk : Nat) : Bool := s.str.rxWas.any fun w => decide (8 * blk < w.1)

/-- The receive tables of an ingest block. -/
def State.rxBank (s : State) (blk : Nat) : Mem :=
  match s.str.rxWas with
  | some w => if 8 * blk < w.1 then w.2 else s.active
  | none => s.active

/-- A receive stream as it stands for an ingest block: for one before the switch, as it was where the switch started it afresh. -/
def State.rxAt (s : State) (n blk : Nat) : RxSt := if s.rxBefore blk then (tget noPast s.str.rxPast n).getD (s.rx n) else s.rx n

/-- That stream rewritten. -/
def State.setRxAt (s : State) (n blk : Nat) (v : RxSt) : State :=
  if s.rxBefore blk && (tget noPast s.str.rxPast n).isSome then
    { s with str := { s.str with rxPast := tset noPast s.str.rxPast n (some v) } }
  else s.setRx n v

/-- A counter of a receive stream advanced; it holds at its greatest value, and no switch resets it. -/
def State.bumpRx (s : State) (n k : Nat) : State :=
  let v := s.rx n
  s.setRx n { v with cnt := tset zeroNat v.cnt k (min 0xFFFFFFFF (tget zeroNat v.cnt k + 1)) }

/-! Presentation time (R235). -/

/-- Nanoseconds of a count of samples, as R235 stamps it. -/
def stampNs (c : Int) : Int := c / 96000 * 1000000000 + ((c % 96000) * 125000 + 11) / 12

/-- The count of samples of a time in nanoseconds (R56). -/
def countOf (t : Int) : Int := t / 1000000000 * 96000 + t % 1000000000 * 12 / 125000

/-- The value nearest `now` that is `low` modulo 2^32. -/
def nearest32 (now : Int) (low : Nat) : Int := low + roundDiv (now - low) (2 ^ 32) * 2 ^ 32

/-- The presentation TL of an AVTP timestamp: of the time nearest the present PTP time that has it. -/
def State.avtpTl (s : State) (ts : Nat) : Int := countOf (nearest32 (s.ptpNow / 65536) ts) + s.tlOfs

/-- The presentation TL of an RTP timestamp: of the TLs that give it, the nearest to the present one. -/
def State.rtpTl (s : State) (ofs ts : Nat) : Int :=
  let c : Int := (s.tl : Int) - s.tlOfs
  let m := nearest32 (c / 2) ((ts + 2 ^ 32 - ofs % 2 ^ 32) % 2 ^ 32)
  (if c ≤ 2 * m then 2 * m else 2 * m + 1) + s.tlOfs

/-! Packets received (R232, R233). -/

/-- A received packet taken apart: entry, presentation TL, sequence number, concealment flag, frames as received. -/
structure RxPkt where
  p : Int
  seq : Nat
  conc : Bool
  frames : List (List Word)
  deriving DecidableEq, Repr

/-- The AAF format code and bit depth of a format (IEEE 1722, PRESUMED, log entry 24). -/
def aafFmt (f : Nat) : Nat × Nat := if f = 0 then (3, 24) else if f = 1 then (2, 24) else (2, 32)

/-- A sample of `n` octets, first octet most significant, at the top of its word. -/
def wordMsb (b : Bytes) (n : Nat) : Word := BitVec.ofNat 32 (beNat (b.take n) * 2 ^ (32 - 8 * n))

/-- The frames of a payload: `count` frames of `ch` samples of `n` octets. -/
def framesOf (b : Bytes) (count ch n : Nat) : List (List Word) :=
  (List.range count).map fun f => (List.range ch).map fun c => wordMsb (b.drop ((f * ch + c) * n)) n

/-- An AAF packet of an entry, none on a format error (R232). `w` is the entry's word 0. -/
def State.parseAaf (s : State) (w : Nat) (b : Bytes) : Option RxPkt :=
  let at1 (i : Nat) : Nat := (nth 0 b i).toNat
  let f := eFmt w
  let n := if e96 w then 8 else 4
  let size := eCh w * n * fmtBytes f
  let ok := at1 0 == 2 && bitN (at1 1) 7 == 1 && bitsN (at1 1) 4 3 == 0 && bitN (at1 1) 0 == 1 && bitN (at1 22) 4 == 0
    && at1 16 == (aafFmt f).1 && at1 17 / 16 == (if e96 w then 7 else 5)
    && at1 17 % 4 * 256 + at1 18 == eCh w && at1 19 == (aafFmt f).2 && be2 b 20 == size && decide (24 + size ≤ b.length)
  if ok then
    some ⟨s.avtpTl (beNat ((b.drop 12).take 4)), at1 2, bitN (at1 22) 0 == 1, framesOf (b.drop 24) n (eCh w) (fmtBytes f)⟩
  else none

/-- An AES67 packet of an entry, none on a format error (R233). `b` begins at the IPv4 header. -/
def State.parseRtp (s : State) (w w2 ofs : Nat) (b : Bytes) : Option RxPkt :=
  let at1 (i : Nat) : Nat := (nth 0 b i).toNat
  let ihl := at1 0 % 16 * 4
  let total := be2 b 2
  let udp := (b.take total).drop ihl
  let ulen := be2 udp 4
  let pseudo := (b.drop 12).take 8 ++ toBe 2 17 ++ toBe 2 ulen
  let ipOk := at1 0 / 16 == 4 && decide (20 ≤ ihl) && decide (ihl + 8 ≤ total) && decide (total ≤ b.length) && be2 b 6 % 16384 == 0
    && sum16 (b.take ihl) == 0xFFFF && decide (8 ≤ ulen) && decide (ulen ≤ udp.length)
    && (be2 udp 6 == 0 || sum16 (pseudo ++ udp.take ulen) == 0xFFFF)
  let rtp := (udp.take ulen).drop 8
  let r1 (i : Nat) : Nat := (nth 0 rtp i).toNat
  let csrc := 12 + 4 * (r1 0 % 16)
  let ext := if bitN (r1 0) 4 = 1 then 4 + 4 * be2 rtp (csrc + 2) else 0
  let pad := if bitN (r1 0) 5 = 1 then (nth 0 rtp (rtp.length - 1)).toNat else 0
  let pay := (rtp.take (rtp.length - pad)).drop (csrc + ext)
  let unit := eCh w * fmtBytes (eFmt w)
  let n := pay.length / max 1 unit
  let ok := ipOk && decide (csrc + ext + pad ≤ rtp.length) && r1 0 / 64 == 2 && r1 1 % 128 == bitsN w2 16 7
    && pay.length == unit * n && (n == 6 || n == 12 || n == 16 || n == 48)
  if ok then
    some ⟨s.rtpTl ofs (beNat ((rtp.drop 4).take 4)), be2 rtp 2, false, framesOf pay n (eCh w) (fmtBytes (eFmt w))⟩
  else none

/-- The enabled receive entry that a frame matches by its ID (R244, rule 1). -/
def rxMatch (b : Mem) (h : Hdr) : Option Nat :=
  if h.etype = 0x22F0 then
    let hi := beNat ((h.payload.drop 4).take 4)
    let lo := beNat ((h.payload.drop 8).take 4)
    (List.range 256).find? fun n => eEn (rxW b n 0) && !eRtp (rxW b n 0) && rxW b n 1 == lo && rxW b n 2 == hi
  else if h.etype = 0x0800 then
    let ihl := (nth 0 h.payload 0).toNat % 16 * 4
    let dst := beNat ((h.payload.drop 16).take 4)
    let dp := be2 h.payload (ihl + 2)
    if nth 0 h.payload 9 = 17 then
      (List.range 256).find? fun n => eEn (rxW b n 0) && eRtp (rxW b n 0) && rxW b n 1 == dst && bitsN (rxW b n 2) 0 16 == dp
    else none
  else none

/-- The frames of a 48 kHz packet at 96 kHz: the interpolator's output, whose values the spec does not state (R171, log entry 20). -/
def State.doubleFrames (s : State) (l : List (List Word)) : List (List Word) × State :=
  let ch := (nth [] l 0).length
  let k := s.freeCtr
  ((List.range (2 * l.length)).map fun f => (List.range ch).map fun c => Config.freeWord (k + f * ch + c),
    { s with freeCtr := k + 2 * l.length * ch })

/-! Blocks out of held copies. -/

/-- The sample at which a held copy's first frame enters ingest, under a RX_OFS. -/
def State.ingestAt (s : State) (c : HeldCopy) (ofs : Nat) : Int := c.p + ofs + (if c.half then 24 else 0) - ((s.tl : Int) - s.smp)

/-- The held copy that covers a sample, and the frame of it, under the RX_OFS of the sample's block (R248). -/
def State.frameFor (s : State) (n smp : Nat) : Option (HeldCopy × List Word) :=
  let b := s.rxBank (smp / 8)
  let ofs := herdOfs b (eHerd (rxW b n 0))
  (s.rxAt n (smp / 8)).held.findSome? fun c =>
    let q := s.ingestAt c ofs
    if q ≤ smp ∧ (smp : Int) < q + c.frames.length then some (c, nth [] c.frames ((smp : Int) - q).toNat) else none

/-- Every frame of an ingest block of a stream, where all have arrived, and whether a concealed copy fills any of it. -/
def State.streamBlock (s : State) (n blk : Nat) : Option (List (List Word) × Bool) :=
  let l := (List.range 8).map fun k => s.frameFor n (8 * blk + k)
  if l.all Option.isSome then
    some (l.filterMap fun x => x.map (·.2), l.any fun x => match x with
      | some y => y.1.conc
      | none => false)
  else none

/-- What the ICH that a stream feeds take in a block, each from its channel of the stream, and the taint of the block. -/
def State.putStream (s : State) (n blk : Nat) (taint : Bool) (f : Nat → Nat → Chan) : State :=
  let s := (fedIch (s.rxBank blk) n).foldl (fun s i => s.setIch blk i.1 (f i.1 i.2)) s
  s.setRxAt n blk { s.rxAt n blk with taint := taint }

/-- A stream's block written to the ICH it feeds, as digital zero, as missing, or as concealed. -/
def State.writeStream (s : State) (n blk : Nat) (x : List (List Word) × Bool) : State :=
  s.putStream n blk x.2 fun _ c => ⟨x.1.map fun f => nth 0 f c, x.2, false, false⟩
def State.zeroStream (s : State) (n blk : Nat) : State := s.putStream n blk false fun _ _ => chan0
def State.missStream (s : State) (n blk : Nat) : State :=
  (fedIch (s.rxBank blk) n).foldl (fun s i => s.setIch blk i.1 { chan0 with missing := true }) s
def State.concealStream (s : State) (n blk : Nat) : State :=
  s.putStream n blk true fun i _ => concealed (if blk = 0 then chan0 else s.ich (blk - 1) i)

/-- Whether a stream is enabled for an ingest block, and whether its samples fill that block. -/
def State.rxLive (s : State) (n blk : Nat) : Bool := s.enabled Pg.STRX && eEn (rxW (s.rxBank blk) n 0)
def State.rxFills (s : State) (n blk : Nat) : Bool := (s.rxAt n blk).state == .receiving && decide ((s.rxAt n blk).live ≤ blk)

/-- STREAM_BLOCK_WRITE (R236, R247): at tick 0 of the next block, every stream's ingest block is written where its samples have all
arrived, is zero while the stream waits or idles, and is missing otherwise. -/
def State.ingestStreams (s : State) (blk : Nat) : State :=
  (List.range 256).foldl (fun s n =>
    if !s.rxLive n blk then s
    else if s.rxFills n blk then
      match s.streamBlock n blk with
      | some x => s.writeStream n blk x
      | none => s.missStream n blk
    else s.zeroStream n blk) s

/-! Copies (R243 to R245). -/

/-- Whether the playout deadline of an ingest block has passed: tick 1007 of the next block (R77, R243). -/
def State.played (s : State) (blk : Nat) : Bool := decide (blk + 1 < s.block) || (blk + 1 == s.block && decide (1007 ≤ s.tick))

/-- The source number of a copy (R243). -/
def copySrc (b : Mem) (n port src : Nat) : Option Nat :=
  let a := macOf (rxW b n 4) (rxW b n 5)
  let c := macOf (rxW b n 6) (rxW b n 7)
  if src = a then some (port / 2 * 2) else if src = c ∧ c ≠ 0 then some (port / 2 * 2 + 1) else none

/-- The members of a herd in a bank. -/
def herdMembers (b : Mem) (h : Nat) : List Nat := (List.range 256).filter fun n => eEn (rxW b n 0) && eHerd (rxW b n 0) == h

/-- Whether a block of a stream underran (R246). -/
def State.underran (s : State) (n blk : Nat) : Bool := (s.rxAt n blk).under && (s.rxAt n blk).judged == some blk

/-- A stream's block that has become whole is written; where its gang was concealed, with the gang, once every member's block is whole (R245, R246,
R249). -/
def State.refreshStream (s : State) (n blk : Nat) : State :=
  if s.block ≤ blk || s.played blk then s
  else
    let b := s.rxBank blk
    let h := eHerd (rxW b n 0)
    let put (s : State) (m : Nat) : State := match s.streamBlock m blk with
      | some y => s.writeStream m blk y
      | none => s
    match (s.herd h).gang.filter fun g => g.1 == blk && g.2.contains n with
    | some g =>
      if g.2.all fun m => (s.streamBlock m blk).isSome then ((g.2.foldl put s).setHerd h { s.herd h with gang := none }).rereleaseAll else s
    | none =>
      if (s.rxFills n blk || s.underran n blk) && (s.streamBlock n blk).isSome then (put s n).rereleaseAll else s

/-- The first and last ingest block that a copy feeds under an RX_OFS. -/
def State.copyBlocks (s : State) (c : HeldCopy) (len ofs : Nat) : Nat × Nat :=
  let q := s.ingestAt c ofs
  (q.toNat / 8, (q + len - 1).toNat / 8)

/-- A judged copy accepted or taken as an upgrade: held, the stream RECEIVING, and the blocks it makes whole written, under the tables of each. `at'`
is the first block it feeds. -/
def State.takeCopy (s : State) (n : Nat) (c : HeldCopy) (at' : Nat) : State :=
  let v := s.rxAt n at'
  let v := { v with held := c :: v.held.filter fun x => x.p != c.p }
  let v := match v.state with
    | .receiving => v
    | _ => { v with state := .receiving, live := max at' s.block, run := 0 }
  let s := s.setRxAt n at' v
  let ofs (b : Mem) : Nat := herdOfs b (eHerd (rxW b n 0))
  let x := s.copyBlocks c c.frames.length (ofs (s.rxBank at'))
  let y := s.copyBlocks c c.frames.length (ofs s.active)
  let first := min x.1 y.1
  (List.range (max x.2 y.2 + 1 - first)).foldl (fun s k => s.refreshStream n (first + k)) s

/-- A late copy counted (rule 5). -/
def State.lateCopy (s : State) (n : Nat) : State := (s.bumpRx n 9).raise Pg.STRX 12

/-- A packet judged under one bank's tables against the copy held under its identity (R244, rules 4 to 9). -/
def State.judgeCopy (s : State) (b : Mem) (n src : Nat) (k : RxPkt) : State :=
  let w := rxW b n 0
  let half := !e96 w
  let c0 : HeldCopy := ⟨k.p, half, k.seq, k.conc, src, []⟩
  let ofs := herdOfs b (eHerd w)
  let q := s.ingestAt c0 ofs
  let len : Nat := k.frames.length * (if half then 2 else 1)
  if (8 * s.rd R.STRX_CFG_AHEAD : Int) < q - 8 * s.block then s.bumpRx n 10
  else if q + len ≤ 0 then s.lateCopy n
  else
    let r := s.copyBlocks c0 len ofs
    let late := s.played r.1
    let s := if late then s.lateCopy n else s
    if s.played r.2 then s
    else
      let v := s.rxAt n r.1
      let seen := (s.block, src) :: v.seen.filter fun x => decide (s.block < x.1 + 16)
      let take (s : State) : State :=
        let f := if half then s.doubleFrames k.frames else (k.frames, s)
        f.2.takeCopy n { c0 with frames := f.1 } r.1
      match v.held.find? fun c => c.p == k.p with
      | some c =>
        if c.seq != k.seq then s.bumpRx n 11
        else
          let s := s.setRxAt n r.1 { v with seen := seen }
          if c.conc && !k.conc then take ((s.bumpRx n 8).raise Pg.STRX 9) else s.bumpRx n (4 + src)
      | none =>
        let gap := match v.seq with
          | some x => k.seq != (x + 1) % (if eRtp w then 65536 else 256)
          | none => false
        let m : Int := s.rd R.STRX_CFG_UND_TICK - (((s.block : Int) - r.1 - 1) * 1024 + s.tick)
        let margins := if late then v.margins
          else (v.margins.filter fun x => decide (s.block < x.1 + 12000) && decide (x.2 < m)) ++ [(s.block, m)]
        let s := (s.setRxAt n r.1 { v with seen := seen, seq := some k.seq, margins := margins }).bumpRx n src
        take (if gap then s.bumpRx n 15 else s)

/-- What a frame is under a bank's tables: the entry it matches with its packet, where it matches one. -/
def State.parseCopy (s : State) (b : Mem) (h : Hdr) : Option (Nat × Option RxPkt) :=
  (rxMatch b h).map fun n =>
    let w := rxW b n 0
    (n, if eRtp w then s.parseRtp w (rxW b n 2) (rxW b n 3) h.payload else s.parseAaf w h.payload)

/-- The tables a frame is judged under: those before the last switch where its first sample enters ingest before it and the last block of theirs has
not passed its playout deadline (R241). -/
def State.copyTables (s : State) (h : Hdr) : Mem :=
  match s.str.rxWas with
  | some (smp, old) =>
    match s.parseCopy old h with
    | some (n, some k) =>
      let w := rxW old n 0
      if s.ingestAt ⟨k.p, !e96 w, 0, false, 0, []⟩ (herdOfs old (eHerd w)) < smp && !s.played (smp / 8 - 1) then old else s.active
    | _ => s.active
  | none => s.active

/-- A table apply that has reached its boundary (R242). -/
def State.applyDue (s : State) : Bool :=
  (s.str.rxApply.any fun x => decide (x.1 ≤ s.block)) || s.str.txApply.any fun x => decide (x.1 ≤ s.block)

/-- COPY_RECEIVE (R244): a stream packet, without its FCS, from an external port; a switch of the tables due at this instant comes first. -/
def doCopyReceive (port : Nat) (frame : Bytes) (s : State) : State :=
  if !s.heard port || !s.enabled Pg.STRX || !s.mode.cur.counts || s.switchDue || s.applyDue then s
  else
    let h := parseFrame frame
    let b := s.copyTables h
    match s.parseCopy b h with
    | none => s.inc R.STRX_NOSTREAM_COUNT
    | some (n, none) => s.bumpRx n 12
    | some (n, some k) =>
      match copySrc b n port h.src with
      | none => s.bumpRx n 14
      | some src => s.judgeCopy b n src k

/-! Underruns, gangs and idling (R246 to R249). -/

/-- UNDERRUN (R246, R249): the block of a stream that has not all arrived by UND_TICK is concealed and tainted, with its gang. -/
def doUnderrun (n : Nat) (s : State) : State :=
  if s.block = 0 then s
  else
    let blk := s.block - 1
    let b := s.rxBank blk
    let v := s.rxAt n blk
    if s.rxLive n blk && decide (s.rd R.STRX_CFG_UND_TICK ≤ s.tick) && !s.played blk && v.judged != some blk && s.rxFills n blk
        && (s.streamBlock n blk).isNone then
      let h := eHerd (rxW b n 0)
      let run := if v.under && 0 < blk && v.judged == some (blk - 1) then v.run + 1 else 1
      let s := ((s.setRxAt n blk { v with judged := some blk, under := true, run := run }).bumpRx n 13).raise Pg.STRX 8
      let s := if (s.herd h).under == some blk then s
        else ((s.setHerd h { s.herd h with under := some blk }).inc (R.HRD_UNDER_COUNT h)).raise Pg.HRD 8
      if herdGang b h then
        if (s.herd h).gang.any fun g => g.1 == blk then s
        else
          let mem := (herdMembers b h).filter fun m => s.rxFills m blk
          let s := mem.foldl (fun s m => s.concealStream m blk) s
          (s.setHerd h { s.herd h with gang := some (blk, mem) }).raise Pg.HRD 9
      else s.concealStream n blk
    else s

/-- The ingest block judged last (R246), where one has been. -/
def State.lastJudged (s : State) : Option Nat :=
  let back := if s.rd R.STRX_CFG_UND_TICK ≤ s.tick then 1 else 2
  if back ≤ s.block then some (s.block - back) else none

/-- UNDER of a stream: the block judged last underran. -/
def State.rxUnder (s : State) (n : Nat) : Bool := s.lastJudged.any fun blk => s.underran n blk

/-- PLAYOUT_DEADLINE (R243): copies whose last block has passed its deadline are released, 128 samples after their ingest (R248), and what stood
before a switch once its last block has passed. -/
def doPlayoutDeadline (s : State) : State :=
  let rx := s.str.rx.filterMap (fun x =>
    let v := { x.2 with held := x.2.held.filter (fun c =>
      let ofs := herdOfs s.active (eHerd (rxW s.active x.1 0))
      let e := s.ingestAt c ofs + c.frames.length
      !(s.played ((e - 1).toNat / 8)) || decide ((s.smp : Int) < e + 128)) }
    if v = rx0 x.1 then none else some (x.1, v))
  let over' := s.str.rxWas.any fun w => s.played (w.1 / 8 - 1)
  { s with str := { s.str with rx := rx, rxWas := if over' then none else s.str.rxWas, rxPast := if over' then [] else s.str.rxPast } }

/-- SRC_LOST (R247): IDLE at the 16th underrun in a row, or after 12,000 blocks of waiting. -/
def doSrcLost (n : Nat) (s : State) : State :=
  let v := s.rx n
  let under := v.state == .receiving && decide (16 ≤ v.run) && s.rxUnder n
  if eEn (rxW s.active n 0) && s.enabled Pg.STRX && (under || (v.state == .waiting && decide (v.start + 12000 ≤ s.block))) then
    (s.setRx n { v with state := .idle }).raise Pg.STRX 10
  else s

/-- Every held copy discarded and every stream WAITING (DARK, BOOT). -/
def State.streamsDark (s : State) : State :=
  { s with str := { s.str with rxWas := none, rxPast := [], rx := s.str.rx.filterMap (fun x =>
      let v := { x.2 with state := .waiting, start := s.block, held := [], seq := none, run := 0 }
      if v = rx0 x.1 then none else some (x.1, v)) } }

/-! Develops and applies on the receive side (R241, R242, R248). -/

/-- The regions that an apply takes (R242). -/
def rxRegions : List (Nat × Nat) := [(0x601000, 0x603000), (0x604000, 0x605000), (0x609000, 0x609080)]
def txRegions : List (Nat × Nat) := [(0x603000, 0x604000), (0x605000, 0x609000)]

/-- Regions of one bank put into another. -/
def putRegions (a b : Mem) (l : List (Nat × Nat)) : Mem := l.foldl (fun m r => spliceM m b r.1 r.2) a

/-- The receive tables switch at a sample (R241): an entry that stays enabled with unchanged ID and source MACs keeps what it holds, any other
changed one starts afresh; blocks before the sample keep the old tables and streams. -/
def State.rxRefresh (s : State) (old : Mem) (smp : Nat) : State :=
  let s := { s with str := { s.str with rxWas := some (smp, putRegions [] old rxRegions), rxPast := [] } }
  (List.range 256).foldl (fun s n =>
    let key (b : Mem) : List Nat := [1, 2, 4, 5, 6, 7].map (rxW b n)
    let was := eEn (rxW old n 0)
    let is := eEn (rxW s.active n 0)
    if (was || is) && !(was && is && key old == key s.active) then
      let v := s.rx n
      { s.setRx n { (rx0 n) with start := smp / 8, cnt := v.cnt } with
        str := { (s.setRx n { (rx0 n) with start := smp / 8, cnt := v.cnt }).str with
          rxPast := if was then tset noPast s.str.rxPast n (some v) else s.str.rxPast } }
    else s) s

/-! Validity (R234, R240). -/

/-- The channels that the enabled AES67 entries of a direction carry, and the offset of the entry that takes the count past 256. -/
def rtpChans (w : Nat → Nat) (n base : Nat) : Nat × Option Nat :=
  (List.range n).foldl (fun a i =>
    if eEn (w i) && eRtp (w i) then
      let c := a.1 + eCh (w i)
      (c, a.2 <|> if 256 < c then some (base + 32 * i) else none)
    else a) (0, none)

/-- Whether an entry's word 0 breaks Table 9.1. -/
def badKind (w : Nat) (tx : Bool) : Bool :=
  eCh w == 0 || decide (56 < eCh w)
    || (if eRtp w then e96 w || (eFmt w != 0 && (tx || eFmt w != 3)) else eFmt w == 3)

/-- Samples per AES67 packet by PTIME. -/
def ptimeN (w : Nat) : Nat := nth 6 [6, 12, 16, 48] (bitsN w 24 2)

/-- Octets of a transmit frame (R231; AES67: tag, IPv4, UDP and RTP headers and FCS). -/
def txFrameLen (w : Nat) : Nat :=
  if eRtp w then 62 + eCh w * ptimeN w * fmtBytes (eFmt w) else 46 + eCh w * (if e96 w then 8 else 4) * fmtBytes (eFmt w)

/-- The first invalid word of the receive region of a bank (R240), `old` being the bank whose RX_OFS it follows. -/
def rxInvalid (old b : Mem) : Option Nat :=
  let w (n i : Nat) : Nat := rxW b n i
  let en (n : Nat) : Bool := eEn (w n 0)
  let dup (n : Nat) : Bool := (List.range n).any fun m => en m && eRtp (w m 0) == eRtp (w n 0) && w m 1 == w n 1
    && (if eRtp (w n 0) then bitsN (w m 2) 0 16 == bitsN (w n 2) 0 16 else w m 2 == w n 2)
  lowerOf ((List.range 256).findSome? fun n =>
    if !en n then none
    else if badKind (w n 0) false then some (0x601000 + 32 * n)
    else if dup n then some (0x601004 + 32 * n)
    else if macOf (w n 4) (w n 5) = 0 then some (0x601010 + 32 * n)
    else none) (rtpChans (fun n => w n 0) 256 0x601000).2
  <|> ((List.range 1024).findSome? fun i =>
    let m := rxMap b i
    if bitN m 31 = 1 ∧ (!en (bitsN m 0 8) ∨ eCh (w (bitsN m 0 8) 0) ≤ bitsN m 8 6) then some (0x604000 + 4 * i) else none)
  <|> ((List.range 32).findSome? fun h => if herdOfs old h + 128 < herdOfs b h then some (0x609000 + 4 * h) else none)

/-- The first invalid word of the transmit region of a bank (R240). -/
def txInvalid (b : Mem) : Option Nat :=
  let w (n i : Nat) : Nat := txW b n i
  lowerOf ((List.range 128).findSome? fun n =>
    let w0 := w n 0
    if !eEn w0 then none
    else if badKind w0 true || (eRtp w0 && decide (1440 < eCh w0 * ptimeN w0 * fmtBytes (eFmt w0))) || decide (9216 < txFrameLen w0) then
      some (0x603000 + 32 * n)
    else if !e96 w0 && decide (bitsN (w n 6) 0 14 < 24) then some (0x603018 + 32 * n)
    else none) (rtpChans (fun n => w n 0) 128 0x603000).2

/-- The first reserved encoding of the receive region (Tables 9.3, 9.5 and 9.7). -/
def rxReserved (b : Mem) : Option Nat :=
  let w (n i : Nat) : Nat := rxW b n i
  ((List.range 256).findSome? fun n =>
    let o := 0x601000 + 32 * n
    if bitsN (w n 0) 5 3 ≠ 0 ∨ bitsN (w n 0) 14 2 ≠ 0 ∨ bitsN (w n 0) 21 11 ≠ 0 then some o
    else if eRtp (w n 0) ∧ bitsN (w n 2) 23 9 ≠ 0 then some (o + 8)
    else if !eRtp (w n 0) ∧ w n 3 ≠ 0 then some (o + 12)
    else if bitsN (w n 5) 16 16 ≠ 0 then some (o + 20)
    else if bitsN (w n 7) 16 16 ≠ 0 then some (o + 28)
    else none)
  <|> ((List.range 1024).findSome? fun i => if bitsN (rxMap b i) 14 17 ≠ 0 then some (0x604000 + 4 * i) else none)
  <|> ((List.range 32).findSome? fun h =>
    let x := bkW b (0x609000 + 4 * h)
    if bitsN x 1 15 ≠ 0 ∨ bitsN x 26 6 ≠ 0 then some (0x609000 + 4 * h) else none)

/-- The first reserved encoding of the transmit region (Tables 9.4 and 9.5). -/
def txReserved (b : Mem) : Option Nat :=
  let w (n i : Nat) : Nat := txW b n i
  ((List.range 128).findSome? fun n =>
    let o := 0x603000 + 32 * n
    let w0 := w n 0
    if bitsN w0 5 3 ≠ 0 ∨ bitsN w0 14 10 ≠ 0 ∨ bitsN w0 26 2 ≠ 0 ∨ bitN w0 31 = 1 ∨ eFmt w0 = 3 ∨ (!eRtp w0 ∧ bitsN w0 24 2 ≠ 0) then some o
    else if eRtp w0 ∧ bitsN (w n 2) 23 9 ≠ 0 then some (o + 8)
    else if !eRtp w0 ∧ w n 3 ≠ 0 then some (o + 12)
    else if bitsN (w n 5) 28 4 ≠ 0 then some (o + 20)
    else if 9600 < bitsN (w n 6) 0 14 ∨ bitsN (w n 6) 14 18 ≠ 0 then some (o + 24)
    else if !eRtp w0 ∧ w n 7 ≠ 0 then some (o + 28)
    else none)
  <|> ((List.range 128).findSome? fun n => (List.range 64).findSome? fun c =>
    let m := txMap b n c
    let o := (0x605000 + 128 * n + 2 * c) / 4 * 4
    if (56 ≤ c ∧ m ≠ 0) ∨ bitsN m 10 5 ≠ 0 then some o else none)

/-- STRX_APPLY.NEXT or STTX_APPLY.NEXT written 1 (R242); the boundary travels with a mirrored write. -/
def State.streamApply (s : State) (tx : Bool) (path off : Nat) (bnd : Option Nat) : State :=
  let pg := if tx then Pg.STTX else Pg.STRX
  if (if tx then s.str.txApply else s.str.rxApply).isSome then s
  else if s.dev.state == .armed then s.err pg off 0x05 path 1
  else
    let b := putRegions s.active s.latent (if tx then txRegions else rxRegions)
    let n := if tx then rtpChans (fun n => txW b n 0) 128 0x603000 else rtpChans (fun n => rxW b n 0) 256 0x601000
    if n.2.isSome then s.err pg off 0x40 path (BitVec.ofNat 32 n.1)
    else match (if tx then txReserved b <|> txInvalid b else rxReserved b <|> rxInvalid s.active b) with
      | some o => s.err pg off 0x41 path (BitVec.ofNat 32 o)
      | none =>
        let blk := bnd.getD (s.block + 1 + (if s.mode.cur == .leader then 1 else 0))
        let keep := putRegions [] s.latent (if tx then txRegions else rxRegions)
        let s := if tx then { s with str := { s.str with txApply := some (blk, keep) } } else { s with str := { s.str with rxApply := some (blk, keep) } }
        s.wrB (if tx then R.STTX_APPLY_NEXT else R.STRX_APPLY_NEXT) true

/-! Transmission (R231, R233, R237, R238). -/

/-- The transmit map entry of a channel in force: during a drain it switches with the ECH it names (R241). -/
def State.txMapNow (s : State) (n c : Nat) : Nat :=
  let new := txMap s.active n c
  if !s.dev.draining then new
  else
    let old := txMap s.latent n c
    let e := if bitN new 15 = 1 then some (bitsN new 0 10) else if bitN old 15 = 1 then some (bitsN old 0 10) else none
    match e with
    | some e => if s.echSwitch e < s.dev.egressDone then new else old
    | none => new

/-- The bank of the other fields of a transmit entry: it switches with the deepest ECH that the stream names (R241). -/
def State.txEntryBank (s : State) (n : Nat) : Mem :=
  if !s.dev.draining then s.active
  else
    let deep := (List.range 56).foldl (fun d c =>
      let k (m : Nat) : Nat := if bitN m 15 = 1 then s.echSwitch (bitsN m 0 10) else 0
      max d (max (k (txMap s.active n c)) (k (txMap s.latent n c)))) 0
    if deep < s.dev.egressDone then s.active else s.latent

/-- The block of a channel as egress took it. -/
def State.txChan (s : State) (n c : Nat) : Chan :=
  let m := s.txMapNow n c
  if bitN m 15 = 1 then tget chanD s.jobs.ech (bitsN m 0 10) else chan0

/-- Whether egress plays in the present mode, and whether a stream sends at all (R238). -/
def State.sends (s : State) : Bool :=
  s.mode.cur.run && s.enabled Pg.STTX && !(s.mode.cur == .follower && s.twin.copy == .resync && decide (s.twin.copyBlk < s.block))

/-- A sample in the octets of a format, first octet most significant. -/
def sampleBytes (f : Nat) (x : Word) : Bytes :=
  if f = 0 then toBe 3 (sendWord 24 x) else if f = 1 then toBe 4 (sendWord 24 x * 256) else toBe 4 (sendWord 32 x)

/-- The octets of several frames of samples. -/
def frameBytes (f : Nat) (l : List (List Word)) : Bytes := l.flatMap fun fr => fr.flatMap (sampleBytes f)

/-- The taint of a transmit stream's channels in the block egress has taken, kept for packets of several blocks. -/
def State.noteTaints (s : State) : State :=
  (List.range 128).foldl (fun s n =>
    let w := txW (s.txEntryBank n) n 0
    if eEn w then
      let t := (List.range (eCh w)).any fun c => (s.txChan n c).taint
      let v := s.tx n
      s.setTx n { v with taints := (t :: v.taints).take 14 }
    else s) s

/-- The taints of the present egress block noted again once an egress stage has switched maps (R241). -/
def State.renoteTaints (s : State) : State :=
  { s with str := { s.str with tx := tmap tx0 (fun v => { v with taints := v.taints.drop 1 }) s.str.tx } }.noteTaints

/-- STREAM_APPLIED (R242): a table apply takes effect at its boundary. -/
def doStreamApplied (tx : Bool) (s : State) : State :=
  match (if tx then s.str.txApply else s.str.rxApply) with
  | none => s
  | some (blk, m) =>
    if decide (blk ≤ s.block) && !s.bndDue then
      let old := s.active
      let s := { s with active := putRegions s.active m (if tx then txRegions else rxRegions) }
      if tx then
        (({ s with str := { s.str with txApply := none } }.renoteTaints).wrB R.STTX_APPLY_NEXT false).raise Pg.STTX 11
      else
        (({ s with str := { s.str with rxApply := none } }.rxRefresh old (8 * blk)).wrB R.STRX_APPLY_NEXT false).raise Pg.STRX 11
    else s

/-- The samples of `k` consecutive frames at 48 kHz: the decimator's output, whose values the spec does not state (R171); zero in
QUIESCE and on unused channels. -/
def State.halfFrames (s : State) (n ch k : Nat) (live : Bool) : List (List Word) × State :=
  let c := s.freeCtr
  ((List.range k).map fun f => (List.range ch).map fun x =>
      if live && bitN (s.txMapNow n x) 15 == 1 then Config.freeWord (c + f * ch + x) else 0,
    { s with freeCtr := c + k * ch })

/-- A packet queued for network A and for network B, counted, and its taint flagged. -/
def State.queuePacket (s : State) (n : Nat) (h : Hdr) (pcp vid : Nat) (tainted flag : Bool) : State :=
  let s := s.sendFrom4 h pcp vid (fun e => decide (e < 2)) none
  let s := s.sendFrom4 h pcp vid (fun e => decide (2 ≤ e)) none
  let s := s.emit (.packet n (buildFrame h (some (pcp, vid))))
  let v := s.tx n
  let s := s.setTx n { v with last := some s.block, sent := min 0xFFFFFFFF (v.sent + 2),
                              flagged := if tainted then min 0xFFFFFFFF (v.flagged + 2) else v.flagged }
  if flag then s.raise Pg.STTX 8 else s

/-- An AVTP packet of the present egress block. -/
def State.sendAvtp (s : State) (b : Mem) (n : Nat) : State :=
  let w := txW b n 0
  let ch := eCh w
  let live := s.mode.cur != .quiesce
  let e := s.tlOf (8 * s.block)
  let fr := if e96 w then
      ((List.range 8).map fun k => (List.range ch).map fun c => if live then nth 0 (s.txChan n c).smp k else 0, s)
    else s.halfFrames n ch 4 live
  let s := fr.2
  let tainted := live && (List.range ch).any fun c => (s.txChan n c).taint
  let ts := unsignedN 32 (stampNs (e + bitsN (txW b n 6) 0 14 - s.tlOfs))
  let fmt := aafFmt (eFmt w)
  let data := frameBytes (eFmt w) fr.1
  let pl := toBe 1 2 ++ toBe 1 (0x81 + 8 * b2n s.str.mr) ++ toBe 1 (unsignedN 8 (e / 8)) ++ toBe 1 (b2n (!s.srcPtp))
    ++ toBe 4 (txW b n 2) ++ toBe 4 (txW b n 1) ++ toBe 4 ts ++ toBe 1 fmt.1 ++ toBe 1 ((if e96 w then 0x70 else 0x50) + ch / 256)
    ++ toBe 1 (ch % 256) ++ toBe 1 fmt.2 ++ toBe 2 data.length ++ toBe 1 (b2n tainted) ++ toBe 1 0 ++ data
  s.queuePacket n ⟨macOf (txW b n 4) (txW b n 5), s.mac, none, 0x22F0, pl⟩ (bitsN w 28 3) (bitsN (txW b n 5) 16 12) tainted tainted

/-- The 48 kHz media count of the first sample of the AES67 packet whose last sample egress takes in a block, if there is one (R237). -/
def rtpFirst (e : Int) (n : Nat) : Option Int :=
  let last := (e + 7 - 1) / 2
  let m0 := (last + 1) / n * n - n
  if e ≤ 2 * (m0 + n) - 1 ∧ 2 * (m0 + n) - 1 ≤ e + 7 then some m0 else none

/-- An AES67 packet whose last sample egress takes in the present block. -/
def State.sendRtp (s : State) (b : Mem) (n : Nat) : State :=
  let w := txW b n 0
  let ch := eCh w
  let k := ptimeN w
  let e := s.tlOf (8 * s.block) - s.tlOfs
  match rtpFirst e k with
  | none => s
  | some m0 =>
    let live := s.mode.cur != .quiesce
    let fr := s.halfFrames n ch k live
    let s := fr.2
    let blocks := ((e + 7 - 2 * m0) / 8).toNat + 1
    let tainted := live && ((s.tx n).taints.take blocks).any id
    let data := frameBytes 0 fr.1
    let m := (2 * m0 + bitsN (txW b n 6) 0 14) / 2
    let rtp := toBe 1 0x80 ++ toBe 1 (bitsN (txW b n 2) 16 7) ++ toBe 2 (unsignedN 16 (m0 / k)) ++ toBe 4 (unsignedN 32 (m + txW b n 3))
      ++ toBe 4 (txW b n 7) ++ data
    let pl := s.ipUdp (txW b n 1) (bitsN (txW b n 2) 0 16) rtp
    s.queuePacket n ⟨macOf (txW b n 4) (txW b n 5), s.mac, none, 0x0800, pl⟩ (bitsN w 28 3) (bitsN (txW b n 5) 16 12) tainted false

/-- Whether a transmit stream has a packet to queue in the present block. -/
def State.packetDue (s : State) (n : Nat) : Bool :=
  let w := txW (s.txEntryBank n) n 0
  s.sends && eEn w && (s.tx n).last != some s.block
    && (!eRtp w || (rtpFirst (s.tlOf (8 * s.block) - s.tlOfs) (ptimeN w)).isSome)

/-- STREAM_PACKET_QUEUE (R237): the packet of a transmit stream, once per egress block that completes one, in ascending stream number. -/
def doStreamPacketQueue (n : Nat) (s : State) : State :=
  let b := s.txEntryBank n
  if s.packetDue n && !s.switchDue && !s.applyDue && !(List.range n).any s.packetDue then
    if eRtp (txW b n 0) then s.sendRtp b n else s.sendAvtp b n
  else s

/-! Values of the STRX, STTX and HRD pages. -/

/-- STRX_USE and STTX_USE. -/
def rxUse (b : Mem) : Nat × Nat :=
  (((List.range 256).filter fun n => eEn (rxW b n 0)).length, (rtpChans (fun n => rxW b n 0) 256 0).1)
def txUse (b : Mem) : Nat × Nat :=
  (((List.range 128).filter fun n => eEn (txW b n 0)).length, (rtpChans (fun n => txW b n 0) 128 0).1)

/-- The sources of a stream seen over the last 16 blocks, as bits. -/
def State.srcSeen (s : State) (n : Nat) : Nat :=
  (((List.range 4).filter fun k => (s.rx n).seen.any fun x => x.2 == k && decide (s.block < x.1 + 16)).map fun k => 2 ^ k).foldl (· + ·) 0

/-- Whether a RECEIVING stream has seen copies from only one network (R247). -/
def State.oneNet (s : State) (n : Nat) : Bool :=
  (s.rx n).state == .receiving &&
    (let m := s.srcSeen n
     (bitsN m 0 2 != 0) != (bitsN m 2 2 != 0))

/-- STATE of STRX_ST. -/
def State.rxCode (s : State) (n : Nat) : Nat :=
  if !eEn (rxW s.active n 0) then 0 else match (s.rx n).state with
    | .waiting => 1
    | .receiving => 2
    | .idle => 3

/-- STRX_ST_MARGIN. -/
def State.rxMargin (s : State) (n : Nat) : Int :=
  let l := ((s.rx n).margins.filter fun x => decide (s.block < x.1 + 12000)).map (·.2)
  max (-32768) (l.foldl min 32767)

end Sys2Proof.Machine
end

