-- ==== Sys2Proof/Machine/Twin.lean ====
section
/-! DEFINITION. Chapter 11, twin redundancy: the link and the pairing, heartbeats, witnesses, drive and leadership, block messages,
digests, resynchronisation and joining. -/

namespace Sys2Proof.Machine

/-- The twin unit rewritten. -/
def State.setTwin (s : State) (t : TwinSt) : State := { s with twin := t }

/-- The present block by TL, as the twins number it (Table 11.3). -/
def State.tlBlock (s : State) : Nat := s.tl / 8

/-- The encoding of TW_STAT.ROLE. -/
def Mode.role : Mode → Nat
  | .boot => 0 | .commission => 6 | .standalone => 1 | .leader => 2 | .follower => 3 | .orphan => 4 | .quiesce => 5 | .dark => 0

/-- The modes in which heartbeats are sent (R310, R312). -/
def State.beats (s : State) : Bool :=
  s.on R.TW_CFG_EN && (match s.mode.cur with | .leader => true | .follower => true | .orphan => true | .quiesce => true | _ => false)

/-- A mode change takes place (R30): PREV is the mode that QUIESCE was entered from; the device watchdog restarts on leaving FOLLOWER
(R54); the leader's selection ends with FOLLOWER (R287); the ordinary clock is slave-only in FOLLOWER and ORPHAN (R256). -/
def State.setMode (s : State) (m : Mode) : State :=
  let old := s.mode.cur
  let s := { s with mode := { s.mode with cur := m, prev := if m = Mode.quiesce then old else s.mode.prev } }
  let s := if old == .follower then
      { s with host := { s.host with wdtSince := s.smp, wdtWarned := false }, ref := { s.ref with leader := false } }
    else s
  let s := s.setTwin { s.twin with wdDrop := false }
  s.ptpDemote.raise Pg.MODE 8

/-! Resynchronisation (R303 to R309). -/

/-- The bytes of job state that a copy takes (R306): the current half of every live instance. -/
def State.stateTotal (s : State) : Nat := (live s.active).foldl (fun n j => n + 64 * (progE s.active (instE s.active j).prog).stateLen) 0

/-- A copy to this chip begins, or begins again. -/
def State.beginCopy (s : State) (k : CopyKind) : State :=
  s.setTwin { s.twin with copy := k, copyBlk := if s.twin.copy = .none then s.block else s.twin.copyBlk, inStep := false, slice := [], got := [],
                          installed := [], rejoin := none, takeAt := none, askNo := s.twin.askNo + 1, banks := .none,
                          toCopy := s.stateTotal, copied := 0 }

/-- A copy to this chip ends: done, or unfinished because the link has gone or the chip has taken drive (R309). -/
def State.endCopy (s : State) : State :=
  s.setTwin { s.twin with copy := .none, slice := [], got := [], installed := [], rejoin := none, takeAt := none, banks := .none, toCopy := 0, copied := 0 }

/-- A resynchronisation begins, or begins again, in FOLLOWER; a copy to a joining chip begins again (R304, R306). -/
def State.startResync (s : State) : State :=
  if s.twin.copy = .join then (s.beginCopy .join).inc R.TW_RESYNC_COUNT
  else if s.twinMode == .follower then (s.beginCopy .resync).inc R.TW_RESYNC_COUNT
  else s

/-- MISMATCH (R303): counted and reported; a follower starts a resynchronisation. -/
def State.mismatch (s : State) : State :=
  let s := (s.inc R.TW_MISMATCH_COUNT).raise Pg.TW 11
  if s.twinMode == .leader then s else s.startResync

/-- A write of TW_CTRL.RESYNC (R304). -/
def State.resyncCmd (s : State) : State := if s.mode.cur == .follower then s.startResync else s

/-! Witnesses (R316, R317, R322, R324). -/

/-- Witnesses count only when gained in FOLLOWER or ORPHAN (R317). -/
def State.witnesses (s : State) : Bool := s.mode.cur == .follower || s.mode.cur == .orphan

/-- A RELINQUISH stands for 2 samples after its receipt (R317). -/
def State.relqStands (s : State) : Bool := match s.twin.wRelq with | some t => decide (s.clk < t + 256) | none => false

/-- The cause of TW_LAST_HO for the witnesses that take drive (Table 11.6); none where they do not. -/
def State.takeCause (s : State) : Option Nat :=
  let t := s.twin
  if !t.wIn || t.driveIn then none
  else if s.mode.cur == .orphan then some 4
  else if s.mode.cur != .follower then none
  else if s.relqStands then some 1
  else match t.wLink with
    | some silent => some (if silent then 2 else 3)
    | none => none

/-- The cause for which leadership falls to this chip (Table 11.6). -/
def State.leadCause (s : State) : Option Nat :=
  match s.takeCause with
  | some c => if c = 1 || c = 4 || s.twin.wNet then some c else none
  | none => none

/-- Leadership noted once its witnesses are held: it is taken at the next block boundary (R320). -/
def State.judge (s : State) : State :=
  match s.leadCause with
  | some c => if s.twin.leadDue.isNone then s.setTwin { s.twin with leadDue := some c } else s
  | none => s

/-- TWIN_DEGRADED (R322): the twin-link path lost, the network path present, and the leader keeps drive. -/
def State.degrade (s : State) : State :=
  let t := s.twin
  let follows := s.mode.cur == .follower && t.wLink.isSome && t.driveIn
  let leads := s.mode.cur == .leader && !t.hb && t.drive
  if (follows || leads) && t.nhb && !t.deg then (s.setTwin { t with deg := true, peerStep := false }).raise Pg.TW 13 else s

/-- TW_DRIVE_OUT takes a level (R313). -/
def State.setDrive (s : State) (on : Bool) : State :=
  if s.twin.drive = on then s
  else (s.setTwin { s.twin with drive := on, driveAt := if on then s.clk / 64 else s.twin.driveAt }).emit (.drive on)

/-- TW_LAST_HO and its TL. -/
def State.lastHo (s : State) (cause : Nat) (lead : Bool) : State :=
  let s := (s.wr R.TW_LAST_HO_CAUSE cause).wrB R.TW_LAST_HO_LEAD lead
  (s.setW A.TW_LAST_HO_TL_LO (BitVec.ofNat 32 s.tl)).setW A.TW_LAST_HO_TL_HI (BitVec.ofNat 32 (s.tl / 2 ^ 32))

/-- HANDOVER (R316): drive taken; a resynchronisation under way is abandoned (R309). -/
def State.handover (s : State) (cause : Nat) : State :=
  let s := s.setDrive true
  let s := if s.twin.copy = .none then s else s.endCopy
  ((s.inc R.TW_HANDOVER_COUNT).raise Pg.TW 8).lastHo cause false

/-- RELINQUISH sent (R319): in LEADER, with the twin FOLLOWER or ORPHAN as last heard, or whatever it is (R321). With no such twin
only the event is set. -/
def State.relinquish (s : State) (force : Bool) : State :=
  let t := s.twin
  if s.mode.cur != .leader || t.relq then s
  else if force || ((t.peerRole = 3 || t.peerRole = 4) && (t.hb || t.nhb)) then
    (((s.setTwin { t with relq := true }).inc R.TW_RELQ_CNT_COUNT).raise Pg.TW 10).emit (.twin .relinquish)
  else s.raise Pg.TW 10

/-- A write of TW_CTRL.RELINQUISH (R319). -/
def State.relinquishCmd (s : State) (path : Nat) (value : Word) : State :=
  let t := s.twin
  if s.mode.cur == .leader && t.peerRole = 3 && t.peerStep && (t.hb || t.nhb) then s.relinquish false
  else s.err Pg.TW 0x050 0x43 path value

/-! The link and the pairing (R292, R293). -/

/-- TWIN_LINK_UP (R293). -/
def doTwinLinkUp (p : PeerId) (s : State) : State :=
  if s.mode.cur.counts && s.twin.lanes = 0 && !s.pwr.twlOff then
    let s := s.setTwin { s.twin with lanes := 2, peerRev := p.siRev.toNat, peerPosA := p.posA }
    let same := s.rd R.DEV_REV_SI_REV = p.siRev.toNat
      && p.image = (List.range 8).map (fun i => s.getW (A.PWR_BOOT_DIG i))
    let placed := decide (p.pairId = s.rd R.TW_CFG_PAIR_ID) && p.posA != s.pwr.posA
    if same && placed then s.setTwin { s.twin with pairOk := true, refused := false }
    else
      let s := (s.setTwin { s.twin with pairOk := false, refused := true }).raise Pg.TW 17
      if same then s.err Pg.TW 0 0x41 0 0 else s.err Pg.TW 0 0x40 0 p.devRev
  else s

/-- TWIN_LINK_DOWN (R292): neither lane holds lock. -/
def doTwinLinkDown (s : State) : State :=
  if s.twin.lanes = 0 then s
  else
    let s := s.setTwin { s.twin with lanes := 0, pairOk := false, refused := false }
    (s.inc R.TW_LINK_DOWN_COUNT).raise Pg.TW 16

/-- LANE_FAIL (R292): one of two lanes fails. -/
def doLaneFail (s : State) : State :=
  if s.twin.lanes = 2 then (s.setTwin { s.twin with lanes := 1 }).inc R.TW_LANE_FAIL_COUNT else s

/-- LANE_RETURN (R292). -/
def doLaneReturn (s : State) : State := if s.twin.lanes = 1 then s.setTwin { s.twin with lanes := 2 } else s

/-! Heartbeats (R310 to R312). -/

/-- HEARTBEAT_SEND (R310). -/
def doHeartbeatSend (s : State) : State :=
  if s.beats && s.twUp then
    s.emit (.twin (.heartbeat ⟨s.tlBlock, s.psm.feed, Fin.ofNat 8 s.mode.cur.role, s.twin.drive, s.twin.relq⟩))
  else s

/-- A RELINQUISH received (R317). -/
def State.takeRelq (s : State) : State :=
  if s.witnesses then
    let first := !s.relqStands
    let s := s.setTwin { s.twin with wRelq := some s.clk }
    (if first then s.raise Pg.TW 10 else s).judge
  else s

/-- The twin's role heard: a LEADER that learns of another LEADER relinquishes in position B (R321). -/
def State.hearRole (s : State) (role : Nat) : State :=
  let s := s.setTwin { s.twin with peerRole := role, peerStep := s.twin.peerStep && role = 3 }
  if s.mode.cur == .leader && role = 2 && !s.pwr.posA then s.relinquish true else s

/-- The twin-link path returns (R310): a follower without step resynchronises (R322), an orphan copies as a joining chip does (R325). -/
def State.pathBack (s : State) : State :=
  let s := s.setTwin { s.twin with hb := true, hbBack := none, wLink := none }
  if s.mode.cur == .follower && !s.twin.inStep && s.twin.copy = .none then s.startResync
  else if s.mode.cur == .orphan && s.twin.copy = .none then s.beginCopy .join
  else s

/-- TWIN_HEARTBEAT (R310, R317, R321). The path returns once heartbeats have arrived for one block with the counter advancing. -/
def doTwinHeartbeat (h : Heartbeat) (s : State) : State :=
  if s.twUp && s.on R.TW_CFG_EN then
    let t := s.twin
    let adv := h.feed != t.hbFeed
    let gap := usPassed (s.clk - t.hbAt) 2
    let back := if t.hb then none else if gap || t.hbBack.isNone then some s.clk else t.hbBack
    let fedAt := if adv then s.clk else t.hbFeedAt
    let s := s.setTwin { t with hbAt := s.clk, hbFeed := h.feed, hbFeedAt := fedAt, hbBack := back }
    let s := s.hearRole h.role.val
    let s := if h.relinquish then s.takeRelq else s
    match back with
    | some b => if decide (b + 1024 ≤ s.clk) && decide (b < fedAt) && !usPassed (s.clk - fedAt) (s.rd R.TW_HB_TMO_US) then s.pathBack else s
    | none => s
  else s

/-- The twin-link path is lost (R310). -/
def State.pathLost (s : State) (silent : Bool) : State :=
  let t := s.twin
  let s := s.setTwin { t with hb := false, hbBack := none, inStep := false, peerStep := false, wLink := if s.witnesses then some silent else none }
  let s := s.inc R.TW_HB_LOSS_COUNT
  let s := if s.twin.copy = .none then s else s.endCopy
  s.degrade.judge

/-- HB_SILENCE (R310): no heartbeat for 2 µs. -/
def doHbSilence (s : State) : State :=
  if s.twin.hb && usPassed (s.clk - s.twin.hbAt) 2 then s.pathLost true else s

/-- HB_STALL (R310): the counter has not advanced within TW_HB_TMO.US. -/
def doHbStall (s : State) : State :=
  if s.twin.hb && usPassed (s.clk - s.twin.hbFeedAt) (s.rd R.TW_HB_TMO_US) then s.pathLost false else s

/-- The management key as bytes (HST_NKEY0 to HST_NKEY7), if one is loaded. -/
def State.nkeyBytes (s : State) : Option Bytes :=
  if s.host.keyValid then some (s.host.nkey.flatMap fun w => toLe 4 w.toNat) else none

/-- The tag of a network heartbeat (Table 11.5). -/
def State.nhbTag (s : State) (m : Bytes) : Bytes :=
  match s.nkeyBytes with
  | some k => (hmac256 k m).take 16
  | none => List.replicate 16 0

/-- NET_HEARTBEAT_SEND (R312): at tick 0 of every block, to both networks. -/
def State.netHeartbeat (s : State) : State :=
  if s.beats then
    let m := toBe 1 0x20 ++ toBe 1 1 ++ toBe 2 (s.rd R.TW_CFG_PAIR_ID)
      ++ toBe 1 (b2n (!s.pwr.posA) + 2 * b2n s.twin.relq + 4 * b2n s.twin.drive + 16 * s.mode.cur.role) ++ toBe 1 0
      ++ toBe 4 (s.tlBlock % 2 ^ 32) ++ toBe 4 s.psm.feed.toNat ++ toBe 2 0
    let h : Hdr := ⟨0x034B5A0000B0, s.mac, none, 0x88B5, m ++ s.nhbTag m⟩
    let s := s.sendFrom4 h 7 (s.rd R.HST_NMGT_CFG_VID) (fun e => decide (e < 2)) (some 7)
    s.sendFrom4 h 7 (s.rd R.HST_NMGT_CFG_VID) (fun e => decide (2 ≤ e)) (some 7)
  else s

/-- Whether a heartbeat payload is valid but for its counter (R312). -/
def State.nhbOk (s : State) (b : Bytes) : Bool :=
  let m := b.take 16
  b.length ≥ 32 && be2 b 2 = s.rd R.TW_CFG_PAIR_ID && bitN (beNat ((b.drop 4).take 1)) 0 = b2n s.pwr.posA
    && beNat (b.take 2) = 0x2001 && (b.drop 16).take 16 = s.nhbTag m

/-- NET_HEARTBEAT (R312): judged; the counter is compared with the last valid heartbeat of its network. -/
def doNetHeartbeat (port : Nat) (b : Bytes) (s : State) : State :=
  if !(s.heard port && s.on R.TW_CFG_EN && s.mode.cur.counts) then s
  else
    let feed : Word := BitVec.ofNat 32 (beNat ((b.drop 10).take 4))
    let last := if port < 2 then s.twin.nhbA else s.twin.nhbB
    let adv := match last with | some x => x.2 != feed | none => true
    if s.nhbOk b && adv then
      let flags := beNat ((b.drop 4).take 1)
      let new := some (s.tlBlock, feed)
      let t := s.twin
      let t := if port < 2 then { t with nhbA := new } else { t with nhbB := new }
      let s := s.setTwin { t with nhb := true, npart := false, wNet := false, nhbMiss := if t.nhbJudged = s.tlBlock then t.nhbMiss else 0 }
      let s := s.hearRole (bitsN flags 4 3)
      let s := if bitN flags 1 = 1 then s.takeRelq else s
      s.degrade
    else s.inc R.TW_NHB_BAD_COUNT

/-- Whether a valid heartbeat has arrived in the present block. -/
def State.nhbSeen (s : State) : Bool :=
  let f (x : Option (Nat × Word)) : Bool := match x with | some y => y.1 == s.tlBlock | none => false
  f s.twin.nhbA || f s.twin.nhbB

/-- NHB_MISS (R312): at tick 512 a block without a valid heartbeat counts as missed; after TW_NHB_MISS.BLK of them the path is lost; with the
twin link intact that is a partition (R324). -/
def doNhbMiss (s : State) : State :=
  let t := s.twin
  if s.on R.TW_CFG_EN && t.nhb && decide (512 ≤ s.tick) && t.nhbJudged != s.tlBlock && !s.nhbSeen then
    let s := s.setTwin { t with nhbMiss := t.nhbMiss + 1, nhbJudged := s.tlBlock }
    if s.rd R.TW_NHB_MISS_BLK ≤ t.nhbMiss + 1 then
      let s := s.setTwin { s.twin with nhb := false, nhbMiss := 0, wNet := s.witnesses, npart := t.hb }
      let s := s.inc R.TW_NHB_LOSS_COUNT
      let s := if t.hb then s.raise Pg.TW 14 else s
      s.judge
    else s
  else s

/-! Block messages (R296, R303). -/

/-- CRC-64 of R301. -/
def crc64 (m : Bytes) : Nat := (crcMsb 64 0x42F0E1EBA9EA3693 (2 ^ 64 - 1) m) ^^^ (2 ^ 64 - 1)

/-- The next `n` bytes of a bank from an address, taken off a sorted list. -/
def takeLine (a : Nat) : Nat → Mem → Bytes × Mem
  | 0, m => ([], m)
  | n + 1, [] => let r := takeLine (a + 1) n []; (bankD a :: r.1, r.2)
  | n + 1, (k, v) :: t =>
    if k = a then (let r := takeLine (a + 1) n t; (v :: r.1, r.2))
    else (let r := takeLine (a + 1) n ((k, v) :: t); (bankD a :: r.1, r.2))

/-- The digest of `n` lines of a bank from line `i` on. -/
def bankLines (i : Nat) : Nat → Mem → Nat → Nat
  | 0, _, acc => acc
  | n + 1, m, acc =>
    let r := takeLine (64 * i) 64 m
    bankLines (i + 1) n r.2 (acc ^^^ crc64 (toLe 4 i ++ r.1))

/-- CDA or CDL of a bank (R302). -/
def bankDigest (b : Mem) : Nat := bankLines 0 131072 b 0

/-- H(c, k) of a channel's committed samples (R301). -/
def chanDigest (c k : Nat) (x : Chan) : Nat := crc64 (toLe 2 c ++ toLe 8 k ++ x.bytes)

/-- The output digest of the block egress has taken last, with both masks (R301). -/
def State.outDigest (s : State) (k : Nat) (mask : List Bool) : Nat :=
  (List.range 1216).foldl (fun a c =>
    let x := tget chanD s.jobs.ech c
    if x.taint || nth false mask c then a else a ^^^ chanDigest c k x) 0

/-! What a leader copies (R305, R306), at the 45 Gb/s that the link leaves for it (Table 11.2, log entry 52). -/

/-- The live instances in the order of R306: ascending depth, deadline, instance number. -/
def copyOrder (b : Mem) : List Nat :=
  let before (x y : Nat) : Bool :=
    let p := (depthOf b x, (instE b x).deadline)
    let q := (depthOf b y, (instE b y).deadline)
    decide (p.1 < q.1) || (p.1 == q.1 && (decide (p.2 < q.2) || (p.2 == q.2 && decide (x < y))))
  (live b).foldr (fun x l => (l.takeWhile fun y => before y x) ++ x :: l.dropWhile fun y => before y x) []

/-- The ticks that the link takes for a number of bytes (log entry 52). -/
def copyTicks (n : Nat) : Nat := (512 * n + 234374) / 234375

/-- Whether an instance's state, arriving at a tick, leaves 16 ticks and its COST before its deadline (R306). -/
def joinsSlice (b : Mem) (ovh j at_ : Nat) : Bool :=
  decide ((at_ + 16) * 15625 + 192 * cost b ovh j ≤ 15625 * (instE b j).deadline)

/-- The slice at the head of the instances still to go, whose first `n` bytes are taken, and what follows it: instances of one depth. -/
def takeSlice (b : Mem) (ovh d n : Nat) : List Nat → List Nat × List Nat
  | [] => ([], [])
  | j :: t =>
    let n' := n + 64 * (progE b (instE b j).prog).stateLen
    if depthOf b j = d ∧ joinsSlice b ovh j (copyTicks n') then (let r := takeSlice b ovh d n' t; (j :: r.1, r.2)) else ([], j :: t)

/-- The slice that goes next, and what follows it. -/
def State.nextSlice (s : State) : List Nat × List Nat :=
  match s.twin.give with
  | .insts (j :: t) => takeSlice s.active (bitsN (s.getW A.SCH_CAP).toNat 16 16) (depthOf s.active j) 0 (j :: t)
  | _ => ([], [])

/-- The converter channels' own estimates; a phase estimate has no stated form, and is a free value. -/
def State.convCopies (s : State) : List ConvCopy :=
  s.audio.convs.zipIdx.map fun x => ⟨x.1.1, x.1.2.ownRatio, Config.freeWord (s.freeCtr + x.2), x.1.2.ownLock⟩

/-- The state fields of the leader's message (Table 11.3). The PTP time at the boundary stands one sample of the oscillator ahead. -/
def State.leadMsg (s : State) : LeadMsg :=
  { tlOfs := s.tlOfs, mirrorSeq := s.twin.seqOut, convs := s.convCopies, servoI := s.ptp.i16, adj := s.ptp.adj16
    ptpTime := s.ptpNow + 125000 * 65536 / 12 + 125000 * s.ptp.adj16 / (12 * 1000000000)
    ptpState := Fin.ofNat 8 s.ptpState, parent := s.ptp.parent.getD 0, act := Fin.ofNat 8 s.ref.act, svc := Fin.ofNat 4 s.ref.svc
    waits := (List.range 8).map fun n => (s.cand n).wait, disq := (List.range 8).map fun n => (s.cand n).disq
    guarded := s.ref.guarded.map fun g => (g.u, g.t, g.a), phase := s.ref.loop.zero
    concealed := s.twin.inHold.map (·.conc), taint := s.twin.inHold.map (·.taint), slice := s.nextSlice.1 }

/-- What this chip asks of its leader. -/
def State.asks (s : State) : Ask :=
  let t := s.twin
  { takeover := t.joining && t.copy = .none && s.ref.act = 7 && s.ref.state == .locked
    copy := if t.copy = .none then none else some t.askNo, banks := t.banks, installed := t.rejoin.isSome }

/-- This chip's block message; the state fields come from a leader only (Table 11.2). The digests are those of the banks at the boundary (R302). -/
def State.blockMsg (s : State) : BlockMsg :=
  { block := s.tlBlock, lead := if s.leadsPair then some s.leadMsg else none, outQuality := s.outQ, twinOnCand7 := s.ref.act = 7
    cda := BitVec.ofNat 64 (bankDigest s.twin.bankA), cdl := BitVec.ofNat 64 (bankDigest s.twin.bankL), ask := s.asks }

/-- BLOCK_MESSAGE_SEND (R296): once in a block, from tick 960; a leader fixes what both chips use from the next boundary. -/
def doBlockMessageSend (s : State) : State :=
  if s.mode.cur.counts && s.linked && decide (960 ≤ s.tick) && s.twin.msgSent != s.tlBlock then
    let m := s.blockMsg
    let s := (s.setTwin { s.twin with msgSent := s.tlBlock, fixed := m.lead }).emit (.twin (.block m))
    { s with freeCtr := s.freeCtr + s.audio.convs.length }
  else s

/-- BLOCK_MESSAGE (R296): complete by tick 1016, it is kept for the next boundary; any chip learns the twin's output quality and whether it follows
candidate 7 (R262, R264), a leader what its twin asks. -/
def doBlockMessage (m : BlockMsg) (s : State) : State :=
  if s.twUp && decide (s.tick ≤ 1016) then
    let s := { s with ref := { s.ref with twinQ := m.outQuality, twinAct7 := m.twinOnCand7, heard7 := true } }
    if s.leadsPair then s.setTwin { s.twin with msg := some m, ask := m.ask }
    else if s.takesMsgs && m.lead.isSome then s.setTwin { s.twin with msg := some m } else s
  else s

/-- BLOCK_MESSAGE_MISSED (R296, R303). -/
def doBlockMessageMissed (s : State) : State :=
  if s.takesMsgs && s.twin.msg.isNone && decide (1016 ≤ s.tick) && s.twin.msgMissed != s.tlBlock then
    (s.setTwin { s.twin with msgMissed := s.tlBlock }).mismatch
  else s

/-- Estimates that a message or a slice brings come into use (R296, R306). -/
def State.useConvs (s : State) (l : List ConvCopy) : State := l.foldl (fun s x => s.useConv x.ch x.lock x.ratio x.phase) s

/-- The values of a block message taken at the boundary (Table 11.3); a leader that is grandmaster leaves the follower listening (R256). -/
def State.takeMsg (s : State) (m : LeadMsg) : State :=
  let s := s.setOfs m.tlOfs
  let s := s.setTwin { s.twin with seqIn := m.mirrorSeq, slice := if s.twin.copy = .none then [] else m.slice, got := [] }
  let s := s.useConvs m.convs
  let lead := decide (m.ptpState.val = 4)
  let s := (s.wr R.PTP_STAT_STATE (if lead then 1 else m.ptpState.val)).wrB R.PTP_STAT_GM false
  let s := { s with ptp := { s.ptp with time := m.ptpTime, i16 := m.servoI, adj16 := m.adj, adjNow := m.adj, leadGm := lead,
                                        parent := if m.parent = 0 then none else some m.parent } }
  let s := (List.range 8).foldl (fun s n => s.setCand n { s.cand n with wait := nth none m.waits n, disq := nth false m.disq n }) s
  { s with ref := { s.ref with leader := true, leadAct := m.act.val, leadPhase := m.phase, svc := m.svc.val,
                               guarded := m.guarded.map fun g => ⟨g.1, g.2.1, g.2.2⟩ } }

/-- The values that a chip without a leader's message uses from the boundary (R296): as a leader those that it has fixed, else its own. -/
def State.ownValues (s : State) : State :=
  let s := match s.twin.fixed with
    | some m => let s := s.useConvs m.convs; { s with ptp := { s.ptp with adjNow := m.adj } }
    | none => let s := s.useOwnConvs; { s with ptp := { s.ptp with adjNow := s.ptp.adj16 } }
  let s := s.setTwin { s.twin with fixed := none }
  if s.ref.leader then { s with ref := { s.ref with leader := false } } else s

/-- Whether the pair is in step, as this chip knows it. -/
def State.pairInStep (s : State) : Bool := s.twin.inStep || (s.twinMode == .leader && s.twin.peerStep)

/-- What the digests and the block number of a message show at its boundary (R303, R305): while in step, a CDA or block number that differs is a mismatch;
a follower asks for the banks that differ, and reports a CDL difference. A leader only reports. -/
def State.judgeMsg (s : State) (m : BlockMsg) : State :=
  let cda := decide (bankDigest s.twin.bankA ≠ m.cda.toNat)
  let cdl := decide (bankDigest s.twin.bankL ≠ m.cdl.toNat)
  let s := if s.pairInStep && (cda || m.block + 1 != s.tlBlock) then s.mismatch else s
  if s.twinMode == .leader then (if cdl && !cda && s.twin.peerStep then s.raise Pg.TW 19 else s)
  else if s.twin.banks = .none && s.twin.takeAt.isNone && decide (s.twin.bankAt < m.block) then
    if cda then s.setTwin { s.twin with banks := .both, toCopy := s.twin.toCopy + 2 ^ 24 }
    else if cdl then (s.setTwin { s.twin with banks := .latent, toCopy := s.twin.toCopy + 2 ^ 23 }).raise Pg.TW 19
    else s
  else s

/-- The message of a boundary (R296, R322): without one the chip's own estimates and its own selector stand (R287). -/
def State.boundaryMsg (s : State) : State :=
  match s.twin.msg with
  | none => s.ownValues
  | some m =>
    let s := s.setTwin { s.twin with msg := none }
    if s.leadsPair then s.ownValues.judgeMsg m
    else match m.lead with
      | some l => if s.takesMsgs then (s.takeMsg l).judgeMsg m else s.ownValues
      | none => s.ownValues

/-! What a leader sends at a boundary (R305, R306, R308, R326). -/

/-- One instance as it stands at the boundary. -/
def State.instCopy (s : State) (j : Nat) : List InstCopy :=
  if h : j < 40960 then
    [{ j := ⟨j, h⟩, half := mBytes zeroByte s.shm (s.stateHalf j false) (64 * (s.prog j).stateLen), parity := (tget inst0 s.jobs.inst j).parity
       stock := if clsOf s.active j = 0 then none else some (s.stockOf j) }]
  else []

/-- One power stage channel for a chip that rejoins (R341). -/
def State.chanCopy (s : State) (c : Fin 32) : ChanCopy :=
  let v := s.ps c.val
  let ramp := match v.st, v.ts with
    | .start, _ => s.tl + 8 - v.tr
    | .stopping, some ts => s.tl - ts
    | _, _ => s.tl - v.tr
  { ch := c, state := Fin.ofNat 8 v.st.code, ramp := ramp, gn := v.gn, gd := v.gd, win := v.win }

/-- The armed slots that a joining chip takes over (R326). -/
def State.slotCopies (s : State) : List SlotCopy :=
  (List.finRange 32).filterMap fun n =>
    let v := tget slot0 s.slots n.val
    if v.state == .armed then some ⟨n, v.tl, v.addr, v.data, Fin.ofNat 16 v.type, Fin.ofNat 16 v.path⟩ else none

/-- How much a chip asks for, to tell more from less. -/
def bankRank : Banks → Nat
  | .none => 0 | .latent => 1 | .both => 2

/-- A new request of the twin begins what it asks for. -/
def State.giveNew (s : State) : State :=
  let t := s.twin
  let a := t.ask
  if (a.copy.isSome && a.copy != t.gaveNo) || decide (bankRank t.gaveBanks < bankRank a.banks) then
    s.setTwin { t with gaveNo := a.copy, gaveBanks := a.banks, rejoinPeer := none
                       give := if a.banks = .both then .bank false none else if a.banks = .latent then .bank true none else .convs }
  else s

/-- A bank copy (R305): 18 blocks, while no develop is ARMED; the active bank's names the next boundary, and the latent one's follows it. -/
def State.giveBank (s : State) (latent : Bool) (since : Option Nat) : State :=
  if s.dev.state == .armed then s.setTwin { s.twin with give := .bank latent none }
  else match since with
    | none => s.setTwin { s.twin with give := .bank latent (some s.block) }
    | some b =>
      if b + 18 ≤ s.block then
        let next : Give := if !latent then .bank true none else if s.twin.ask.copy.isSome then .convs else .none
        (s.setTwin { s.twin with give := next, gaveBanks := if latent then .none else .latent }).emit
          (.twin (.bank latent (if latent then s.latent else s.active) (s.tlBlock + 1)))
      else s

/-- What a leader copies at a boundary: a bank, the converter state in one slice, or one slice of instances; and what a joining chip takes over. -/
def State.giveStep (s : State) : State :=
  if !s.leadsPair then s.setTwin { s.twin with give := .none, ask := ⟨false, none, .none, false⟩, gaveNo := none, gaveBanks := .none, rejoinPeer := none }
  else
    let s := s.giveNew
    let s := if s.twin.ask.takeover then s.emit (.twin (.takeover s.tl s.tlOfs s.slotCopies)) else s
    match s.twin.give with
    | .none => s
    | .sent => s
    | .bank l b => s.giveBank l b
    | .convs =>
      let order := copyOrder s.active
      let s := (s.setTwin { s.twin with give := if order = [] then .sent else .insts order }).emit (.twin (.slice s.convCopies [] (order = [])))
      { s with freeCtr := s.freeCtr + s.audio.convs.length }
    | .insts _ =>
      let r := s.nextSlice
      if r.1 = [] then s
      else (s.setTwin { s.twin with give := if r.2 = [] then .sent else .insts r.2 }).emit (.twin (.slice [] (r.1.flatMap s.instCopy) (r.2 = [])))

/-- The rejoin boundary (R308): named on the report, and there the twin is in step; the channels' states go with it (R341). -/
def State.giveRejoin (s : State) : State :=
  let t := s.twin
  let s := if s.leadsPair && t.ask.installed && t.rejoinPeer.isNone && !t.peerStep then s.setTwin { t with rejoinPeer := some (s.tlBlock + 1) } else s
  if s.leadsPair && t.rejoinPeer = some s.tlBlock then
    (s.setTwin { t with peerStep := true, deg := false, stepFrom := s.tlBlock, give := .none, rejoinPeer := none }).emit
      (.twin (.rejoin ((List.finRange 32).map s.chanCopy)))
  else s

/-- What a chip sends its twin at a boundary: the taint mask of the block just committed (R301), and a leader the serial inputs just formed (R295). -/
def State.sendBlock (s : State) : State :=
  if s.leadsPair || s.takesMsgs then
    let s := s.emit (.twin (.mask (s.tlBlock - 1) ((List.range 1216).map fun c => (tget chanD s.jobs.ech c).taint)))
    if s.leadsPair && s.on R.TW_CFG_INMIR then
      let l := s.twin.inHold
      s.emit (.twin (.inputs s.tlBlock (l.flatMap (·.smp)) (l.map (·.conc)) (l.map (·.taint))))
    else s
  else s

/-- DIGEST_RECEIVE (R301, R303): the twin's mask for the block committed last, upon which this chip's digest is computed and sent; the twin's digest, which is
compared while the pair is in step. -/
def doDigestReceive (k : Nat) (mask : Option (List Bool)) (d : Option (BitVec 64)) (s : State) : State :=
  if s.linked && k + 1 = s.tlBlock && !s.bndDue then
    let s := match mask with
      | some m => (s.setTwin { s.twin with mask := some (k, m) }).emit (.twin (.digest k (BitVec.ofNat 64 (s.outDigest k m))))
      | none => s
    match d, s.twin.mask with
    | some d, some (j, m) =>
      if j = k && s.pairInStep && decide (s.twin.stepFrom ≤ k) then
        let own := s.outDigest k m
        let s := (s.setW A.TW_DIG_LO (BitVec.ofNat 32 own)).setW A.TW_DIG_HI (BitVec.ofNat 32 (own / 2 ^ 32))
        let s := (s.setW A.TW_DIG_PEER_LO (BitVec.ofNat 32 d.toNat)).setW A.TW_DIG_PEER_HI (BitVec.ofNat 32 (d.toNat / 2 ^ 32))
        if own = d.toNat then s else s.setTwin { s.twin with bad := true }
      else s
    | _, _ => s
  else s

/-! Mirrored serial inputs (R295). -/

/-- MIRROR_BLOCK: the leader's block for the present ingest block. -/
def doMirrorBlock (blk : Nat) (samples : List Word) (conc taint : List Bool) (s : State) : State :=
  if s.on R.TW_CFG_INMIR && s.takesMsgs && blk = s.tlBlock && s.tick ≤ 256 && s.twin.mirror.isNone then
    let ch (i : Nat) : Chan := ⟨(List.range 8).map fun k => nth 0 samples (8 * i + k), nth false taint i, nth false conc i, false⟩
    s.setTwin { s.twin with mirror := some ⟨blk, (List.range 128).map ch, false⟩ }
  else s

/-- The concealment of a mirrored block that has not come, for ingest block `blk` (R295, R27). -/
def State.mirrorLost (s : State) (blk : Nat) : List Chan := (List.range 128).map fun i => concealed (s.ich (blk - 1) (1024 + i))

/-- MIRROR_BLOCK_MISSED, at tick 256. -/
def doMirrorBlockMissed (s : State) : State :=
  if s.on R.TW_CFG_INMIR && s.takesMsgs && decide (256 ≤ s.tick) && s.twin.mirror.isNone then
    s.setTwin { s.twin with mirror := some ⟨s.tlBlock, s.mirrorLost s.block, true⟩ }
  else s

/-- The leader's block with the concealment and taint that its block message decided (Table 11.3). -/
def Mirrored.judged (x : Mirrored) (m : LeadMsg) : List Chan :=
  if x.lost then x.chans
  else x.chans.zipIdx.map fun (c, i) => { c with conc := nth c.conc m.concealed i, taint := nth c.taint m.taint i }

/-- The serial inputs of the block that ends (R295): with TW_CFG.INMIR each block is ingested one block later; a chip that receives block messages takes the
leader's. -/
def State.ingestPins (s : State) (blk : Nat) : State :=
  let s' := s.ingestSerial blk
  if s.on R.TW_CFG_EN && s.on R.TW_CFG_INMIR then
    let formed := (List.range 128).map fun i => s'.ich blk (1024 + i)
    let lead := if s.takesMsgs then s.twin.msg.bind (·.lead) else none
    let use := match lead, s.twin.mirror with
      | some m, some x => x.judged m
      | some _, none => s.mirrorLost blk
      | none, _ => s.twin.inHold
    let s' := (List.range 128).foldl (fun s i => s.setIch blk (1024 + i) (nth chan0 use i)) s'
    s'.setTwin { s'.twin with inHold := formed, mirror := none }
  else s'

/-! Copies (R305 to R308). -/

/-- The latent bank replaced whole, with the marks of its words that ECC had found bad; the first write of R66. -/
def State.setLatent (s : State) (m : Mem) : State :=
  let keep (l : List Nat) : List Nat := l.filter fun a => !(decide (0x51000000 ≤ a) && decide (a < 0x51800000))
  { s with latent := m, fab := { s.fab with bad := keep s.fab.bad, ceWait := keep s.fab.ceWait } }

/-- BANK_COPY_DONE (R305): a copy of the leader's active bank arrives in the latent bank, to be taken whole at a boundary; or of its latent bank. -/
def doBankCopyDone (latent : Bool) (bytes : Mem) (boundary : Nat) (s : State) : State :=
  if s.takesMsgs then
    let s := s.setLatent (bytes.foldl (fun m x => tset bankD m x.1 x.2) [])
    let s := if s.dev.state == .undoHeld || s.dev.state == .checkFailed then { s with dev := { s.dev with state := .idle } } else s
    let t := { s.twin with copied := min s.twin.toCopy (s.twin.copied + 2 ^ 23), bankAt := s.tlBlock }
    s.setTwin (if latent then { t with banks := .none } else { t with banks := .latent, takeAt := some boundary })
  else s

/-- A line's blocks all tainted (R307). -/
def taintLine (l : Option LineSt) : Option LineSt := l.map fun x => { x with taints := List.replicate (x.len / 8 + 2) true }

/-- What an instance wrote before its installation is tainted (R307): its delay or FIR lines, and its internal returns. -/
def State.taintPast (s : State) (j : Nat) : State :=
  let b := s.active
  let busses := (List.range (numBus b j)).map (firstBus b j + ·)
  let s := if clsOf b j = 3 then busses.foldl (fun s n => { s with jobs := { s.jobs with dly := tmod noLine s.jobs.dly n taintLine } }) s else s
  let s := if clsOf b j = 4 then busses.foldl (fun s n => { s with jobs := { s.jobs with fir := tmod noLine s.jobs.fir n taintLine } }) s else s
  (outputs b j).foldl (fun s x =>
    if x.1 = 2 then
      (List.range 32).foldl (fun s i =>
        if i ≤ s.block then (let c := s.ich (s.block - i) x.2; s.setIch (s.block - i) x.2 { c with taint := true }) else s)
        { s with jobs := { s.jobs with retPrev := tmod chanD s.jobs.retPrev x.2 fun c => { c with taint := true } } }
    else s) s

/-- One instance installed (R306): its current half, its parity, and its release where that is due. -/
def State.install (s : State) (x : InstCopy) : State :=
  let j := x.j.val
  let i := tget inst0 s.jobs.inst j
  let s := { s with jobs := { s.jobs with inst := tset inst0 s.jobs.inst j { i with parity := x.parity, first := false } } }
  let s := match x.stock with
    | some v => s.putStock j v
    | none => { s with shm := mPutB zeroByte s.shm (s.stateHalf j false) (x.half.take (64 * (s.prog j).stateLen)) }
  let s := s.taintPast j
  let s := s.setTwin { s.twin with got := j :: s.twin.got, installed := j :: s.twin.installed, copied := min s.twin.toCopy (s.twin.copied + x.half.length) }
  doJobRelease j s

/-- SLICE_INSTALL (R306): converter state and instances installed; after the last slice the rejoin boundary is the second one (R308). -/
def doSliceInstall (convs : List ConvCopy) (insts : List InstCopy) (last : Bool) (s : State) : State :=
  if s.linked && s.twin.copy != .none then
    let s := s.useConvs convs
    let s := insts.foldl State.install s
    if last then s.setTwin { s.twin with rejoin := some (s.tlBlock + 2) } else s
  else s

/-- An instance of the present slice withdrawn late restarts the copy (R306). -/
def State.sliceCheck (s : State) : State :=
  if s.twin.copy != .none && s.twin.slice.any (fun j => (s.job j).phase == .late) then s.startResync else s

/-- One power stage channel as the leader had it at the rejoin boundary (R341); a channel under diagnostics starts by itself. -/
def State.takeChan (s : State) (x : ChanCopy) : State :=
  let c := x.ch.val
  let st := PsState.ofCode x.state.val
  let v := s.ps c
  let w := s.psCfg c
  let at_ := gridAt s.count (cfgN w) (cfgPhase w)
  let v := { v with n := cfgN w, ph := cfgPhase w, win := x.win, lim := false, live := false, e1 := 0, e2 := 0, ramp := bitsN (s.psDyn c) 16 14, ts := none,
                    mute := none, offAt := none, am := false, step := 0, cmd := false }
  match st with
  | .off | .diag => s.psLow c .off
  | .tripped => s.psLow c .tripped
  | .fault => s.psLow c .fault
  | .start => s.setPs c { v with st := st, next := some at_, tr := s.tl + (8 - x.ramp) }
  | .ramp | .run => s.setPs c { v with st := st, next := some at_, tr := s.tl - x.ramp }
  | .stopping => s.setPs c { v with st := st, next := some at_, tr := 0, ts := some (s.tl - x.ramp), gn := x.gn, gd := max 1 x.gd,
                                    offAt := some (4096 * (s.tl - x.ramp + 960)) }

/-- RESYNC_DONE (R308, R322, R325, R326): at the rejoin boundary the follower is in step, in QUIESCE too without leaving it (Table 1.5); an orphan or a joining
chip enters FOLLOWER there and takes the channel states (R341). A leader learns that its twin is in step. -/
def doResyncDone (chans : List ChanCopy) (s : State) : State :=
  let t := s.twin
  let enters := s.mode.cur == .orphan || (s.mode.cur == .commission && t.joining)
  if s.leadsPair then s.setTwin { t with peerStep := true, deg := false, stepFrom := if t.peerStep then t.stepFrom else s.tlBlock }
  else if s.atBoundary && t.copy != .none && t.rejoin = some s.tlBlock && (enters || s.twinMode == .follower) then
    let s := s.endCopy
    let s := s.setTwin { s.twin with inStep := true, stepFrom := s.tlBlock, deg := false, joining := false }
    let s := if enters then
        let s := s.setTwin { s.twin with wLink := none, wNet := false, wIn := false, wRelq := none, leadDue := none }
        let s := s.setMode .follower
        chans.foldl State.takeChan { s with mode := { s.mode with pend := none }, ref := { s.ref with leader := true } }
      else s
    (s.wrB R.TW_CTRL_LOCAL_WR false).raise Pg.TW 12
  else s

/-! Drive (R313 to R316, R319). -/

/-- A drive boundary: the start or the middle of a sample (R313). -/
def State.atDrive (s : State) : Bool := s.subTick % 64 == 0

/-- Whether position B must drop drive after both chips asserted at one boundary (R314). -/
def State.driveClash (s : State) : Bool := s.twin.drive && s.twin.driveIn && !s.pwr.posA && s.twin.driveAt + 1 == s.clk / 64

/-- DRIVE_BOUNDARY (R313 to R316, R319, R343). -/
def doDriveBoundary (s : State) : State :=
  if !s.atDrive then s
  else if s.driveClash then (s.setDrive false).raise Pg.TW 18
  else
    let t := s.twin
    match s.mode.cur with
    | .boot => s
    | .dark => s
    | .quiesce => s
    | .commission => if s.psTesting then (if t.driveIn then s else s.setDrive true) else s.setDrive false
    | .standalone => if !t.drive && !t.driveIn && (!t.wdDrop || decide (8 ≤ s.psm.fresh)) then (s.setTwin { t with wdDrop := false }).setDrive true else s
    | .leader =>
      if t.relq then s.setDrive false
      else if !t.drive && !t.driveIn && !t.wdDrop then s.setDrive true else s
    | .follower => if t.drive then s else (match s.takeCause with | some c => s.handover c | none => s)
    | .orphan => if t.drive then s else (match s.takeCause with | some c => s.handover c | none => s)

/-- DRIVE_IN_CHANGE (R290, R316): the filtered level; a fall in FOLLOWER or ORPHAN is a witness. -/
def doDriveInChange (level : Bool) (s : State) : State :=
  if s.twin.driveIn = level then s
  else if level then s.setTwin { s.twin with driveIn := true, wIn := false, leadDue := if s.twin.drive then s.twin.leadDue else none }
  else
    let s := s.setTwin { s.twin with driveIn := false, wIn := s.witnesses }
    let s := if s.mode.cur == .follower && s.takeCause.isNone then s.raise Pg.TW 21 else s
    s.judge

/-- FEED_LOST (R315): drive dropped at the first drive boundary after 4 sample periods without a fresh sample; in LEADER a relinquish cause. -/
def doFeedLost (s : State) : State :=
  if s.twin.drive && s.atDrive && decide (s.psm.fedAt + 512 ≤ s.clk) then
    let s := s.setDrive false
    let s := { s with psm := { s.psm with fresh := 0 } }
    let s := (s.setTwin { s.twin with wdDrop := true }).raise Pg.TW 20
    if s.mode.cur == .leader && s.on R.TW_REL_FEED then s.relinquish false else s
  else s

/-- RELINQUISH_TO_FOLLOWER (R319): at the block boundary after drive has dropped. -/
def doRelinquishToFollower (s : State) : State :=
  if s.mode.cur == .leader && s.twin.relq && s.atBoundary && !s.twin.drive then
    let s := s.setMode .follower
    let s := s.setTwin { s.twin with relq := false, inStep := false, peerStep := false, wLink := none, wNet := false, wIn := false, wRelq := none, leadDue := none }
    s.startResync
  else s

/-- RELINQUISH_WITNESS_EXPIRE (R317). -/
def doRelinquishWitnessExpire (s : State) : State :=
  match s.twin.wRelq with
  | some t => if t + 256 ≤ s.clk then s.setTwin { s.twin with wRelq := none } else s
  | none => s

/-- LEADERSHIP (R320): at the block boundary after the witnesses are held; drive is taken there if it is not held. A chip whose leader was grandmaster
takes over as grandmaster where its role allows (R260). -/
def doLeadership (s : State) : State :=
  match s.twin.leadDue with
  | none => s
  | some c =>
    if s.atBoundary && s.witnesses then
      let s := if s.twin.drive then s else s.handover c
      let s := if s.twin.copy = .none then s else s.endCopy
      let s := s.setMode .leader
      let s := { s with host := { s.host with wdtSince := s.smp, wdtWarned := false } }
      let s := s.setTwin { s.twin with leadDue := none, inStep := false, peerStep := false, deg := false, wLink := none, wNet := false, wIn := false, wRelq := none, msg := none }
      let s := if s.ptp.leadGm && s.enabled Pg.PTP && s.ptpRole == 2 then s.toMaster else s
      ((s.wr R.TW_LAST_HO_CAUSE c).wrB R.TW_LAST_HO_LEAD true).raise Pg.TW 9
    else s

/-- ORPHAN (R325): a follower that has lost both paths while TW_DRIVE_IN is high. -/
def doOrphan (s : State) : State :=
  let t := s.twin
  if s.mode.cur == .follower && s.atBoundary && t.wLink.isSome && t.wNet && t.driveIn then
    let s := if t.copy = .none then s else s.endCopy
    let s := s.setMode .orphan
    (s.setTwin { s.twin with inStep := false }).raise Pg.TW 15
  else s

/-- An uncorrectable ECC error in job state (R303, R319). -/
def State.jobStateUe (s : State) : State :=
  if s.mode.cur == .leader then (if s.on R.TW_REL_ECC then s.relinquish false else s)
  else if s.mode.cur == .follower && s.twin.inStep then s.mismatch else s

end Sys2Proof.Machine
end

