-- ==== Sys2Proof/Machine/Slots.lean ====
section
/-! DEFINITION. Chapter 03: action slots (R59 to R64), the states of a develop and its stage switches (R66 to R72), the refill, and the
latch and step of TL (R57, R58). -/

namespace Sys2Proof.Machine

/-- An action slot. -/
def State.slot (s : State) (n : Nat) : Slot := tget slot0 s.slots n

/-- An action slot rewritten. -/
def State.setSlot (s : State) (n : Nat) (v : Slot) : State := { s with slots := tset slot0 s.slots n v }

/-- The page offset of a slot's TL_ACT_CTRL. -/
def actOff (n : Nat) : Nat := 0x108 + 32 * n

/-! Stage switches (R68 to R70, R88). -/

/-- The words of a program table entry. -/
def progWords (b : Mem) (p : Nat) : List Nat := (List.range 8).map fun i => bkW b (progOff p + 4 * i)

/-- The instance of the old graph whose state an instance of the new graph takes over (R88): the same STATE_BASE, the same program
entry contents. -/
def State.heir (s : State) (j : Nat) : Option Nat :=
  let e := instE s.active j
  (live s.latent).find? fun i =>
    let o := instE s.latent i
    o.stateBase = e.stateBase && progWords s.latent o.prog == progWords s.active e.prog

/-- The state of a stock instance taken over at a job stage switch, with the sections that R155 clears. -/
def State.heirStock (s : State) (i : Nat) : StockSt :=
  let st := s.stockOf (jobKey true i)
  { st with busses := st.busses.filterMap fun x =>
      let v := { x.2 with bq := bqClear s.latent s.active x.1 x.2.bq }
      if v = busSt0 x.1 then none else some (x.1, v) }

/-- The state of an instance made live (R88): zero-filled under INIT, taken over with its parity from an old instance, or half A as the host left it. -/
def State.adoptState (s : State) (j : Nat) : State :=
  let e := instE s.active j
  let p := progE s.active e.prog
  let put (s : State) (par : Bool) : State :=
    { s with jobs := { s.jobs with inst := tset inst0 s.jobs.inst j ⟨par, true⟩, stock := tset stock0 s.jobs.stock j (stock0 j) } }
  if e.init then put { s with shm := mPutB zeroByte s.shm (64 * e.stateBase) (List.replicate (128 * p.stateLen) 0) } false
  else match s.heir j with
    | some i =>
      let s' := put s (tget inst0 s.jobs.inst (jobKey true i)).parity
      if p.cls = 0 then s' else s'.putStock j (s.heirStock i)
    | none => put s false

/-- The route crossfades that begin at a job stage switch (R162) on the busses of an XMIX or DLY instance of the new graph: from the route that the
instance's state holds, from none where it holds none, over the samples from the develop's TL on. -/
def State.beginFades (s : State) (j : Nat) : State :=
  let cls := clsOf s.active j
  if cls ≠ 1 ∧ cls ≠ 3 then s else
    ((List.range (numBus s.active j)).map (firstBus s.active j + ·)).foldl (fun s bus =>
      if routeChanged s.latent s.active cls bus then
        let len := xfadeLen (bitsN (busCtl s.active bus) 4 2)
        s.modStock j fun st => { st with busses := tmod busSt0 st.busses bus fun bs =>
          { bs with xf := if len = 0 then none else some ⟨len, s.smpOf s.dev.t, bs.route.getD []⟩ } }
      else s) s

/-- An instance of the new graph made live at the job stage switch of its depth. -/
def State.adopt (s : State) (j : Nat) : State := (s.adoptState j).beginFades j

/-- DEVELOPED rises on some pages (R72). -/
def State.developed (s : State) (pages : List Nat) : State := pages.foldl (fun s p => s.raise p 3) s

/-- The pages whose contents the job stages take, and those that the egress stages take (R72). -/
def jobPages : List Nat := [Pg.SCH, Pg.MIX] ++ (List.range 16).map Pg.FL
def egressPages : List Nat := Pg.STTX :: (List.range 8).map Pg.SAPG ++ (List.range 4).map Pg.PS

/-- The job stage of a depth switches. -/
def State.switchJobs (s : State) (n : Nat) : State :=
  let s := ((live s.active).filter fun j => depthOf s.active j == n).foldl State.adopt s
  let s := { s with dev := { s.dev with jobsDone := n + 1 } }
  if n = s.dev.depth then s.developed jobPages else s

/-- The old settings of the serial outputs whose ECH switch at a depth, kept until the first frame that carries a sample taken after the switch (R191). -/
def State.noteTxOld (s : State) (n : Nat) : State :=
  (List.range 128).foldl (fun s k =>
    let g := k / 16
    let i := k % 16
    if s.echSwitch (1024 + k) = n ∧ !restarts (slotW s.latent g 0) (slotW s.active g 0) then
      let lag := if txBp s.active g (i / 2) || !(gcfg s.active g).sync then 50 else 2
      { s with audio := { s.audio with txOld := tset noTx s.audio.txOld k (some ⟨s.smp + lag, txOn s.latent g i, txBp s.latent g (i / 2), txcsBytes s.latent g (i / 2)⟩) } }
    else s) s

/-- The output lanes that an egress switch makes bi-phase begin with frame 0 of a block (R181). -/
def State.newLanes (s : State) (n : Nat) : State :=
  (List.range 64).foldl (fun s k =>
    let g := k / 8
    let l := k % 8
    if s.echSwitch (1024 + 16 * g + 2 * l) = n ∧ !txBp s.latent g l ∧ txBp s.active g l then
      s.setGrp g ((s.grp g).setLane l { (s.grp g).lane l with txPos := 0 })
    else s) s

/-- The egress stage of a depth switches. -/
def State.switchEgress (s : State) (n : Nat) : State :=
  let s := (s.noteTxOld n).newLanes n
  ({ s with dev := { s.dev with egressDone := n + 1 } }).bandCheck.renoteTaints

/-- The refill starts (R71): 48 blocks. -/
def State.startRefill (s : State) : State :=
  { s with dev := { s.dev with state := .refilling, refillEnd := s.block + 48 } }

/-- Table entries of the live graph only. -/
def dropOld {α : Type} (m : Sparse α) : Sparse α := m.filter fun x => decide (x.1 < 65536)

/-- LOAD, TIGHT and HEAD of a flock (R101): the summed cost of its home jobs, and the deadline of least headroom under condition 1 of
R100, the earliest of several; zeros without home jobs. -/
def flockCap (b : Mem) (limit ovh f : Nat) : Nat × Nat × Int :=
  let js := (homeJobs b f).map fun j => ((instE b j).deadline, cost b ovh j)
  let sum (d : Nat) : Nat := ((js.filter fun x => decide (x.1 ≤ d)).map (·.2)).foldl (· + ·) 0
  let head (d : Nat) : Int := ((d * 15625 * limit / 1200 : Nat) : Int) - sum d
  let best := js.foldl (fun (a : Option (Int × Nat)) x =>
    let h := head x.1
    match a with
    | none => some (h, x.1)
    | some (g, d) => if h < g ∨ (h = g ∧ x.1 < d) then some (h, x.1) else some (g, d)) none
  match best with
  | none => (0, 0, 0)
  | some (h, d) => (min 2047 (sum 1024 * 1024 / 1333333), d, h)

/-- The capacity registers filled from the check of the live graph (R101, Table 4.7). -/
def State.fillCap (s : State) : State :=
  let b := s.active
  let s := s.setW A.SCH_GRAPH_ID (BitVec.ofNat 32 (graphId b))
  let s := ((s.wr R.SCH_GRAPH_INFO_NJOB (live b).length).wr R.SCH_GRAPH_INFO_NPROG (nProg b)).wr R.SCH_GRAPH_INFO_DEPTH (maxDepth b)
  (List.range 16).foldl (fun s f =>
    let c := flockCap b (bitsN s.dev.cap.toNat 0 7) (bitsN s.dev.cap.toNat 16 16) f
    ((s.wr (R.FL_CAP_LOAD f) c.1).wr (R.FL_CAP_TIGHT f) c.2.1).setW (A.FL_CAP_HEAD f) (BitVec.ofInt 32 c.2.2)) s

/-- The old graph is gone: only the live graph's tables are left, and the capacity registers show it (R71, R72, R101). -/
def State.dropOldGraph (s : State) : State :=
  let g := s.jobs
  let s := { s with jobs := { g with links := dropOld g.links, linkPrev := dropOld g.linkPrev, jobs := dropOld g.jobs, inst := dropOld g.inst,
                                     stock := dropOld g.stock, stockNext := dropOld g.stockNext } }
  ((s.developed egressPages).fillCap).keepConvs s.active

/-- The end of a drain (R71, R72). -/
def State.endDrain (s : State) : State :=
  let s := s.dropOldGraph.raise Pg.TL 8
  let v := s.slot s.dev.slot
  let s := if v.state == .armed && v.type = 1 then s.setSlot s.dev.slot { v with state := .done } else s
  let s := { s with dev := { s.dev with draining := false, checked := false, count := (s.dev.count + 1) % 65536,
                                        state := if s.dev.keep then .undoHeld else s.dev.state } }
  if s.dev.keep then s else s.startRefill

/-- Every stage not yet switched takes the new bank. -/
def State.switchRest (s : State) : State :=
  let s := ((List.range (s.dev.depth + 1)).filter fun n => s.dev.jobsDone ≤ n).foldl State.switchJobs s
  ((List.range (s.dev.depth + 1)).filter fun n => s.dev.egressDone ≤ n).foldl State.switchEgress s

/-- A drain completed at once (R64). -/
def State.finishDrain (s : State) : State := if s.dev.draining then s.switchRest.endDrain else s

/-- Keys of the live graph become keys of the old graph. -/
def shiftOld {α : Type} (m : Sparse α) : Sparse α := m.map fun x => (x.1 + 65536, x.2)

/-- An address of a bank as the other window names it once the banks have changed places. -/
def otherBank (a : Nat) : Nat :=
  if 0x50000000 ≤ a ∧ a < 0x50800000 then a + 0x1000000
  else if 0x51000000 ≤ a ∧ a < 0x51800000 then a - 0x1000000
  else a

/-- The banks change places, with the words that ECC has marked in them. -/
def State.swapBanks (s : State) : State :=
  { s with active := s.latent, latent := s.active
           fab := { s.fab with bad := s.fab.bad.map otherBank, ceWait := s.fab.ceWait.map otherBank } }

/-- The latent bank becomes live with the ingest stage (R68, Table 3.5): the old graph's tables take the old keys, and the stages are still to switch. -/
def State.goLive (s : State) : State :=
  let g := s.jobs
  let old := s.active
  let n := max (maxDepth s.active) (maxDepth s.latent)
  let s := { s.swapBanks with
    jobs := { g with links := shiftOld g.links, linkPrev := shiftOld g.linkPrev, jobs := shiftOld g.jobs, inst := shiftOld g.inst,
                     stock := shiftOld g.stock, stockNext := shiftOld g.stockNext }
    dev := { s.dev with draining := true, depth := n, jobsDone := 0, egressDone := 0 }
    audio := { s.audio with txOld := [], direct := s.audio.direct.map fun (q : DirectReq) => { q with old := true } } }
  let s := s.restartGens old s.dev.t
  let s := s.sapgDevelop old (s.smpOf s.dev.t)
  let s := s.rxRefresh old (s.smpOf s.dev.t)
  s.developed [Pg.SRC, Pg.STRX, Pg.HRD]

/-- DEVELOP (R68): at its TL a checked develop becomes live, and the ingest stage switches. -/
def doDevelop (s : State) : State :=
  if s.dev.state == .armed && !s.dev.draining && s.dev.checked && decide (s.dev.t ≤ s.tl) && !s.bndDue then
    ({ s with dev := { s.dev with keep := s.on R.TL_DEV_CTRL_KEEP } }).goLive
  else s

/-- A copied active bank taken whole at a boundary (R305): every stage switches there, and the outputs of 2 + N blocks are tainted. -/
def State.takeBank (s : State) : State :=
  let dev := s.dev
  let s := ({ s with dev := { dev with t := s.tl } }).goLive.switchRest.dropOldGraph
  { s with dev := dev, twin := { s.twin with taintTo := s.tlBlock + 2 + maxDepth s.active } }

/-- STAGE_SWITCH (R68): the next stage of its kind, at its switch point. -/
def doStageSwitch (stage : Stage) (s : State) : State :=
  if s.dev.draining && !s.bndDue then
    match stage with
    | .jobs n =>
      if n.val = s.dev.jobsDone && decide (n.val ≤ s.dev.depth) && decide (s.dev.t + 8 * (1 + n.val) ≤ s.tl) then s.switchJobs n.val else s
    | .egress n =>
      if n.val = s.dev.egressDone && decide (n.val ≤ s.dev.depth) && decide (s.dev.t + 8 * (2 + n.val) ≤ s.tl) then s.switchEgress n.val else s
  else s

/-- DRAIN_END (R71): the last stage has switched. -/
def doDrainEnd (s : State) : State :=
  if s.dev.draining && !s.bndDue && decide (s.dev.depth < s.dev.jobsDone) && decide (s.dev.depth < s.dev.egressDone)
      && decide (s.dev.t + 8 * (2 + s.dev.depth) ≤ s.tl) then s.endDrain
  else s

/-- A write of TL_DEV_CTRL.REFILL (R71): ignored in ARMED and REFILLING. -/
def State.refillCmd (s : State) : State :=
  match s.dev.state with
  | .armed => s
  | .refilling => s
  | _ => s.startRefill

/-- REFILL_DONE (R71): the copy is complete. -/
def doRefillDone (s : State) : State :=
  if s.dev.state == .refilling && !s.bndDue && decide (s.dev.refillEnd ≤ s.block) then
    { s.setLatent s.active with dev := { s.dev with state := .idle } }
  else s

/-- Whether host writes to the latent bank are refused (R66). -/
def State.bankLocked (s : State) : Bool := s.dev.state == .armed || s.dev.state == .refilling

/-- The first write in UNDO_HELD or CHECK_FAILED moves DEVELOP_STATE to IDLE (R66). -/
def State.bankTouched (s : State) : State :=
  match s.dev.state with
  | .undoHeld => { s with dev := { s.dev with state := .idle } }
  | .checkFailed => { s with dev := { s.dev with state := .idle } }
  | _ => s

/-! Arming and cancelling (R59, R60, R63, R64). -/

/-- The samples between the latest arm TL of a type and its TL (Table 3.1). -/
def actLead (type : Nat) : Nat := if type = 1 then 256 else if type = 2 then 16 else 1

/-- Whether TL_NOW is no greater than a slot's latest arm TL: 8 samples earlier in LEADER, without reduction for a mirrored write (R59, R300). -/
def State.inTime (s : State) (type t path : Nat) : Bool :=
  decide (s.tl + actLead type + (if s.mode.cur == .leader && path ≠ 4 then 8 else 0) ≤ t)

/-- Whether TIMED_WRITE may name an address (R60): a register with a schedulable field, not protected. -/
def timedTarget (addr : Nat) : Bool :=
  let page := (addr - 0x40000000) / 0x1000
  decide (0x40000000 ≤ addr) && isPage page && addr % 4 == 0 &&
    match findReg page (addr % 0x1000) with
    | some d => !d.prot && d.flds.any (·.sched)
    | none => false

/-- A slot turned away: REFUSED or LATE, with ACT_REJECT, and where there is a code an error. -/
def State.slotReject (s : State) (n path : Nat) (v : Slot) (st : SlotState) (code : Nat) (data : Word) : State :=
  let s := (s.setSlot n { v with state := st, path := path }).raise Pg.TL 9
  if code = 0 then s else s.err Pg.TL (actOff n) code path data

/-- ACT_ARM (R59, R60): a slot of a legal TYPE, not ARMED, is armed, or turned away. A slot of type 0 is REFUSED: no code of Table 3.2 is for it,
and none is recorded. Of the others lateness is judged first (log entry 37). -/
def State.arm (s : State) (n path : Nat) : State :=
  let v := s.slot n
  let no := BitVec.ofNat 32 n
  if v.type = 0 then s.slotReject n path v .refused 0 0
  else if !s.inTime v.type v.tl path then s.slotReject n path v .late 0x04 no
  else if v.type = 1 && v.tl % 8 ≠ 0 then s.slotReject n path v .refused 0x40 no
  else if v.type = 1 && s.bankLocked then s.slotReject n path v .refused 0x44 no
  else if v.type = 2 && !timedTarget v.addr.toNat then s.slotReject n path v .refused 0x43 v.addr
  else
    let s := s.setSlot n { v with state := .armed, path := path }
    if v.type = 1 then
      { s with dev := { s.dev with state := .armed, slot := n, back := s.dev.state, t := v.tl, armedAt := s.block, checked := false, draining := false, cap := s.getW A.SCH_CAP } }
    else s

/-- A DEVELOP cancelled before its TL (R63). -/
def State.unarmDevelop (s : State) : State :=
  if s.dev.state == .armed && !s.dev.draining then { s with dev := { s.dev with state := s.dev.back, checked := false } } else s

/-- ACT_CANCEL (R63). -/
def State.cancel (s : State) (n path : Nat) : State :=
  let v := s.slot n
  if v.state == .armed then
    if s.inTime v.type v.tl path then
      let s := s.setSlot n { v with state := .cancelled }
      if v.type = 1 then s.unarmDevelop else s
    else s.err Pg.TL (actOff n) 0x04 path (BitVec.ofNat 32 n)
  else s

/-- A write of TL_ACT_CTRL (R16, R59, R63). A reserved TYPE leaves the field, and ARM written with it acts on the TYPE that stands (R16; log entry
36). -/
def State.actCtrl (s : State) (n path : Nat) (value : Word) : State :=
  let v := s.slot n
  let type := bitsN value.toNat 0 4
  let arm := bitN value.toNat 4 == 1
  let cut := bitN value.toNat 5 == 1
  if v.state == .armed && (arm || (!cut && type ≠ v.type)) then s.err Pg.TL (actOff n) 0x42 path (BitVec.ofNat 32 n)
  else
    let s := if cut then s.cancel n path else s
    let v := s.slot n
    if v.state == .armed then s
    else
      let s := if 3 < type then s.err Pg.TL (actOff n) 0x01 path value else s.setSlot n { v with type := type }
      if arm then s.arm n path else s

/-- A slot's TL, address or data written: ignored while it is ARMED (R63). -/
def State.slotWrite (s : State) (n path off : Nat) (f : Slot → Slot) : State :=
  let v := s.slot n
  if v.state == .armed then s.err Pg.TL off 0x42 path (BitVec.ofNat 32 n) else s.setSlot n (f v)

/-- Every armed action cancelled with code 0x46 once for each slot, and a drain completed (R64). -/
def State.cancelAll (s : State) : State :=
  let s := s.finishDrain
  let s := (List.range 32).foldl (fun s n =>
    let v := s.slot n
    if v.state == .armed then (s.setSlot n { v with state := .cancelled }).err Pg.TL (actOff n) 0x46 0 (BitVec.ofNat 32 n) else s) s
  s.unarmDevelop

/-- TIMER (R59): an armed EVENT reaches its TL. -/
def doTimer (n : Nat) (s : State) : State :=
  let v := s.slot n
  if v.state == .armed && v.type = 3 && decide (v.tl ≤ s.tl) && !s.bndDue then (s.setSlot n { v with state := .done }).raise Pg.TL 12 else s

/-! TL and PTP (R57, R58). -/

/-- PTP has just become the selected reference at a block boundary: TL_OFS latched in run modes (R57), TL stepped in COMMISSION (R58). The step is part of the
boundary's work, so an action whose TL is that very boundary has not begun and is cancelled with code 0x46 (R64 leaves it open: DESIGN CHOICE, log entry
53). -/
def State.ptpSelected (s : State) : State :=
  let c := s.ptpCount
  if s.mode.cur == .commission then
    let t := c.toNat / 8 * 8
    let ofs := (t : Int) - c
    let moved := ofs != s.tlOfs
    let s := s.cancelAll
    let s := (({ s with tl := t }).setOfs ofs).raise Pg.TL 10
    if moved then s.raise Pg.TL 11 else s
  else (s.setOfs ((s.tl : Int) - c)).raise Pg.TL 11

/-- A slot as the leader sends it (R326): an armed DEVELOP locks the bank and is checked here too. -/
def State.takeSlot (s : State) (x : SlotCopy) : State :=
  let n := x.slot.val
  let s := s.setSlot n ⟨x.tl, x.addr, x.data, x.type.val, .armed, x.path.val⟩
  if x.type.val = 1 then
    { s with dev := { s.dev with state := .armed, slot := n, back := .idle, t := x.tl, armedAt := s.block, checked := false, draining := false, cap := s.getW A.SCH_CAP } }
  else s

/-- JOIN_TAKEOVER (R326): at a boundary, after the switch to candidate 7, the joining chip takes the leader's TL, TL_OFS and slots; its own
armed slots are cancelled with code 0x46. -/
def doJoinTakeover (tl : Nat) (ofs : Int) (slots : List SlotCopy) (s : State) : State :=
  if s.mode.cur == .commission && s.twin.joining && s.twUp && s.atBoundary && s.twin.copy = .none && tl % 8 = 0
      && s.ref.act = 7 && s.ref.state == .locked then
    let s := s.cancelAll
    let s := ({ s with tl := tl }).setOfs ofs
    let s := slots.foldl State.takeSlot s
    s.beginCopy .join
  else s

end Sys2Proof.Machine
end

