-- ==== Sys2Proof/Machine/Check.lean ====
section
/-! DEFINITION. The develop check (R67, R450): what makes a latent bank invalid. A fault is the bank offset of the word that holds it, with its
check code (Table 3.4). Every check runs, whatever the others find, and of several faults the one at the lowest offset is the first found; of
several at one word an uncorrectable error goes first, then a reserved encoding, then the lowest code (log entry 30). -/

namespace Sys2Proof.Machine

/-- A fault: bank offset, check code. -/
abbrev Flaw : Type := Nat × Nat

/-- The order of the check codes at one word. -/
def codeRank (code : Nat) : Nat := if code = 0x08 then 0 else if code = 0x09 then 1 else code + 1

/-- The first of some faults. -/
def firstFlaw (l : List Flaw) : Option Flaw :=
  l.foldl (fun a f => match a with
    | none => some f
    | some g => if f.1 < g.1 ∨ (f.1 = g.1 ∧ codeRank f.2 < codeRank g.2) then some f else some g) none

/-- A fault where a condition holds. -/
def flawIf (c : Bool) (off code : Nat) : List Flaw := if c then [(off, code)] else []

/-- A fault where an offset is named. -/
def flawAt (code : Nat) : Option Nat → List Flaw
  | some o => [(o, code)]
  | none => []

/-! Reserved bits (R450). -/

/-- The reserved bits of a bus block's word (Tables 6.1 to 6.4). -/
def busReserved (w : Nat) : Nat :=
  match w with
  | 0 => 0xFFC00000
  | 1 => 0xFFFFFFC0
  | 2 => 0
  | 3 => 0xFFFC0000
  | 4 => 0xFFFFE000
  | 5 => 0xFF000000
  | 6 => 0xFF000000
  | 7 => 0xFFFC0000
  | 24 => 0x3FFF0000
  | 25 => 0x3FFF0000
  | 26 => 0x3FF80000
  | _ => if w < 24 then (if w % 2 = 0 then 0x7FFC0000 else 0xFFFC0000) else if w < 32 then 0xFFFFFFFF else 0

/-- The reserved bits of a program and of an instance table word (Tables 4.3 and 4.4). -/
def progReserved (w : Nat) : Nat := nth 0 [0, 0xE000E000, 0, 0xF800F800, 0xF800F800, 0xF800F800, 0xF800F800, 0xFFFFFFF0] w
def instReserved (w : Nat) : Nat := nth 0 [0xFC000000, 0xFFFF7C00, 0xFFE00000, 0xFFFE0000] w

/-- The reserved bits of a bank word outside the stream tables, the slot tables and the lists, whose own checks name theirs. -/
def bankReserved (a : Nat) : Nat :=
  if 0x400000 ≤ a ∧ a < 0x500000 then busReserved (a % 0x400 / 4)
  else if 0x600800 ≤ a ∧ a < 0x601000 then 0xFFFFFFFF
  else if 0x609080 ≤ a ∧ a < 0x60A000 then 0xFFFFFFFF
  else if 0x60A000 ≤ a ∧ a < 0x60A200 then nth 0 [0xE8000800, 0, 0xC000FFE0, 0xFFFFFFFF] (a % 16 / 4)
  else if 0x60A200 ≤ a ∧ a < 0x60A280 then (if a % 8 < 4 then 0xFFFC else 0xFFF80000)
  else if 0x60A280 ≤ a ∧ a < 0x680000 then 0xFFFFFFFF
  else if 0x68001C ≤ a ∧ a < 0x680100 then 0xFFFFFFFF
  else if 0x680100 ≤ a ∧ a < 0x682100 then progReserved (a % 32 / 4)
  else if 0x682100 ≤ a ∧ a < 0x684000 then 0xFFFFFFFF
  else if 0x684000 ≤ a ∧ a < 0x724000 then instReserved (a % 16 / 4)
  else 0

/-- The words of a bank that hold something other than their reset value. -/
def heldWords (b : Mem) : List Nat :=
  b.foldr (fun x l => match l with
    | w :: _ => if x.1 / 4 * 4 = w then l else x.1 / 4 * 4 :: l
    | [] => [x.1 / 4 * 4]) []

/-- Non-zero reserved bits anywhere. -/
def reservedFlaws (b : Mem) : List Flaw :=
  (heldWords b).flatMap fun a => flawIf (bkW b a &&& bankReserved a != 0) a 0x09

/-! Bus blocks, power stage channels and generators. -/

/-- The busses whose blocks hold anything. -/
def heldBusses (b : Mem) : List Nat :=
  ((heldWords b).filterMap fun a => if 0x400000 ≤ a ∧ a < 0x500000 then some ((a - 0x400000) / 0x400) else none).eraseDups

/-- Values outside the ranges of Tables 6.1 and 6.2. -/
def busFlaws (b : Mem) (bus : Nat) : List Flaw :=
  let o := busOff bus
  let len := dlyLen b bus
  flawIf (bitsN (busCtl b bus) 2 2 == 3) o 0x09
    ++ flawIf (decide (32 < nBq b bus)) (o + 4) 0x09
    ++ flawIf (decide (4096 < firLen b bus)) (o + 0x10) 0x09
    ++ flawIf (len % 64 != 0 || decide (144000 < len)) (o + 0x1C) 0x09

/-- Values outside the ranges of the power stage channel's words. -/
def psFlaws (b : Mem) (c : Nat) : List Flaw :=
  let o := 0x60A000 + 16 * c
  let n := bitsN (bkW b o) 0 11
  let d := bkW b (o + 8)
  flawIf (decide (n < 640) || decide (1280 < n)) o 0x09
    ++ flawIf (decide (bitsN (bkW b (o + 4)) 16 16 < 500)) (o + 4) 0x09
    ++ flawIf (decide (bitsN d 0 5 < 7) || decide (17 < bitsN d 0 5) || decide (bitsN d 16 14 < 96) || decide (9600 < bitsN d 16 14)) (o + 8) 0x09

/-- A generator's VALUE outside the range of its TYPE. -/
def genFlaws (b : Mem) (g : Nat) : List Flaw :=
  let o := 0x60A200 + 8 * g
  let v := bitsN (bkW b (o + 4)) 0 19
  let t := bitsN (bkW b o) 0 2
  flawIf ((t == 1 && (decide (v < 16) || decide (320000 < v))) || (t == 3 && (decide (v < 1) || decide (120000 < v)))) (o + 4) 0x09

/-! The maps group. -/

/-- The slot mask word of the channel that takes the converters past 256 (R18, R450). -/
def convFlaws (b : Mem) : List Flaw :=
  match (convList b)[256]? with
  | some ch => [(0x600000 + 0x100 * ((ch - 1024) % 2048 / 16) + (if 2048 ≤ ch then 8 else 4), 0x01)]
  | none => []

/-- The slot tables (R190), the stream region (R240), the channels and generators. -/
def mapFlaws (old b : Mem) : List Flaw :=
  (List.range 8).flatMap (fun g => flawAt 0x09 (slotReserved b g) ++ flawAt 0x06 (slotInvalid b g))
    ++ convFlaws b
    ++ flawAt 0x09 (rxReserved b) ++ flawAt 0x09 (txReserved b) ++ flawAt 0x06 (rxInvalid old b) ++ flawAt 0x06 (txInvalid b)
    ++ (List.range 32).flatMap (psFlaws b) ++ (List.range 16).flatMap (genFlaws b)

/-! The graph header and the program table (R79, R143). -/

/-- Whether a range lies in shared memory. -/
def inShared (a n : Nat) : Bool := decide (0x10000000 ≤ a) && decide (a + n ≤ 0x16000000)

/-- The graph header (Table 4.2). -/
def headerFlaws (b : Mem) : List Flaw :=
  let w (o : Nat) : Nat := bkW b (0x680000 + o)
  flawIf (w 0 != 0x4B5A4A47) 0x680000 0x09
    ++ flawIf (w 4 != 0x00010000) 0x680004 0x09
    ++ flawIf (w 8 == 0 || decide (256 < w 8)) 0x680008 0x09
    ++ flawIf (decide (40960 < w 0xC)) 0x68000C 0x09
    ++ flawIf (decide (16384 < w 0x10)) 0x680010 0x09
    ++ flawIf (w 0x14 % 64 != 0) 0x680014 0x09
    ++ flawIf (w 0x10 != 0 && !inShared (w 0x14) (64 * w 0x10)) 0x680014 0x04

/-- Table 6.5: words 1 and 3 to 6 of a stock program. -/
def stockWords (cls : Nat) : List (Nat × Nat) :=
  let t (words inAt outAt stateAt paramAt scratchAt scratchLen stateLen paramLen : Nat) : List (Nat × Nat) :=
    [(1, words), (3, inAt + 65536 * outAt), (4, stateAt + 65536 * paramAt), (5, scratchAt + 65536 * scratchLen), (6, stateLen + 65536 * paramLen)]
  match cls with
  | 1 => t 1536 0x001 0x569 0x319 0x201 0x56D 0x080 0x250 0x118
  | 2 => t 512 0x001 0x005 0x061 0x009 0x0B1 0x004 0x050 0x058
  | 3 => t 768 0x001 0x065 0x055 0x045 0x085 0x004 0x010 0x010
  | 4 => t 640 0x001 0x411 0x415 0x209 0x416 0x004 0x001 0x208
  | 5 => t 256 0x001 0x011 0x021 0x021 0x021 0 0 0
  | _ => []

/-! The image check (R129). -/

/-- The words of an image in shared memory. -/
def imageOps (shm : Mem) (image n : Nat) : List (Option HenWord) :=
  (List.range n).map fun i => decodeHen (mNat zeroByte shm (image - 0x10000000 + 8 * i) 8)

/-- Whether a word that an image holds at an index meets a test; an index beyond the image meets none. -/
def wordAt (l : List (Option HenWord)) (i : Nat) (p : XSlot → Bool) : Bool :=
  match l[i]? with
  | some (some w) => p w.x
  | _ => false

/-- Whether a body from `first` to its end breaks R126, for a LOOP of a level. -/
def bodyBreaks (l : List (Option HenWord)) (level first last : Nat) : Bool :=
  (List.range (last + 1 - first)).any fun k =>
    let i := first + k
    wordAt l i (fun x => x.hasDelay && decide (last ≤ i + 2))
      || wordAt l i (fun x => match x with
        | .loop lv e => decide (lv ≤ level) || decide (last < e)
        | _ => false)

/-- Whether a word of an image breaks R129. -/
def wordBreaks (l : List (Option HenWord)) (i : Nat) : Option HenWord → Bool
  | none => true
  | some w =>
    !w.distinct
      || (w.x.hasDelay && (wordAt l (i + 1) XSlot.isControl || wordAt l (i + 2) XSlot.isControl))
      || match w.x with
        | .br _ t => decide (l.length ≤ t)
        | .call t => decide (l.length ≤ t)
        | .loop lv e => decide (l.length ≤ e) || decide (e < i + 1) || bodyBreaks l lv (i + 1) e
        | _ => false

/-- Whether an image fails the check. -/
def imageBreaks (shm : Mem) (image n : Nat) : Bool :=
  let l := imageOps shm image n
  ((List.range n).zip l).any fun x => wordBreaks l x.1 x.2

/-- The data memory regions of a user program with some numbers of input and output channels, each with the word of its entry that places it: input,
output, state, parameter, scratch (R80). -/
def regionWords (p : ProgE) (nin nout : Nat) : List (Nat × Nat × Nat) :=
  ([(64 * p.inAt, 32 * nin, 3), (64 * p.outAt, 32 * nout, 3), (64 * p.stateAt, 64 * p.stateLen, 4), (64 * p.paramAt, 64 * p.paramLen, 4),
    (64 * p.scratchAt, 64 * p.scratchLen, 5)] : List (Nat × Nat × Nat)).filter fun r => r.2.1 != 0

/-- Regions that break R104 or R80, at a program table entry: one that reaches into the handler area or beyond is named by word 0 (R129), one that
meets the context block or another region by the first word that places one of the two. -/
def regionFlaws (o : Nat) (rs : List (Nat × Nat × Nat)) : List Flaw :=
  rs.flatMap (fun r => flawIf (decide (0x17C00 < r.1 + r.2.1)) o 0x04 ++ flawIf (decide (r.1 < 0x40)) (o + 4 * r.2.2) 0x04)
    ++ ((List.range rs.length).zip rs).flatMap fun x => (rs.drop (x.1 + 1)).flatMap fun y =>
      flawIf (decide (x.2.1 < y.1 + y.2.1) && decide (y.1 < x.2.1 + x.2.2.1)) (o + 4 * x.2.2.2) 0x04

/-- A program table entry (Tables 4.3 and 6.5, R104, R129). -/
def progFlaws (shm b : Mem) (p : Nat) : List Flaw :=
  let o := progOff p
  let e := progE b p
  flawIf (e.words == 0 || decide (4096 < e.words)) (o + 4) 0x09
    ++ flawIf (decide (e.words ≤ e.entry)) (if e.cls = 0 then o else o + 4) 0x04
    ++ flawIf (e.cycles == 0 || decide (83000 < e.cycles)) (o + 8) 0x09
    ++ flawIf (decide (5 < e.cls)) (o + 28) 0x09
    ++ (if e.cls = 0 then
          flawIf (e.image % 64 != 0) o 0x09
            ++ flawIf (e.image == 0 || !inShared e.image (8 * e.words)) o 0x04
            ++ flawIf (inShared e.image (8 * e.words) && decide (e.words ≤ 4096) && imageBreaks shm e.image e.words) o 0x04
            ++ regionFlaws o (regionWords e 0 0)
        else
          flawIf (e.image != 0) o 0x04
            ++ (stockWords e.cls).flatMap fun x => flawIf (bkW b (o + 4 * x.1) != x.2) (o + 4 * x.1) 0x04)

/-! Instances and their lists (Tables 4.4 to 4.6, R80 to R82, R104). -/

/-- An input or output entry of a list at list pool word `i`. -/
def entryFlaws (b : Mem) (input : Bool) (i : Nat) : List Flaw :=
  let o := listOff i
  let v := bkW b o
  let kind := bitsN v 0 2
  let last := bitsN v 2 14 + bitsN v 16 8
  if bitsN v 24 8 != 0 || kind == 3 || (input && kind == 2) then [(o, 0x09)]
  else if kind = 1 then flawIf (decide (nLink b ≤ last)) o 0x04
  else if decide (2047 < last) || (kind == 2 && decide (bitsN v 2 14 < 1168)) then [(o, 0x09)]
  else flawIf (!input && kind == 0 && decide (1216 ≤ last)) o 0x03

/-- A list that lies in the pool with its entries (Table 4.5). -/
def listFlaws (b : Mem) (j : Nat) : List Flaw :=
  let l := (instE b j).list
  let o := listOff l
  let nin := listNin b l
  let n := nin + listNout b l
  if 94208 ≤ l then [(instOff j + 12, 0x09)]
  else if 94208 < l + 2 + n then [(instOff j + 12, 0x04)]
  else
    flawIf (bitsN (bkW b o) 16 16 != 0) o 0x09 ++ flawIf (bitsN (bkW b (o + 4)) 21 11 != 0) (o + 4) 0x09
      ++ (List.range n).flatMap fun k => entryFlaws b (decide (k < nin)) (l + 2 + k)

/-- An instance table entry (Table 4.4). -/
def instFlaws (b : Mem) (j : Nat) : List Flaw :=
  let e := instE b j
  let o := instOff j
  let p := progE b e.prog
  flawIf (e.deadline == 0 || decide (1007 < e.deadline)) o 0x09
    ++ flawIf (decide (nProg b ≤ e.prog)) o 0x04
    ++ flawIf (e.raEn && e.raTick == 0) (o + 4) 0x09
    ++ flawIf (e.raEn && decide (e.deadline ≤ e.raTick)) (o + 4) 0x04
    ++ listFlaws b j
    ++ (if e.prog < nProg b ∧ p.cls = 0 then regionFlaws (progOff e.prog) (regionWords p (inputs b j).length (outputs b j).length) else [])
    ++ flawIf (decide (e.prog < nProg b) && p.cls == 0 && decide (0x800000 < listParam b e.list + 64 * p.paramLen)) (listOff (e.list + 1)) 0x04

/-! The graph (R23, R76, R81). -/

/-- Every output channel of the graph: channel, list pool word of its entry. -/
def outEntries (b : Mem) (js : List Nat) : List ((Nat × Nat) × Nat) :=
  js.flatMap fun j =>
    let l := (instE b j).list
    (List.range (listNout b l)).flatMap fun k =>
      let w := l + 2 + listNin b l + k
      (entryChans (bkW b (listOff w))).map fun c => (c, w)

/-- Every input link of an instance with the list pool word of its entry. -/
def linkEntries (b : Mem) (j : Nat) : List (Nat × Nat) :=
  let l := (instE b j).list
  (List.range (listNin b l)).flatMap fun k =>
    let w := l + 2 + k
    ((entryChans (bkW b (listOff w))).filter (·.1 == 1)).map fun c => (c.2, w)

/-- Channels written twice: an ECH code 0x02, a link or an internal return code 0x04; named by the later entry. -/
def writerFlaws (b : Mem) (js : List Nat) : List Flaw :=
  go [] (outEntries b js)
where
  go (seen : List (Nat × Nat)) : List ((Nat × Nat) × Nat) → List Flaw
    | [] => []
    | x :: t => flawIf (seen.contains x.1) (listOff x.2) (if x.1.1 = 0 then 0x02 else 0x04) ++ go (x.1 :: seen) t

/-- The instances reached from a list by following links alone, in `n` rounds. -/
def linkReach (b : Mem) : Nat → List Nat → List Nat
  | 0, l => l
  | n + 1, l => linkReach b n (l ++ (l.flatMap (deps b)).filter fun x => !l.contains x).eraseDups

/-- Links below NLINK that no instance writes and none reads (R81), named by NLINK. -/
def unusedLinks (b : Mem) (js : List Nat) : List Flaw :=
  let used := js.flatMap fun j => ((inputs b j ++ outputs b j).filter (·.1 == 1)).map (·.2)
  flawIf ((List.range (min (nLink b) 16384)).any fun l => !used.contains l) 0x680010 0x04

/-- Links: one writer each, of the reader's depth, and no cycle; a depth of 15 at most. -/
def linkFlaws (b : Mem) (js : List Nat) : List Flaw :=
  let depth := depthTab b
  let d (j : Nat) : Nat := tget depthRound.zeroN depth j
  js.flatMap fun j =>
    ((linkEntries b j).flatMap fun x => match writerOf b 1 x.1 with
      | none => [(listOff x.2, 0x04)]
      | some w => flawIf (d w != d j) (listOff (instE b j).list) 0x04)
    ++ flawIf ((linkReach b js.length (deps b j)).contains j) (listOff (instE b j).list) 0x04
    ++ flawIf (decide (15 < d j)) (instOff j) 0x04

/-- State areas (R81): in shared memory, meeting no other state area, nor the link area, nor a pool. -/
def areaFlaws (s : State) (b : Mem) (js : List Nat) : List Flaw :=
  let area (j : Nat) : Nat × Nat := (0x10000000 + 64 * (instE b j).stateBase, 128 * (progE b (instE b j).prog).stateLen)
  let fixed := [(linkBase b, 64 * nLink b), ((s.getW A.MIX_DLY_BASE).toNat, (s.getW A.MIX_DLY_SIZE).toNat),
                ((s.getW A.MIX_FIR_BASE).toNat, (s.getW A.MIX_FIR_SIZE).toNat)]
  let hits (x y : Nat × Nat) : Bool := x.2 != 0 && y.2 != 0 && decide (x.1 < y.1 + y.2) && decide (y.1 < x.1 + x.2)
  js.flatMap fun j =>
    let a := area j
    flawIf (a.2 != 0 && (!inShared a.1 a.2 || fixed.any (hits a) || js.any fun i => i != j && hits a (area i))) (instOff j + 8) 0x04

/-! Stock instances (R137, R144, R145). -/

/-- The input entries of an instance: word, KIND, first channel, number of channels. -/
def inRuns (b : Mem) (j : Nat) : List (Nat × Nat × Nat × Nat) :=
  let l := (instE b j).list
  (List.range (listNin b l)).map fun k =>
    let v := bkW b (listOff (l + 2 + k))
    (l + 2 + k, bitsN v 0 2, bitsN v 2 14, bitsN v 16 8 + 1)

/-- Whether the first input entry of an XMIX instance is a carry. -/
def hasCarry (b : Mem) (j : Nat) : Bool :=
  match inRuns b j with
  | (_, 1, _, _) :: _ => true
  | _ => false

/-- The busses of a stock instance. -/
def busRange (b : Mem) (j : Nat) : List Nat := (List.range (numBus b j)).map fun i => firstBus b j + i

/-- A stock instance's list against Table 6.6. -/
def stockList (b : Mem) (j : Nat) : List Flaw :=
  let l := (instE b j).list
  let nin := (inputs b j).length
  let nout := (outputs b j).length
  let c := clsOf b j
  if c = 5 then
    flawIf (listParam b l != 0) (listOff (l + 1)) 0x04
      ++ flawIf (nin == 0 || decide (32 < nin) || nout != nin || (outputs b j).any fun x => x.1 != 0 || decide (x.2 < 1184) || decide (1215 < x.2))
          (listOff l) 0x04
  else
    let off := listParam b l
    let n := numBus b j
    let bad1 := decide (off < 0x400000) || (off - 0x400000) % 0x400 != 0 || n == 0 || decide (8 < n) || decide (1024 < firstBus b j + n)
    if bad1 then [(listOff (l + 1), 0x04)]
    else
      let shapeOk :=
        if c = 1 then
          let r := inRuns b j
          let rest := if hasCarry b j then r.drop 1 else r
          decide (nin ≤ 1024) && rest.all (fun x => x.2.1 == 0) && (!hasCarry b j || (r.headD (0, 0, 0, 0)).2.2.2 == n)
        else if c = 3 then nout == ((busRange b j).map fun bus => ((List.range 8).filter (outUsed b bus)).length).foldl (· + ·) 0
        else nout == nin && (c == 2 || decide (((busRange b j).map (firLen b)).foldl (· + ·) 0 ≤ 8192))
      flawIf (!shapeOk) (listOff l) 0x04

/-- A carry (R145): the whole output of one other XMIX instance of the same busses, read by no other job. -/
def carryFlaws (b : Mem) (j : Nat) : List Flaw :=
  match inRuns b j with
  | (w, 1, first, n) :: _ =>
    let chans := (List.range n).map fun i => (1, first + i)
    let ok := match writerOf b 1 first with
      | some x => x != j && clsOf b x == 1 && firstBus b x == firstBus b j && numBus b x == numBus b j && outputs b x == chans
          && (linkReaders b x).all (· == j)
      | none => false
    flawIf (!ok) (listOff w) 0x04
  | _ => []

/-- A source that is an input of two XMIX instances of a bus (R145), named in the later one. -/
def sourceFlaws (b : Mem) (xs : List Nat) (j : Nat) : List Flaw :=
  let others := xs.filter fun i => decide (i < j) && (busRange b i).any (busRange b j).contains
  (inRuns b j).flatMap fun r =>
    flawIf (r.2.1 == 0 && others.any fun i => (inputs b i).any fun x => x.1 == 0 && decide (r.2.2.1 ≤ x.2) && decide (x.2 < r.2.2.1 + r.2.2.2))
      (listOff r.1) 0x04

/-- The stages of a bus in order (R137): the last XMIX, BQ, FIR, DLY. -/
def chainOf (b : Mem) (bus : Nat) : List Nat := (lastXmix b bus).toList ++ servers b 2 bus ++ servers b 4 bus ++ servers b 3 bus

/-- Whether an insert may stand between a stage and the next: pre-EQ after the XMIX, post-EQ before the DLY. -/
def insertBetween (b : Mem) (bus x y : Nat) : Bool :=
  (clsOf b x == 1 && insUsed b bus 0) || (clsOf b y == 3 && insUsed b bus 1)

/-- The order of a bus's stages (R137, R145): one last XMIX and at most one of each other, one depth, each reading the bus channel of the stage before it,
through a link or through an insert. -/
def orderFlaws (b : Mem) (bus : Nat) : List Flaw :=
  let ch := chainOf b bus
  let all := servers b 1 bus ++ servers b 2 bus ++ servers b 4 bus ++ servers b 3 bus
  let first := listOff (instE b (all.foldl min (all.headD 0))).list
  let lasts := (servers b 1 bus).filter fun j => !(servers b 1 bus).any fun r => r != j && (deps b r).contains j
  let one := lasts.length == 1 && [2, 3, 4].all fun c => decide ((servers b c bus).length ≤ 1)
  let depth := all.all fun j => depthOf b j == depthOf b (ch.headD 0)
  flawIf (!one || !depth) first 0x04
    ++ (ch.zip (ch.drop 1)).flatMap fun x =>
      let i := stageIn b x.2 bus
      flawIf (!(i.any (·.1 == 1) && (i == stageOut b x.1 bus || insertBetween b bus x.1 x.2))) (listOff ((instE b x.2).list + 2)) 0x04

/-- The insert words of a bus (R164). -/
def insertFlaws (b : Mem) (bus : Nat) : List Flaw :=
  [0, 1, 2].flatMap fun i =>
    let j := bitsN (insWord b bus i) 0 16
    let ok := (live b).contains j && clsOf b j == 0 && (chainOf b bus).head?.any (fun x => depthOf b x == depthOf b j)
      && (i != 2 || outUsed b bus (bitsN (insWord b bus 2) 16 3))
      && (insertPair b bus i).any fun p => p.1.1 == 1 && (inputs b j).contains p.1 && (outputs b j).contains p.2
          && (if i = 2 then p.2.1 != 1 else p.2.1 == 1)
    flawIf (insUsed b bus i && !ok) (busOff bus + 0x60 + 4 * i) 0x04

/-! Pools (R156, R160). -/

/-- A line of a served bus: first byte, bytes, pool, naming word. -/
def poolLines (s : State) (b : Mem) : List (Nat × Nat × (Nat × Nat) × Nat) :=
  let dp := ((s.getW A.MIX_DLY_BASE).toNat, (s.getW A.MIX_DLY_SIZE).toNat)
  let fp := ((s.getW A.MIX_FIR_BASE).toNat, (s.getW A.MIX_FIR_SIZE).toNat)
  (busses b).flatMap fun bus =>
    (if (servers b 3 bus).isEmpty || dlyLen b bus = 0 then [] else
      [(dp.1 + 192 * dlyBase b bus, 3 * dlyLen b bus, dp, busOff bus + 0x18)])
    ++ (if (servers b 4 bus).isEmpty || firLen b bus = 0 then [] else
      [(fp.1 + 64 * firHist b bus, ((firLen b bus + 7) * 4 + 63) / 64 * 64, fp, busOff bus + 0x14)])

/-- The pool rules. -/
def poolFlaws (s : State) (b : Mem) : List Flaw :=
  let ls := poolLines s b
  (ls.flatMap fun x => flawIf (decide (x.1 < x.2.2.1.1) || decide (x.2.2.1.1 + x.2.2.1.2 < x.1 + x.2.1)
      || ls.any fun y => y != x && decide (y.1 < x.1 + x.2.1) && decide (x.1 < y.1 + y.2.1)) x.2.2.2 0x07)
    ++ (match ((longLines b).mergeSort)[64]? with
        | some bus => [(busOff bus + 0x1C, 0x07)]
        | none => [])
    ++ (busses b).flatMap fun bus =>
      (if (servers b 3 bus).isEmpty then [] else (List.range 8).flatMap fun d =>
        let tap := bitsN (outW0 b bus d) 0 18
        flawIf (outUsed b bus d && (if dlyLen b bus = 0 then tap != 0 else decide (dlyLen b bus < tap + 8))) (busOff bus + 0x20 + 8 * d) 0x07)
      ++ flawIf (!(servers b 4 bus).isEmpty && firLen b bus != 0 && decide (262144 < firBase b bus + firLen b bus)) (busOff bus + 0x0C) 0x07

/-! Capacity (R100, R146). -/

/-- The cycles of one run of a stock instance (Table 6.7). -/
def stockCycles (b : Mem) (j : Nat) : Nat :=
  let nin := (inputs b j).length
  let sum (f : Nat → Nat) : Nat := ((busRange b j).map f).foldl (· + ·) 0
  match clsOf b j with
  | 1 => 1200 + nin * (8 + 4 * numBus b j)
  | 2 => 200 + sum fun bus => 40 + 80 * nBq b bus
  | 3 => 300 + sum fun bus => 80 + 60 * ((List.range 8).filter (outUsed b bus)).length
  | 4 => 300 + sum fun bus => 100 + 9 * ((firLen b bus + 3) / 4)
  | 5 => 100 + 40 * nin
  | _ => 0

/-- The summed cost of the longest chain of dependencies ending in each instance, after `n` rounds. -/
def chainRounds (b : Mem) (ovh : Nat) (js : List Nat) : Nat → Sparse Nat → Sparse Nat
  | 0, t => t
  | n + 1, t => chainRounds b ovh js n (js.foldl (fun t j =>
      let v := cost b ovh j + ((deps b j).map (tget zeroNat t)).foldl max 0
      if tget zeroNat t j < v then tset zeroNat t j v else t) t)

/-- A job of a drain block: deadline, instance, cost, of the new graph or not. -/
structure DrainJob where
  d : Nat
  j : Nat
  c : Nat
  new : Bool
  deriving DecidableEq, Repr

/-- The entry that conditions 1 and 3 name: of the new-graph jobs the greatest by a key, or the graph header. -/
def namedJob (key : DrainJob → Nat × Nat) (l : List DrainJob) : Nat :=
  let best := (l.filter (·.new)).foldl (fun (a : Option DrainJob) x => match a with
    | none => some x
    | some y => if (key y).1 < (key x).1 ∨ ((key y).1 = (key x).1 ∧ (key y).2 < (key x).2) then some x else some y) none
  match best with
  | some x => instOff x.j
  | none => 0x680000

/-- Conditions 1 and 3 for one flock in one block. -/
def flockFlaws (limit : Nat) (l : List DrainJob) : List Flaw :=
  flawIf (decide (4096 < l.length)) (namedJob (fun x => (x.j, 0)) l) 0x05
    ++ ((l.map (·.d)).eraseDups.flatMap fun d =>
      let m := l.filter fun x => decide (x.d ≤ d)
      flawIf (decide (d * 15625 * limit / 1200 < (m.map (·.c)).foldl (· + ·) 0)) (namedJob (fun x => (x.d, x.j)) m) 0x05)

/-- Whether a flock is gated or has a gate request pending. -/
def State.flockGated (s : State) (f : Nat) : Bool :=
  let v := s.flock f
  !v.powered || !v.taking || v.gateReq || v.fencing

/-- The capacity rules of a latent graph against the active one. -/
def capacityFlaws (s : State) (b : Mem) (js : List Nat) : List Flaw :=
  let limit := bitsN s.dev.cap.toNat 0 7
  let ovh := bitsN s.dev.cap.toNat 16 16
  let old := s.active
  let jobs (g : Mem) (new : Bool) (keep : Nat → Bool) (f : Nat) : List DrainJob :=
    ((homeJobs g f).filter fun j => keep (depthOf g j)).map fun j => ⟨(instE g j).deadline, j, cost g ovh j, new⟩
  let chains := chainRounds b ovh js (js.length + 1) []
  (js.flatMap fun j =>
      let e := instE b j
      flawIf (clsOf b j != 0 && decide ((progE b e.prog).cycles < stockCycles b j)) (progOff e.prog) 0x05
        ++ flawIf (decide (e.deadline * 15625 / 192 < tget zeroNat chains j)) (instOff j) 0x05
        ++ flawIf ((deps b j).any fun w => decide (e.deadline ≤ (instE b w).deadline)) (instOff j) 0x05
        ++ flawIf (s.flockGated e.home) (instOff j) 0x05)
    ++ (List.range (max (maxDepth old) (maxDepth b) + 2)).flatMap fun k => (List.range 16).flatMap fun f =>
      flockFlaws limit (jobs old false (fun d => decide (k ≤ d)) f ++ jobs b true (fun d => decide (d < k)) f)

/-! The whole check. -/

/-- The job graph region. Of an instance table entry with EN = 0 only the reserved bits are judged (log entry 30). -/
def graphFlaws (s : State) (b : Mem) : List Flaw :=
  let js := live b
  let stock := js.filter fun j => clsOf b j != 0
  let xs := stock.filter fun j => clsOf b j == 1
  headerFlaws b ++ (List.range (min 256 (nProg b))).flatMap (progFlaws s.shm b) ++ js.flatMap (instFlaws b)
    ++ writerFlaws b js ++ unusedLinks b js ++ linkFlaws b js ++ areaFlaws s b js ++ stock.flatMap (stockList b)
    ++ xs.flatMap (fun j => carryFlaws b j ++ sourceFlaws b xs j) ++ (busses b).flatMap (orderFlaws b)
    ++ (heldBusses b).flatMap (insertFlaws b) ++ poolFlaws s b ++ capacityFlaws s b js

/-- The first fault of the latent bank (R67), judged against the state that arming found. -/
def State.developFlaw (s : State) : Option Flaw :=
  let b := s.latent
  let ecc := s.fab.bad.filterMap fun a => if 0x51000000 ≤ a ∧ a < 0x51800000 then some (a - 0x51000000, 0x08) else none
  firstFlaw (ecc ++ reservedFlaws b ++ (heldBusses b).flatMap (busFlaws b) ++ mapFlaws s.active b
    ++ graphFlaws s b)

/-- DEVELOP_CHECK_DONE (R67): the check of an armed develop ends. -/
def doDevelopCheckDone (s : State) : State :=
  if s.dev.state == .armed && !s.dev.checked && !s.dev.draining then
    match s.developFlaw with
    | none => { s with dev := { s.dev with checked := true, chkCode := 0, chkOfs := 0 } }
    | some (o, code) =>
      let n := s.dev.slot
      let s := { s with dev := { s.dev with state := .checkFailed, chkCode := code, chkOfs := o } }
      ((s.setSlot n { s.slot n with state := .checkFailed }).raise Pg.TL 9).err Pg.TL (actOff n) 0x45 0 (BitVec.ofNat 32 (code + 2 ^ 8 * o))
  else s

end Sys2Proof.Machine
end

