-- ==== Sys2Proof/Machine/Loupe.lean ====
section
/-! DEFINITION. The Loupe measuring island (chapter 15): its calendar, measurement, log, calibration, alert and
UART, and the requests of the LPM page. -/

namespace Sys2Proof.Machine

/-! Levels (R395). -/

/-- The greatest `z` of an interval for which 10^(2z-1) is at most a/b, by `n` halvings (a monotone test). -/
def log10Search : Nat → Nat → Nat → Int → Int → Int
  | 0, _, _, lo, _ => lo
  | n + 1, a, b, lo, hi =>
    let m := (lo + hi) / 2
    let e := 2 * m - 1
    let le := if 0 ≤ e then decide (10 ^ e.toNat * b ≤ a) else decide (b ≤ a * 10 ^ (-e).toNat)
    if le then log10Search n a b m hi else log10Search n a b lo m

/-- 1,000 log10 (num / den), rounded to the nearest integer: 0.01 dB steps of a ratio of powers. -/
def millibel (num den : Nat) : Int := log10Search 17 (num ^ 2000) (den ^ 2000) (-65536) 65536

/-- A level in 0.01 dB of a sum of squares `e` over `n` samples, full scale 2^23, plus the channel's offset; a level
below 0 dB is reported as 0 (R395). -/
def levelOf (e n : Nat) (ofs : Int) : Nat :=
  if e = 0 ∨ n = 0 then 0 else min 65535 (millibel e (n * 2 ^ 46) + ofs).toNat

/-- A peak level. -/
def peakOf (p : Nat) (ofs : Int) : Nat := levelOf (p * p) 1 ofs

/-- The calibration offset of a channel. -/
def LpSt.ofs (l : LpSt) (k : Nat) : Int := if k = 0 then l.ofs0 else l.ofs1

/-- Live value `j` (word offset / 4) of channel `k` (Table 15.7). -/
def liveKey (k j : Nat) : Nat := 16 * k + j

/-- A live value rewritten. -/
def LpSt.setLive (l : LpSt) (k j v : Nat) : LpSt := { l with live := tset zeroNat l.live (liveKey k j) v }

/-- Whether the island runs: MEASURE, and not held in reset by LP_RST_N. -/
def LpSt.runs (l : LpSt) : Bool := l.power == .measure && !l.held

/-! The log (R397 to R399). -/

/-- An erased flash slot. -/
def erased (_ : Nat) : Bytes := []

/-- A slot that was programmed and did not verify: no record. -/
def badSlot : Bytes := [0]

/-- Slots of the ring. -/
def LpSt.nslots (l : LpSt) : Nat := l.flashSize / 64

/-- The flags every record carries (Table 15.4). -/
def LpSt.stdFlags (l : LpSt) : Nat :=
  (if l.timeValid then 0 else 8) + (if l.sealCount = 0 then 32 else 0)
    + (if l.key.isNone then 64 else 0) + (if l.calMismatch then 128 else 0)

/-- The bytes of the island key. -/
def LpSt.keyBytes (l : LpSt) : Bytes :=
  match l.key with
  | some ws => ws.flatMap fun w => toLe 4 w.toNat
  | none => []

/-- A record of Table 15.4. -/
def LpSt.mkRecord (l : LpSt) (seq type flags time : Nat) (payload : Bytes) : Bytes :=
  let body := toLe 4 seq ++ toLe 1 type ++ toLe 1 flags ++ toLe 2 l.sealCount ++ toLe 8 time
    ++ (payload ++ List.replicate (32 - payload.length) 0)
  match l.key with
  | some _ => body ++ (hmac256 l.keyBytes body).take 16
  | none => body ++ List.replicate 16 0

/-- Whether a slot holds a record whose tag verifies; before the key is programmed the tag is zero (R399). -/
def LpSt.verifies (l : LpSt) (b : Bytes) : Bool :=
  b.length == 64 &&
    (if bitN (nth 0 b 5).toNat 6 == 1 then b.drop 48 == List.replicate 16 0
     else l.key.isSome && b.drop 48 == (hmac256 l.keyBytes (b.take 48)).take 16)

/-- The sequence number in a record. -/
def recSeq (b : Bytes) : Nat := leNat (b.take 4)

/-- The slots that hold records. -/
def LpSt.held' (l : LpSt) : List (Nat × Bytes) := l.flash.filter fun x => x.2.length == 64

/-- The record of a sequence number, where it is held. -/
def LpSt.find (l : LpSt) (seq : Nat) : Option Bytes :=
  (l.held'.find? fun x => recSeq x.2 == seq).map (·.2)

/-- SEQ of the oldest record held (LPM_TAIL). -/
def LpSt.tail (l : LpSt) : Nat :=
  l.held'.foldl (fun a x => if a = 0 ∨ recSeq x.2 < a then recSeq x.2 else a) 0

/-- One slot programmed; the next is erased ahead, a whole sector at a time (R398). -/
def LpSt.program (l : LpSt) (b : Bytes) : LpSt :=
  let next := if l.slot + 1 < l.nslots then l.slot + 1 else 0
  let fl := tset erased l.flash l.slot b
  let fl := if next % 64 = 0 then fl.filter fun x => decide (x.1 < next) || decide (next + 64 ≤ x.1) else fl
  { l with flash := fl, slot := next }

/-- `n` slots programmed that do not verify. -/
def LpSt.programBad : Nat → LpSt → LpSt
  | 0, l => l
  | n + 1, l => LpSt.programBad n (l.program badSlot)

/-- One record logged (R398): `bad` programmings fail to verify first; after the fourth FLASH_FAULT is set.
With a flash fault nothing is logged. LPM event RECORD is set for a record logged. -/
def State.lpLog (s : State) (type flags time : Nat) (payload : Bytes) (bad : Nat) : State :=
  if s.lp.flashFault then s else
    if 3 < bad then
      { s with lp := { LpSt.programBad 4 s.lp with flashFault := true } }
    else
      let l := LpSt.programBad bad s.lp
      let seq := l.seqNew + 1
      let l := { l.program (l.mkRecord seq type flags time payload) with seqNew := seq }
      State.raise { s with lp := l } Pg.LPM 9

/-- The present time stamp of the island. -/
def LpSt.stamp (l : LpSt) : Nat := lpStamp l.sec l.frac

/-- An event record: flags of the moment, LP_CAL_EN included, and the present time. -/
def State.lpEvent (s : State) (type : Nat) (payload : Bytes) : State :=
  s.lpLog type (s.lp.stdFlags + if s.lp.calEn then 16 else 0) s.lp.stamp payload 0

/-! Measurement (R394, R395). -/

/-- A frame's effect on one channel of an interval. The A and C weightings and the F and S time weightings
follow IEC 61672-1, which fixes them within tolerances only: the weighted values are free (log entry 13). -/
def LpChanAcc.add (c : LpChanAcc) (x a w : Int) (f sl : Nat) : LpChanAcc :=
  { eA := c.eA + a.natAbs ^ 2, eC := c.eC + w.natAbs ^ 2, eZ := c.eZ + x.natAbs ^ 2,
    maxF := max c.maxF f, maxS := max c.maxS sl, pkC := max c.pkC w.natAbs, pkZ := max c.pkZ x.natAbs,
    signal := c.signal || x != 0 }

/-- Whether a received sample is an overload (R396). -/
def isOvl (x : BitVec 24) : Bool := x.toInt.natAbs == 0x7FFFFF

/-- A frame's effect on an interval. -/
def LpAcc.add (i : LpAcc) (x0 x1 : BitVec 24) (ctr : Nat) (calEn : Bool) : LpAcc :=
  { n := i.n + 1, whole := i.whole, ovl := min 65535 (i.ovl + b2n (isOvl x0) + b2n (isOvl x1)),
    cal := i.cal || calEn,
    c0 := i.c0.add x0.toInt (Config.freeInt ctr) (Config.freeInt (ctr + 1)) (Config.freeNat (ctr + 2)) (Config.freeNat (ctr + 3)),
    c1 := i.c1.add x1.toInt (Config.freeInt (ctr + 4)) (Config.freeInt (ctr + 5)) (Config.freeNat (ctr + 6)) (Config.freeNat (ctr + 7)) }

/-- A frame's effect on a calibration. -/
def LpCalSt.add (c : LpCalSt) (x0 x1 : BitVec 24) : LpCalSt :=
  { c with n := c.n + 1, eZ := c.eZ + (if c.k = 0 then x0.toInt else x1.toInt).natAbs ^ 2 }

/-- LP_FRAME (R394): 48,000 frames make a second of calendar time; the second's end is due after the last. -/
def doLpFrame (x0 x1 : BitVec 24) (s : State) : State :=
  let l := s.lp
  if l.runs && !l.due then
    let c := s.freeCtr
    let l := { l with
      iSec := l.iSec.add x0 x1 c l.calEn, iMin := l.iMin.add x0 x1 c l.calEn, iQtr := l.iQtr.add x0 x1 c l.calEn
      lafSq := [Config.freeNat (c + 2), Config.freeNat (c + 3), Config.freeNat (c + 6), Config.freeNat (c + 7)]
      cal := l.cal.map fun k => k.add x0 x1
      sub := l.sub + 1, due := decide (48000 ≤ l.sub + 1), laf := l.laf + 1 }
    { s with lp := l, freeCtr := c + 8 }
  else s

/-- LAF_UPDATE (R395): every 125 ms, 6,000 frames. -/
def doLafUpdate (s : State) : State :=
  let l := s.lp
  if l.runs && decide (6000 ≤ l.laf) then
    let l := { l with laf := 0 }
    let l := l.setLive 0 0 (levelOf (nth 0 l.lafSq 0) 1 l.ofs0)
    let l := l.setLive 0 1 (levelOf (nth 0 l.lafSq 1) 1 l.ofs0)
    let l := l.setLive 1 0 (levelOf (nth 0 l.lafSq 2) 1 l.ofs1)
    let l := l.setLive 1 1 (levelOf (nth 0 l.lafSq 3) 1 l.ofs1)
    { s with lp := l }
  else s

/-! Intervals (R396). -/

/-- The fourteen payload bytes of one channel (Table 15.5). -/
def chanPayload (c : LpChanAcc) (n : Nat) (ofs : Int) : Bytes :=
  toLe 2 (levelOf c.eA n ofs) ++ toLe 2 (levelOf c.eC n ofs) ++ toLe 2 (levelOf c.eZ n ofs)
    ++ toLe 2 (levelOf c.maxF 1 ofs) ++ toLe 2 (levelOf c.maxS 1 ofs) ++ toLe 2 (peakOf c.pkC ofs) ++ toLe 2 (peakOf c.pkZ ofs)

/-- The payload of an interval record. -/
def intervalPayload (l : LpSt) (i : LpAcc) : Bytes :=
  chanPayload i.c0 i.n l.ofs0 ++ chanPayload i.c1 i.n l.ofs1 ++ toLe 2 (i.n / 48000) ++ toLe 2 i.ovl

/-- The flags of an interval record; `cut` where the interval ends before its boundary. -/
def intervalFlags (l : LpSt) (i : LpAcc) (cut : Bool) : Nat :=
  l.stdFlags + (if i.whole && !cut then 0 else 1) + (if i.ovl = 0 then 0 else 2)
    + (if i.c0.signal && i.c1.signal then 0 else 4) + (if i.cal then 16 else 0)

/-- Energies of the newest `n` seconds, channel 0 A, C and channel 1 A, C, with their samples. -/
def slide (secs : List LpSec) (n : Nat) : LpSec :=
  (secs.take n).foldl (fun a x => ⟨a.n + x.n, a.a0 + x.a0, a.c0 + x.c0, a.a1 + x.a1, a.c1 + x.c1⟩) ⟨0, 0, 0, 0, 0⟩

/-- The sliding quantities and the last second's values taken into the live values at the end of a second. -/
def LpSt.liveSecond (l : LpSt) : LpSt :=
  let i := l.iSec
  let l := { l with secs := (LpSec.mk i.n i.c0.eA i.c0.eC i.c1.eA i.c1.eC :: l.secs).take 900 }
  let w60 := slide l.secs 60
  let w900 := slide l.secs 900
  let l := ((l.setLive 0 2 (levelOf i.c0.eA i.n l.ofs0)).setLive 0 3 (levelOf i.c0.eC i.n l.ofs0)).setLive 0 4 (peakOf i.c0.pkC l.ofs0)
  let l := ((l.setLive 1 2 (levelOf i.c1.eA i.n l.ofs1)).setLive 1 3 (levelOf i.c1.eC i.n l.ofs1)).setLive 1 4 (peakOf i.c1.pkC l.ofs1)
  let l := ((l.setLive 0 5 (levelOf w60.a0 w60.n l.ofs0)).setLive 0 6 (levelOf w900.a0 w900.n l.ofs0)).setLive 0 13 (levelOf w60.c0 w60.n l.ofs0)
  ((l.setLive 1 5 (levelOf w60.a1 w60.n l.ofs1)).setLive 1 6 (levelOf w900.a1 w900.n l.ofs1)).setLive 1 13 (levelOf w60.c1 w60.n l.ofs1)

/-- The last minute's live values. -/
def LpSt.liveMinute (l : LpSt) : LpSt :=
  let i := l.iMin
  let l := (l.setLive 0 7 (levelOf i.c0.eA i.n l.ofs0)).setLive 0 8 (levelOf i.c0.eC i.n l.ofs0)
  (l.setLive 1 7 (levelOf i.c1.eA i.n l.ofs1)).setLive 1 8 (levelOf i.c1.eC i.n l.ofs1)

/-- One channel's live values of the last quarter hour. -/
def LpSt.liveQuarterOf (l : LpSt) (k : Nat) (c : LpChanAcc) (n : Nat) : LpSt :=
  let l := (l.setLive k 9 (levelOf c.eA n (l.ofs k))).setLive k 10 (levelOf c.eC n (l.ofs k))
  (l.setLive k 11 (levelOf c.maxF 1 (l.ofs k))).setLive k 12 (peakOf c.pkC (l.ofs k))

/-- The last quarter hour's live values. -/
def LpSt.liveQuarter (l : LpSt) : LpSt :=
  let i := l.iQtr
  (l.liveQuarterOf 0 i.c0 i.n).liveQuarterOf 1 i.c1 i.n

/-- The level of the alert's quantity (R404); of the two channels the greater counts (DEDUCED, log entry 14). -/
def LpSt.alertLevel (l : LpSt) : Nat :=
  let j := if l.qty = 0 then 5 else if l.qty = 1 then 6 else if l.qty = 2 then 13 else 4
  max (tget zeroNat l.live (liveKey 0 j)) (tget zeroNat l.live (liveKey 1 j))

/-- The alert judged (R404): LP_ALERT rises at L or more and falls below L - H; each change logs a record. -/
def judgeAlert (s : State) : State :=
  let v := s.lp.alertLevel
  if !s.lp.alert && decide (s.lp.level ≤ v) then
    State.raise (State.lpEvent { s with lp := { s.lp with alert := true } } 0x15
      (toLe 1 1 ++ toLe 1 s.lp.qty ++ toLe 2 v)) Pg.LPM 8
  else if s.lp.alert && decide (v + s.lp.hyst < s.lp.level) then
    State.lpEvent { s with lp := { s.lp with alert := false } } 0x15 (toLe 1 0 ++ toLe 1 s.lp.qty ++ toLe 2 v)
  else s

/-- An interval's record logged. -/
def logInterval (type : Nat) (i : LpAcc) (cut : Bool) (bad : Nat) (s : State) : State :=
  s.lpLog type (intervalFlags s.lp i cut) s.lp.stamp (intervalPayload s.lp i) bad

/-- INTERVAL_END (R396): the second ends; at SEC 0 the minute, at each quarter hour the quarter. -/
def doIntervalEnd (bad : Nat) (s : State) : State :=
  if s.lp.runs && s.lp.due then
    let s := { s with lp := { s.lp with sec := s.lp.sec + 1, sub := 0, due := false } }
    let isec := s.lp.iSec
    let s := { s with lp := { s.lp.liveSecond with iSec := lpAcc0 true } }
    let s := if s.lp.logSec then logInterval 1 isec false bad s else s
    let s := if s.lp.sec % 60 = 0 then
        let i := s.lp.iMin
        logInterval 2 i false bad { s with lp := { s.lp.liveMinute with iMin := lpAcc0 true } }
      else s
    let s := if s.lp.sec % 900 = 0 then
        let i := s.lp.iQtr
        logInterval 3 i false bad { s with lp := { s.lp.liveQuarter with iQtr := lpAcc0 true } }
      else s
    judgeAlert s
  else s

/-! Supplies and reset of the island (R387, R388, R390). -/

/-- What the loss of the island's processor loses. -/
def LpSt.stop (l : LpSt) : LpSt :=
  { l with due := false, alert := false, iSec := lpAcc0 false, iMin := lpAcc0 false, iQtr := lpAcc0 false,
           lafSq := [0, 0, 0, 0], secs := [], live := [], cal := none, laf := 0 }

/-- LP_VDD_LOSS (R387): the island drops to CLOCK; the battery-backed registers keep the time of the loss. -/
def doLpVddLoss (s : State) : State :=
  match s.lp.power with
  | .measure =>
    let was := s.lp.runs
    let s := { s with lp := { s.lp.stop with power := .clock, held := false, lostAt := some s.lp.stamp } }
    if was then s.raise Pg.LPM 11 else s
  | _ => s

/-- LP_VBAT_LOSS (R387, R392): the island passes through OFF; the calendar restarts when it next runs. -/
def doLpVbatLoss (s : State) : State :=
  match s.lp.power with
  | .clock =>
    { s with lp := { s.lp with power := .off, timeValid := false, lostAt := none, sec := 0, sub := 0,
                               ofs0 := 0, ofs1 := 0, trim := 0, qty := 0, level := 0, hyst := 0, logSec := false } }
  | _ => s

/-- LP_RESET (R388): LP_RST_N low holds the processor; the calendar, battery-backed registers and fuses stay. -/
def doLpReset (s : State) : State :=
  if s.lp.runs then State.raise { s with lp := { s.lp.stop with held := true, lostAt := none } } Pg.LPM 11 else s

/-- The flash's size by the density byte of its JEDEC identifier: 2^density bytes, 2 MB to 256 MB (R397). -/
def flashSizeOf (jedec : Option (Fin 256)) : Option Nat :=
  match jedec with
  | some d => if 21 ≤ d.val ∧ d.val ≤ 28 then some (2 ^ d.val) else none
  | none => none

/-- The newest record whose tag verifies, with its slot (R390). -/
def LpSt.newest (l : LpSt) : Option (Nat × Bytes) :=
  (l.flash.filter fun x => l.verifies x.2).foldl
    (fun a x => match a with
      | none => some x
      | some y => if recSeq y.2 < recSeq x.2 then some x else some y) none

/-- The first erased slot at or after a slot, within `n` tries. -/
def LpSt.freeSlot (l : LpSt) : Nat → Nat → Nat
  | 0, k => k
  | n + 1, k =>
    let k := if k < l.nslots then k else 0
    if tget erased l.flash k == [] then k else LpSt.freeSlot l n (k + 1)

/-- The newest verified CAL record of a channel. -/
def LpSt.newestCal (l : LpSt) (k : Nat) : Option Bytes :=
  ((l.flash.filter fun x => l.verifies x.2 && (nth 0 x.2 4).toNat == 0x12 && (nth 0 x.2 16).toNat == k).foldl
    (fun a x => match a with
      | none => some x
      | some y => if recSeq y.2 < recSeq x.2 then some x else some y) none).map (·.2)

/-- The new offset a CAL record holds. -/
def calOfs (b : Bytes) : Int := signedN 16 (leNat ((b.drop 20).take 2))

/-- Offsets after OFF (R403): from the newest CAL record of each channel; a newest CAL record whose SEAL differs
from the fuse count, or none with a count above 0, leaves zero and sets CAL_MISMATCH. -/
def LpSt.restoreOfs (l : LpSt) : LpSt :=
  let r0 := l.newestCal 0
  let r1 := l.newestCal 1
  let sl (r : Option Bytes) : Nat := match r with | some b => leNat ((b.drop 6).take 2) | none => 0
  let top := max (sl r0) (sl r1)
  if top = l.sealCount then
    { l with ofs0 := (r0.map calOfs).getD 0, ofs1 := (r1.map calOfs).getD 0 }
  else { l with ofs0 := 0, ofs1 := 0, calMismatch := true }

/-- LP_POWER_ON (R390): LP_RST_N rises with LP_VDD in range. Out of CLOCK the calendar has counted on, by an
amount nothing in the main domain fixes (a free value); out of OFF it starts at 2000-01-01 with TIME_VALID 0. -/
def doLpPowerOn (jedec : Option (Fin 256)) (calEn : Bool) (s : State) : State :=
  if s.lp.runs then s else
    let l := s.lp
    let fromOff := l.power == .off
    let fromClock := l.power == .clock
    let lost := l.lostAt.getD 0
    let l := if fromOff then { l with sec := 0, sub := 0, timeValid := false }
      else { l with sec := l.sec + Config.freeNat s.freeCtr, sub := Config.freeNat (s.freeCtr + 1) % 48000 }
    let l := { l with power := .measure, held := false, calEn := calEn, lostAt := none, flashSize := (flashSizeOf jedec).getD 0,
                      flashFault := (flashSizeOf jedec).isNone }
    let l := { l with seqNew := ((l.newest.map fun x => recSeq x.2)).getD 0,
                      slot := match l.newest with
                        | some x => l.freeSlot 1024 (x.1 + 1)
                        | none => l.freeSlot 1024 0 }
    let l := if fromOff then l.restoreOfs else l
    let s := { s with lp := l, freeCtr := s.freeCtr + 2 }
    s.lpEvent 0x10 (toLe 8 (if fromClock then lost else 0) ++ toLe 4 Config.lpVer)

/-! The UART (R405). -/

/-- A UART answer of ERR with a code. -/
def State.uartErr (s : State) (c : Nat) : State := s.emit (.uartErr c)

/-- The UART answer OK. -/
def State.uartOk (s : State) : State := s.emit .uartOk

/-- A UART command is served while the island runs; otherwise nothing is received. -/
def uartCmd (f : State → State) (s : State) : State := if s.lp.runs then f s else s

/-- A UART command that needs LP_CAL_EN high (code 3 otherwise). -/
def uartCal (calEn : Bool) (f : State → State) (s : State) : State :=
  uartCmd (fun s =>
    let s := { s with lp := { s.lp with calEn := calEn } }
    if calEn then f s else s.uartErr 3) s

/-- ID. -/
def doLpId : State → State := uartCmd fun s =>
  (s.emit (.uartData [Config.lpUid, Config.lpVer, s.lp.sealCount, b2n s.lp.key.isSome, b2n s.lp.timeValid])).uartOk

/-- TIME. -/
def doLpTime : State → State := uartCmd fun s => (s.emit (.uartData [s.lp.stamp])).uartOk

/-- HEAD. -/
def doLpHead : State → State := uartCmd fun s => (s.emit (.uartData [s.lp.seqNew, s.lp.tail])).uartOk

/-- The lines of a READ: a record, or ERR 2 for one not held. -/
def readLines (l : LpSt) (a : Nat) : Nat → List Emit
  | 0 => []
  | n + 1 => (match l.find a with | some b => .uartRecord b | none => .uartErr 2) :: readLines l (a + 1) n

/-- READ s n. -/
def doLpRead (a n : Nat) : State → State := uartCmd fun s =>
  if n < 1 ∨ 1024 < n then s.uartErr 2
  else if s.lp.flashFault then s.uartErr 5
  else (s.emitAll (readLines s.lp a n)).uartOk

/-- LIVE. -/
def doLpLive : State → State := uartCmd fun s =>
  (s.emit (.uartData ((List.range 14).map (fun j => tget zeroNat s.lp.live (liveKey 0 j))
    ++ (List.range 14).map (fun j => tget zeroNat s.lp.live (liveKey 1 j))))).uartOk

/-- Whether a date and time exist in the calendar's range (Table 15.2). -/
def dateOk (y mo d h mi sec : Nat) : Bool :=
  decide (2000 ≤ y) && decide (y ≤ 4095) && decide (1 ≤ mo) && decide (mo ≤ 12) && decide (1 ≤ d)
    && decide (d ≤ nth 0 (monthLens (leapYear (y - 2000))) (mo - 1)) && decide (h ≤ 23) && decide (mi ≤ 59) && decide (sec ≤ 59)

/-- Seconds since 2000-01-01 of a date and time. -/
def secondsOf (y mo d h mi sec : Nat) : Nat :=
  (daysToYear (y - 2000) + ((monthLens (leapYear (y - 2000))).take (mo - 1)).foldl (· + ·) 0 + (d - 1)) * 86400
    + h * 3600 + mi * 60 + sec

/-- An interval in progress ended at the old time, where it holds anything. -/
def cutInterval (type : Nat) (i : LpAcc) (s : State) : State :=
  if i.n = 0 then s else logInterval type i true 0 s

/-- SETTIME (R393). -/
def doSetTime (calEn : Bool) (y mo d h mi sec : Nat) : State → State := uartCal calEn fun s =>
  if dateOk y mo d h mi sec then
    let old := s.lp.stamp
    let s := if s.lp.logSec then cutInterval 1 s.lp.iSec s else s
    let s := cutInterval 3 s.lp.iQtr (cutInterval 2 s.lp.iMin s)
    let n := secondsOf y mo d h mi sec
    let s := { s with lp := { s.lp with
      sec := n, sub := 0, due := false, timeValid := true, iSec := lpAcc0 true, iMin := lpAcc0 (sec == 0),
      iQtr := lpAcc0 (sec == 0 && mi % 15 == 0) } }
    (s.lpEvent 0x13 (toLe 8 old ++ toLe 8 s.lp.stamp)).uartOk
  else s.uartErr 2

/-- TRIM (R392): −200.00 to +200.00 ppm. -/
def doLpTrim (calEn : Bool) (v : Int) : State → State := uartCal calEn fun s =>
  if -20000 ≤ v ∧ v ≤ 20000 then
    (State.lpEvent { s with lp := { s.lp with trim := v } } 0x14 (toLe 1 0 ++ toLe 4 (unsignedN 32 v))).uartOk
  else s.uartErr 2

/-- An accepted change of an offset (R401): the seal count, the CAL record, the offset; CAL_MISMATCH ends. -/
def acceptOfs (k method : Nat) (new : Int) (ref meas : Nat) (s : State) : State :=
  let old := s.lp.ofs k
  let l := { s.lp with sealCount := s.lp.sealCount + 1, calMismatch := false }
  let l := if k = 0 then { l with ofs0 := new } else { l with ofs1 := new }
  (State.lpEvent { s with lp := l } 0x12
    (toLe 1 k ++ toLe 1 method ++ toLe 2 (unsignedN 16 old) ++ toLe 2 (unsignedN 16 new) ++ toLe 2 ref ++ toLe 2 meas)).raise Pg.LPM 12

/-- Whether an offset lies within ±150.00 dB. -/
def ofsOk (v : Int) : Bool := decide (-15000 ≤ v) && decide (v ≤ 15000)

/-- CAL (R401): the 10 s measurement starts. -/
def doLpCal (calEn : Bool) (k : Fin 2) (level : Int) (vddLow : Bool) : State → State := uartCal calEn fun s =>
  if s.lp.cal.isSome then s.uartErr 6
  else if s.lp.sealCount = 255 ∨ vddLow then s.uartErr 4
  else if level < 0 ∨ 65535 < level then s.uartErr 2
  else { s with lp := { s.lp with cal := some ⟨k.val, level, 0, 0⟩ } }

/-- CAL_DONE (R401): 10 s, 480,000 frames, have been measured. -/
def doCalDone (vddLow : Bool) (s : State) : State :=
  if !s.lp.runs then s else
  match s.lp.cal with
  | none => s
  | some c =>
    if c.n < 480000 then s else
      let s := { s with lp := { s.lp with cal := none } }
      let meas := levelOf c.eZ c.n (s.lp.ofs c.k)
      let new := c.level - meas + s.lp.ofs c.k
      if vddLow then s.uartErr 4
      else if ofsOk new then (acceptOfs c.k 0 new c.level.toNat meas s).uartOk
      else s.uartErr 2

/-- CAL_EN_FALL (R402): a calibration in progress is abandoned. -/
def doCalEnFall (s : State) : State := { s with lp := { s.lp with calEn := false, cal := none } }

/-- OFFSET (R401). -/
def doLpOffset (calEn : Bool) (k : Fin 2) (v : Int) (vddLow : Bool) : State → State := uartCal calEn fun s =>
  if s.lp.cal.isSome then s.uartErr 6
  else if ofsOk v = false then s.uartErr 2
  else if s.lp.sealCount = 255 ∨ vddLow then s.uartErr 4
  else (acceptOfs k.val 1 v 0 0 s).uartOk

/-- ALERT (R404). -/
def doLpAlert (calEn : Bool) (q l h : Nat) : State → State := uartCal calEn fun s =>
  if 3 < q ∨ 65535 < l ∨ 65535 < h then s.uartErr 2
  else (State.lpEvent { s with lp := { s.lp with qty := q, level := l, hyst := h } } 0x14
    (toLe 1 1 ++ toLe 1 q ++ toLe 2 l ++ toLe 2 h)).uartOk

/-- LOGSEC (R399). -/
def doLogSec (calEn on : Bool) : State → State := uartCal calEn fun s =>
  (State.lpEvent { s with lp := { s.lp with logSec := on } } 0x14 (toLe 1 2 ++ toLe 1 (b2n on))).uartOk

/-- KEY (R400): once; the record shows no part of it. -/
def doLpKey (calEn : Bool) (words : List Word) (vddLow : Bool) : State → State := uartCal calEn fun s =>
  if words.length ≠ 8 then s.uartErr 2
  else if s.lp.key.isSome ∨ vddLow then s.uartErr 4
  else (State.lpEvent { s with lp := { s.lp with key := some words } } 0x14 (toLe 1 3)).uartOk

/-! The mailbox (R409). -/

/-- GO asks the island for a record; GO written while it reads 1 is ignored with code 0x40. -/
def doLpmGo (path : Nat) (s : State) : State :=
  if s.on R.LPM_REQ_GO then s.err Pg.LPM 0x068 0x40 path 0
  else s.wr R.LPM_REQ_GO 1

/-- The 16 words of a record in LPM_REC. -/
def putRec (s : State) : Nat → Bytes → State
  | 0, _ => s
  | n + 1, b => putRec (s.setW (A.LPM_REC (15 - n)) (BitVec.ofNat 32 (leNat (b.take 4)))) n (b.drop 4)

/-- REQ_DONE (R409): the answer to a request that waits. -/
def doReqDone (s : State) : State :=
  if s.on R.LPM_REQ_GO then
    let seq := (s.getW A.LPM_REQ_SEQ).toNat
    let s := s.wr R.LPM_REQ_GO 0
    let s := if !s.lp.runs then s.wr R.LPM_REQ_RES 3
      else if s.lp.flashFault then s.wr R.LPM_REQ_RES 4
      else match s.lp.find seq with
        | some b => putRec (s.wr R.LPM_REQ_RES 1) 16 b
        | none => s.wr R.LPM_REQ_RES 2
    s.raise Pg.LPM 10
  else s

end Sys2Proof.Machine
end

