-- ==== Sys2Proof/Machine/Supply.lean ====
section
/-! DEFINITION. Chapter 16: rail monitors and dips (R413 to R415), fuses (R424), resets (R416, R417), the boot search (R419 to R422), mode
requests and transitions (R423), DARK and its power domains (R425 to R428), and the reference's audio PLL (R252). -/

namespace Sys2Proof.Machine

/-! Rails (R413, R414). -/

/-- The number of a rail in BO_WARN. -/
def railNo : Rail → Nat
  | .core => 0
  | .mem => 1

/-- The nominal value of a rail in mV. -/
def State.railNom (s : State) : Rail → Nat
  | .core => s.rd R.PWR_MON_CFG_CORE_NOM
  | .mem => 800

/-- The warning level, 95 % of nominal. -/
def State.railWarn (s : State) (r : Rail) : Nat := s.railNom r * 95 / 100

/-- The reset level, 90 % of nominal. -/
def State.railReset (s : State) (r : Rail) : Nat := s.railNom r * 90 / 100

/-- The dip in progress on a rail. -/
def State.dip (s : State) : Rail → Option Dip
  | .core => s.pwr.dipCore
  | .mem => s.pwr.dipMem

/-- A rail's dip and reading rewritten. -/
def State.setDip (s : State) (r : Rail) (d : Option Dip) (mv : Nat) : State :=
  match r with
  | .core => { s with pwr := { s.pwr with dipCore := d, coreMv := mv } }
  | .mem => { s with pwr := { s.pwr with dipMem := d, memMv := mv } }

/-- A number of µs in ticks, rounded up to the first tick at which it has passed. -/
def usTicks (us : Nat) : Nat := (us * 12288 + 999) / 1000

/-- Main-domain fuse writes are held off: during a dip and for 1 ms after it (R414). -/
def State.fuseHeld (s : State) : Bool :=
  s.pwr.dipCore.isSome || s.pwr.dipMem.isSome || (s.pwr.dipEnded != 0 && decide (s.clk < s.pwr.dipEnded + usTicks 1000))

/-- RAIL_BELOW_WARNING (R413): a dip begins. -/
def doRailBelow (r : Rail) (mv : Nat) (s : State) : State :=
  if (s.dip r).isNone && decide (mv < s.railWarn r) && decide (s.railReset r < mv) then
    let free := !s.fuseHeld
    let s := s.setDip r (some ⟨s.clk, mv, false, false, false⟩) mv
    match s.pwr.fuseBusy with
    | some _ => if free then { s with pwr := { s.pwr with fuseBusy := some s.clk } } else s
    | none => s
  else s

/-- The data word of BO_WARN (R414): least voltage, rail, duration in 10 ns units, saturating. -/
def boWord (r : Rail) (least samples : Nat) : Word := BitVec.ofNat 32 (least + railNo r * 2 ^ 10 + min samples (2 ^ 19 - 1) * 2 ^ 13)

/-- BO_WARN (R413, R414): the rail reads 5 mV or more above its warning level, and the dip ends. -/
def doBoWarn (r : Rail) (mv least samples : Nat) (s : State) : State :=
  match s.dip r with
  | none => s
  | some d =>
    if s.railWarn r + 5 ≤ mv ∧ least ≤ d.min ∧ s.railReset r < least then
      let s := s.setDip r none mv
      let s := { s with pwr := { s.pwr with dipEnded := max 1 s.clk } }
      let w := boWord r least samples
      (((s.setW A.PWR_BO w).inc R.PWR_BO_CNT_COUNT).raise Pg.PWR 8).err Pg.PWR 0x04C 0x42 0 w
    else s

/-- A rail whose dip has lasted some µs and has not yet had a timed effect. -/
def State.dipOver (s : State) (us : Nat) (done : Dip → Bool) : Option Rail :=
  [Rail.core, Rail.mem].find? fun r => match s.dip r with
    | some d => !done d && decide (d.since + usTicks us ≤ s.clk)
    | none => false

/-- A dip marked. -/
def State.markDip (s : State) (r : Rail) (f : Dip → Dip) : State :=
  match r with
  | .core => { s with pwr := { s.pwr with dipCore := s.pwr.dipCore.map f } }
  | .mem => { s with pwr := { s.pwr with dipMem := s.pwr.dipMem.map f } }

/-- A priority scrub started (R386): ignored while one runs. -/
def State.startPrio (s : State) : State :=
  match s.fab.prio with
  | some _ => s
  | none => { s with fab := { s.fab with prio := some s.clk } }

/-- DIP_SCRUB (R414). -/
def doDipScrub (s : State) : State :=
  match s.dipOver 2 (·.scrubbed) with
  | some r => (s.markDip r fun d => { d with scrubbed := true }).startPrio
  | none => s

/-- DIP_RELINQUISH (R319). -/
def doDipRelinquish (s : State) : State :=
  if s.on R.TW_REL_SUPPLY && s.mode.cur == .leader then
    match s.dipOver (1000 * s.rd R.TW_REL_SUP_MS) (·.relq) with
    | some r => (s.markDip r fun d => { d with relq := true }).relinquish false
    | none => s
  else s

/-- The modes from which QUIESCE is entered (Table 1.5). -/
def Mode.quiets : Mode → Bool
  | .standalone => true | .leader => true | .follower => true | .orphan => true
  | _ => false

/-- QUIESCE to be entered at the next block boundary by an armed rule (R424). -/
def State.quiesceNext (s : State) : State := { s with mode := { s.mode with pend := some .quiesce, pendAt := s.block + 1 } }

/-- DIP_QUIESCE (R424). -/
def doDipQuiesce (s : State) : State :=
  if s.on R.MODE_QRULE_SUPPLY && s.mode.cur.quiets then
    match s.dipOver (1000 * s.rd R.MODE_QRULE_SUP_MS) (·.quiesced) with
    | some r => (s.markDip r fun d => { d with quiesced := true }).quiesceNext
    | none => s
  else s

/-! Fuses (R424). -/

/-- PROG: a write of PWR_FUSE.PROG. Outside COMMISSION, while busy and for a key hash already set it is refused. -/
def State.fuseProg (s : State) (path : Nat) (value : Word) : State :=
  if s.mode.cur != .commission || s.pwr.fuseHash.isSome || s.pwr.fuseBusy.isSome then s.err Pg.PWR 0x074 0x40 path value
  else { s with pwr := { s.pwr with fuseBusy := some s.clk } }

/-- FUSE_DONE: the key hash is set, unless a dip holds the write off. -/
def doFuseDone (s : State) : State :=
  match s.pwr.fuseBusy with
  | some _ => if s.fuseHeld then s else { s with pwr := { s.pwr with fuseBusy := none, fuseHash := some s.pwr.keyh } }.raise Pg.PWR 9
  | none => s

/-- FUSE_HOLD_TIMEOUT: held off for more than 100 ms. -/
def doFuseHoldTimeout (s : State) : State :=
  match s.pwr.fuseBusy with
  | some t => if s.fuseHeld && decide (t + usTicks 100000 < s.clk) then
      ({ s with pwr := { s.pwr with fuseBusy := none } }).err Pg.PWR 0x074 0x41 0 0
    else s
  | none => s

/-! Resets (Tables 16.2 and 16.3). -/

/-- The bits of a register word that a reset other than power-on and brown-out keeps: error counts, counters that count since power-on
(not on the ETH and BR pages), and the learned ageing model. -/
def keptBits (addr : Nat) : Nat :=
  let page := (addr - 0x40000000) / 0x1000
  let off := addr % 0x1000
  if decide (0x30 ≤ page) && decide (page ≤ 0x34) then 0
  else if off = 0x020 ∨ addr = A.HOLD_AGE_A ∨ addr = A.HOLD_AGE_B ∨ addr = A.HOLD_AGE_H then 2 ^ 32 - 1
  else match findReg page off with
    | some d => d.flds.foldl (fun a f => match f.acc with | .cnt => a + (2 ^ f.w - 1) * 2 ^ f.lo | _ => a) 0
    | none => 0

/-- A word with some bits kept and the others as after reset. -/
def mergeBits (mask : Nat) (old new : Word) : Word := (old &&& BitVec.ofNat 32 mask) ||| (new &&& ~~~ BitVec.ofNat 32 mask)

/-- The register words after a reset that keeps counters. -/
def State.keptRegs (s : State) : Sparse Word :=
  tkeep resetWord (fun a w => mergeBits (keptBits a) w (resetWord a)) s.regs

/-- What every reset keeps of the machine: the commands that wait, the log of outputs, the free values, the fuses, the Loupe. -/
def State.resetBase (s : State) (cause : Nat) (posA ioa : Bool) : State :=
  let r := State.reset
  let t : State := { r with pending := s.pending, outs := s.outs, freeCtr := s.freeCtr, lp := s.lp,
                            pwr := { r.pwr with fuseHash := s.pwr.fuseHash, posA := posA, ioa3v3 := ioa } }
  let t := if s.twin.drive then t.emit (.drive false) else t
  t.wr R.PWR_RST_CAUSE_CAUSE cause

/-- A power-on or brown-out reset (R415, R417, R422). -/
def State.coldReset (s : State) (cause : Nat) (posA ioa : Bool) : State := s.resetBase cause posA ioa

/-- A stream's counters alone. -/
def keepRx (v : RxSt) (n : Nat) : RxSt := { rx0 n with cnt := v.cnt }
def keepTx (v : TxSt) (n : Nat) : TxSt := { tx0 n with sent := v.sent, flagged := v.flagged }

/-- A reset by RESET_N, the host, a function level reset or the watchdog (Table 16.3). -/
def State.warmReset (s : State) (cause : Nat) (posA : Bool) : State :=
  let t := s.resetBase cause posA s.pwr.ioa3v3
  let t := { t with
    regs := s.keptRegs, elog := s.elog, elogSeq := s.elogSeq, active := s.active, latent := s.latent, shm := s.shm
    dev := { t.dev with count := s.dev.count }
    fab := { t.fab with pbuf := s.fab.pbuf, bad := s.fab.bad, ceWait := s.fab.ceWait }
    ref := { t.ref with ageSec := s.ref.ageSec, hours := s.ref.hours, everLocked := s.ref.everLocked }
    str := { t.str with
      rx := tkeep rx0 (fun n v => keepRx v n) s.str.rx
      tx := tkeep tx0 (fun n v => keepTx v n) s.str.tx } }
  t.wr R.PWR_RST_CAUSE_CAUSE cause

/-- POWER_ON_RESET. -/
def doPowerOnReset (posA ioa : Bool) (s : State) : State := s.coldReset 0 posA ioa

/-- BROWN_OUT (R415): a sample at or below the reset level. -/
def doBrownOut (r : Rail) (mv : Nat) (s : State) : State :=
  if mv ≤ s.railReset r then s.coldReset 1 s.pwr.posA s.pwr.ioa3v3 else s

/-- RESET_N (Table 16.2): low for at least 1 µs, in units of 100 ns; between 100 ns and 1 µs the spec does not say, and a free value
decides. -/
def doResetN (low100ns : Nat) (posA : Bool) (s : State) : State :=
  if 10 ≤ low100ns then s.warmReset 2 posA
  else if low100ns = 0 then s
  else
    let hit := Config.freeBool s.freeCtr
    if hit then s.tick1.warmReset 2 posA else s.tick1

/-- FUNCTION_LEVEL_RESET: the link is kept. -/
def doFlr (s : State) : State :=
  let h := s.host
  let t := s.warmReset 4 s.pwr.posA
  { t with host := { t.host with pcieUp := h.pcieUp, ep := h.ep } }

/-! The boot search (R419 to R421). -/

/-- A little-endian number of an image. -/
def imgNat (b : Bytes) (off n : Nat) : Nat := leNat ((b.drop off).take n)

/-- A big-endian number of an image. -/
def imgBe (b : Bytes) (off n : Nat) : Nat := beNat ((b.drop off).take n)

/-- A section: type, destination, image offset, length. -/
structure Section where
  type : Nat
  dest : Nat
  off : Nat
  len : Nat
  deriving DecidableEq, Repr

/-- The sections of an image. -/
def imgSections (b : Bytes) : List Section :=
  (List.range (imgNat b 0xC 4)).map fun i =>
    let a := 0x80 + 16 * i
    ⟨imgNat b a 4, imgNat b (a + 4) 4, imgNat b (a + 8) 4, imgNat b (a + 12) 4⟩

/-- Whether a range lies within another. -/
def within (a n lo size : Nat) : Bool := decide (lo ≤ a) && decide (a + n ≤ lo + size)

/-- Whether a range is a legal destination: shared memory, a hen memory or the latent window. -/
def memDest (a n : Nat) : Bool := within a n 0x10000000 0x6000000 || within a n 0x20000000 0x2000000 || within a n 0x51000000 0x800000

/-- Whether an address is a register of a page other than PWR and MODE. -/
def regDest (a : Nat) : Bool :=
  let page := (a - 0x40000000) / 0x1000
  decide (0x40000000 ≤ a) && isPage page && page != Pg.PWR && page != Pg.MODE && a % 4 == 0

/-- Whether two ranges meet. -/
def meets (a n b m : Nat) : Bool := decide (a < b + m) && decide (b < a + n)

/-- Whether a section is good (R421); `own` is the image's own range in shared memory, for a pushed image. -/
def sectionOk (b : Bytes) (own : Option Nat) (x : Section) : Bool :=
  decide (x.off + x.len ≤ imgNat b 8 4) &&
    (if x.type = 3 then x.len % 8 == 0 && (List.range (x.len / 8)).all (fun i => regDest (imgNat b (x.off + 8 * i) 4))
     else decide (1 ≤ x.type) && decide (x.type ≤ 4) && memDest x.dest x.len
       && (match own with | some n => !meets x.dest x.len 0x10000000 n | none => true))

/-- The failure code of an image against the fuses, 0 where it verifies (R421). -/
def imageCode (fuse : Option (List Word)) (pushed : Bool) (b : Bytes) : Nat :=
  let len := imgNat b 8 4
  if imgNat b 0 4 ≠ 0x4B5A4249 then 1
  else if imgNat b 4 4 ≠ 0x00010000 || len % 64 ≠ 0 || decide (len < 0x2C0) || decide (0x800000 < len) || decide (b.length < len)
      || decide (imgNat b 0xC 4 < 1) || decide (32 < imgNat b 0xC 4) || imgNat b 0x14 44 ≠ 0
      || !(imgSections b).all (sectionOk b (if pushed then some len else none)) then 2
  else if fuse.any (fun k => sha256 ((b.drop 0x40).take 64) != k.flatMap fun w => toLe 4 w.toNat) then 3
  else if ecdsaOk (imgBe b 0x40 32) (imgBe b 0x60 32) (imgBe b (len - 64) 32) (imgBe b (len - 32) 32) (sha256 (b.take (len - 64))) then 0
  else 4

/-- An image taken: its source, version and digest (R422). -/
def State.takeImage (s : State) (src : Nat) (b : Bytes) : State :=
  let img := b.take (imgNat b 8 4)
  let dig := sha256 img
  let s := { s with pwr := { s.pwr with image := some img, imageSrc := src, booting := false } }
  let s := (s.wr R.PWR_BOOT_STAT_SRC src).setW A.PWR_BOOT_VER (BitVec.ofNat 32 (imgNat b 0x10 4))
  (List.range 8).foldl (fun s i => s.setW (A.PWR_BOOT_DIG i) (BitVec.ofNat 32 (imgNat dig (4 * i) 4))) s

/-- One flash source tried; a failure records its code. -/
def State.tryFlash (s : State) (src : Nat) (f : Option Bytes) : State :=
  match s.pwr.image with
  | some _ => s
  | none => match f with
    | none => s.wr R.PWR_BOOT_STAT_CODE 5
    | some b => let c := imageCode s.pwr.fuseHash false b
                if c = 0 then s.takeImage src b else s.wr R.PWR_BOOT_STAT_CODE c

/-- BOOT_SEARCH (R419): both flash sources in order, then the host push. -/
def doBootSearch (f0 f1 : Option Bytes) (s : State) : State :=
  if s.mode.cur == .boot && s.pwr.booting && !s.on R.PWR_BOOT_STAT_WAIT_PUSH then
    let s := (s.tryFlash 0 f0).tryFlash 1 f1
    match s.pwr.image with
    | some _ => s
    | none => s.wrB R.PWR_BOOT_STAT_WAIT_PUSH true
  else s

/-- PUSH (R419): in BOOT, while Sheepdog waits for it. -/
def State.push (s : State) : State :=
  if s.mode.cur == .boot && s.on R.PWR_BOOT_STAT_WAIT_PUSH then
    let len := mNat zeroByte s.shm 8 4
    let b := mBytes zeroByte s.shm 0 (max 0x280 (min len 0x800000))
    let c := imageCode s.pwr.fuseHash true b
    let s := s.wrB R.PWR_BOOT_STAT_WAIT_PUSH false
    if c = 0 then s.takeImage 2 b
    else (s.wr R.PWR_BOOT_STAT_CODE c).wrB R.PWR_BOOT_STAT_WAIT_PUSH true
  else s

/-! Power domains and fences (R366, R428). -/

/-- The number of a domain among the fences. -/
def domNo : Domain → Nat
  | .flock f => f.val
  | .audio => audioDom
  | .eth p => 17 + p.val
  | .twl => 21

/-- A flock loses power (R102): its hens' memories lose their contents. -/
def State.flockOff (s : State) (f : Nat) : State :=
  let v := s.flock f
  let was := v.powered
  let s := (s.zeroHens f).setFlock f { v with powered := false, taking := false, gateReq := false, fencing := false, readyAt := none }
  let s := (s.setQueue f []).cutMules f
  if was then s.raise (Pg.FL f) 9 else s

/-- DOMAIN_POWER_DOWN (R366): every fenced mule holds. An Ethernet lane and the twin link lanes are used by no mule, so their fences end as
they begin. -/
def doDomainPowerDown (d : Domain) (s : State) : State :=
  let n := domNo d
  if s.fab.fences.any (fun f => f.dom == n) && s.fenceHeld n then
    match d with
    | .flock f => s.flockOff f.val
    | _ => s.cutMules n
  else s

/-- An entry to DARK abandoned because its fence was refused (R425). -/
def State.darkRefused (s : State) : State :=
  ({ s with mode := { s.mode with entering := false } }.flocksBack).err Pg.MODE 0x044 0x42 0 7

/-- FENCE_TIMEOUT (R366): the mules have not all reached a hold within PWR_FENCE_TMO. -/
def doFenceTimeout (d : Domain) (s : State) : State :=
  let n := domNo d
  match s.fab.fences.find? fun f => f.dom == n with
  | none => s
  | some f =>
    if f.since + usTicks (s.rd R.PWR_FENCE_TMO_US) ≤ s.clk ∧ !s.fenceHeld n then
      let m := ((List.range 96).find? fun m => s.uses m n && (s.mule m).st != .fenced).getD 0
      let s := s.refuseFence n
      if s.mode.entering then s.darkRefused
      else match d with
        | .flock i =>
          let v := s.flock i.val
          let s := (s.setFlock i.val { v with fencing := false, taking := true }).setEnable (Pg.FL i.val) true
          (s.raise (Pg.FL i.val) 11).err (Pg.FL i.val) 0x008 0x41 0 (BitVec.ofNat 32 m)
        | _ => s
    else s

/-- A write of PWR_DOM_CTRL.TWL_OFF (R428). -/
def State.twlOffCmd (s : State) (path : Nat) (value : Word) : State :=
  if bitN value.toNat 0 = 0 then { s with pwr := { s.pwr with twlOff := false } }.wrB R.PWR_DOM_CTRL_TWL_OFF false
  else if s.modeFor path != .commission then s.err Pg.PWR 0x070 0x05 path value
  else if s.on R.TW_CFG_EN then s.err Pg.PWR 0x070 0x43 path value
  else
    let s := { s with pwr := { s.pwr with twlOff := true } }
    doTwinLinkDown (s.wrB R.PWR_DOM_CTRL_TWL_OFF true)

/-- A write of 1 to TW_CFG.EN powers the twin link lanes up (R428). -/
def State.twlOn (s : State) : State :=
  { s with pwr := { s.pwr with twlOff := false } }.wrB R.PWR_DOM_CTRL_TWL_OFF false

/-- UNGATED, with the flock's mules to restart at the next block boundary (R103, R366). -/
def doFlockReady (f : Nat) (s : State) : State :=
  let was := (s.flock f).readyAt.isSome
  let s := doUngated f s
  if was && (s.flock f).readyAt.isNone then
    (List.range 4).foldl (fun s i =>
      let v := s.mule (4 * f + i)
      if v.st == .off then s.setMule (4 * f + i) { v with restart := some (s.block + 1) } else s) s
  else s

/-! Mode requests (R423, Tables 1.5 and 16.6). -/

/-- A request accepted: it takes effect at a block. -/
def State.pendMode (s : State) (m : Mode) (at_ : Nat) : State := { s with mode := { s.mode with pend := some m, pendAt := at_ } }

/-- A request refused with a code. -/
def State.modeRefused (s : State) (path code : Nat) (value : Word) : State := s.err Pg.MODE 0x044 code path value

/-- The audio side that STANDALONE, LEADER and FOLLOWER need (Table 16.6, R427). -/
def State.audioUp (s : State) : Bool := s.mode.audioReady && !s.audio.apllLost

/-- A leader answers on the twin link (R326). -/
def State.leaderThere (s : State) : Bool := s.twUp && s.twin.hb && s.twin.peerRole = 2

/-- A request for LEADER or FOLLOWER from COMMISSION (R326). -/
def State.twinReq (s : State) (tgt : Mode) (path : Nat) (value : Word) : State :=
  if !(s.on R.TW_CFG_EN && !s.twin.refused && s.audioUp) then s.modeRefused path 0x41 value
  else if tgt == .leader then
    (if s.twin.peerRole = 2 && (s.twin.hb || s.twin.nhb) then s.err Pg.TW 0 0x42 path value else s.pendMode .leader (s.block + 1))
  else if !s.leaderThere then s.err Pg.TW 0 0x42 path value
  else
    let s := (s.pendMode .follower 0).switchStart 7
    ({ s with ref := { s.ref with leader := true } }).setTwin { s.twin with joining := true }

/-- A MODE_REQ with GO (R423, R425, R427): judged when it is written. `bnd` is the boundary that travels with a mirrored request (R297). The code of a request for any
mode but COMMISSION while an entry to DARK is under way is not stated: 0x05, as for one that is written while another is pending (DESIGN CHOICE, log entry
47). -/
def State.modeReq (s : State) (tgt : Mode) (path : Nat) (value : Word) (bnd : Option Nat) (wakePin : Bool) : State :=
  let cur := s.mode.cur
  let next := bnd.getD (s.block + 1)
  if tgt == .commission && (cur == .dark || s.mode.entering) then s.wake 2
  else if s.mode.pend.isSome || s.mode.entering then s.modeRefused path 0x05 value
  else match cur with
    | .commission =>
      (match tgt with
       | .standalone => if !s.on R.TW_CFG_EN && s.audioUp then s.pendMode .standalone next else s.modeRefused path 0x41 value
       | .leader => s.twinReq .leader path value
       | .follower => s.twinReq .follower path value
       | .dark => if (wakePin && s.on R.MODE_WAKE_PIN_EN) || (s.lp.alert && s.on R.LPM_CFG_WAKE_EN) then s.modeRefused path 0x42 value
                  else s.pendMode .dark next
       | _ => s.modeRefused path 0x40 value)
    | .quiesce => if tgt == s.mode.prev || tgt == .commission then s.pendMode tgt next else s.modeRefused path 0x40 value
    | _ =>
      if tgt == .quiesce && cur.quiets then s.pendMode .quiesce (if cur == .leader then s.block + 2 else next)
      else s.modeRefused path 0x40 value

/-- Where a return from QUIESCE leads: PREV, or COMMISSION where the twin state no longer allows it (Table 16.6). -/
def State.returnTo (s : State) (m : Mode) : Mode :=
  match m with
  | .follower => if s.twin.peerRole = 2 && (s.twin.hb || s.twin.nhb) then .follower else .commission
  | .orphan => if s.twin.driveIn then .orphan else .commission
  | m => m

/-- CHANGED (R423): an accepted transition takes effect at its block boundary. DARK has its own entry, and a join ends at its rejoin
boundary. -/
def doChanged (s : State) : State :=
  match s.mode.pend with
  | none => s
  | some m =>
    if s.atBoundary && decide (s.mode.pendAt ≤ s.block) && m != .dark && !s.twin.joining then
      let back := s.mode.cur == .quiesce
      let m := if back then s.returnTo m else m
      let s := s.setMode m
      let s := { s with mode := { s.mode with pend := none } }
      let s := if back && m == .follower && !s.twin.inStep && s.twin.copy == .none then s.startResync else s
      let s := if m == .quiesce then
          let s := if s.mode.prev == .orphan && s.twin.copy != .none then s.endCopy else s
          s.setTwin { s.twin with wLink := none, wNet := false, wIn := false, wRelq := none, leadDue := none }
        else s
      if m == .commission then
        let s := if s.twin.copy == .none then s else s.endCopy
        s.setTwin { s.twin with inStep := false, peerStep := false, relq := false, deg := false, leadDue := none }
      else if m == .leader || m == .standalone then
        s.setTwin { s.twin with wLink := none, wNet := false, wIn := false, wRelq := none, leadDue := none, inStep := false }
      else s
    else s

/-! DARK (R425 to R427). -/

/-- The first steps of an entry: actions cancelled, copies discarded, flocks gated and mules fenced. -/
def State.darkBegin (s : State) : State :=
  let s := { s with mode := { s.mode with pend := none, entering := true } }
  let s := s.cancelAll.streamsDark
  let s := (List.range 16).foldl (fun s f =>
    if (s.flock f).powered then
      let s := s.setFlock f { s.flock f with taking := false, gateReq := false, readyAt := none }
      if s.fab.fences.any (fun x => x.dom == f) then s else s.fence f
    else s) s
  s.fence audioDom

/-- The serial ports in DARK: no lane holds its lock, and a group that is enabled starts again on the wake (R196, R288). -/
def State.serialDark (s : State) : State :=
  (List.range 8).foldl (fun s g =>
    let v := s.grp g
    s.setGrp g { v with phase := if v.phase == .off then .off else .waiting s.smp, lanes := tmap lane0 (fun l => { l with good := 0, bad := 0, lock := false }) v.lanes }) s

/-- The last step: every domain to be cut powers down, and the mode reads DARK. -/
def State.darkEnd (s : State) : State :=
  let s := ((List.range 16).filter fun f => (s.flock f).powered).foldl State.flockOff s
  let s := s.cutMules audioDom
  let s := (List.range 4).foldl (fun s p => if s.laneKept p then s else s.dropLink p) s
  let s := doTwinLinkDown (s.refDark.psDark.setDrive false)
  let s := (if s.audio.apllLost then s else { s with audio := { s.audio with apllLost := true } }.raise Pg.REF 13).serialDark
  let s := s.setMode .dark
  { s with mode := { s.mode with entering := false, audioReady := false, wakeAt := none } }

/-- DARK_ENTRY (R425): begins at the block boundary of an accepted request, and ends once every fenced mule holds. -/
def doDarkEntry (s : State) : State :=
  let s := if s.mode.pend == some .dark && s.atBoundary && decide (s.mode.pendAt ≤ s.block) && s.mode.cur == .commission then s.darkBegin else s
  if s.mode.entering && s.fab.fences.all (fun f => s.fenceHeld f.dom) then s.darkEnd else s

/-- WAKE_PIN (R427). -/
def doWakePin (s : State) : State := if s.on R.MODE_WAKE_PIN_EN then s.wake 1 else s

/-- LOUPE_ALARM (R408, R427): LP_ALERT is high with LPM_CFG.WAKE_EN set. -/
def doLoupeAlarm (s : State) : State := if s.lp.alert && s.on R.LPM_CFG_WAKE_EN then s.wake 3 else s

/-- The audio PLL locks: the clock-error mute of the power stages is lifted as R349 gives. -/
def State.apllLock (s : State) : State :=
  if s.audio.apllLost then { s with audio := { s.audio with apllLost := false } }.psApllRelock else s

/-- AUDIO_READY (R427): 20 ms after the wake event. -/
def doAudioReady (s : State) : State :=
  match s.mode.wakeAt with
  | none => s
  | some t =>
    if t + usTicks 20000 ≤ s.clk ∧ s.mode.cur ≠ .dark then
      let s := { s with mode := { s.mode with wakeAt := none, audioReady := true } }.apllLock
      let s := (List.range 16).foldl (fun s f => match (s.flock f).readyAt with
        | some _ => doFlockReady f (s.setFlock f { s.flock f with readyAt := some 0 })
        | none => s) s
      let s := (List.range 24).foldl (fun s i =>
        let v := s.mule (64 + i)
        if v.st == .off then s.setMule (64 + i) { v with restart := some (s.block + 1) } else s) s
      s.raise Pg.MODE 9
    else s

/-- APLL_LOST (R252). -/
def doApllLost (s : State) : State :=
  if s.audio.apllLost || !s.mode.cur.counts then s
  else
    let s := ({ s with audio := { s.audio with apllLost := true } }.psApllLost).raise Pg.REF 13
    (List.range 8).foldl (fun s g => if (gcfg s.active g).master && clockedUse s.active g then s.clkLose g none else s) s

/-- APLL_RELOCK (R252, R349); in DARK the PLL is stopped. -/
def doApllRelock (s : State) : State := if s.mode.cur == .dark then s else s.apllLock

end Sys2Proof.Machine
end

