-- ==== Sys2Proof/Machine/Status.lean ====
section
/-! DEFINITION. STATUS of every page (R47 and the page sections of the chapters), what a page signals (R48, R49), and `settle`: the events
FAULT and DEGRADED and the MSI-X messages that follow a change of the state. -/

namespace Sys2Proof.Machine

/-- The four bits of STATUS. -/
structure Status where
  ready : Bool
  busy : Bool
  fault : Bool
  degraded : Bool
  deriving DecidableEq, Repr

/-- A page whose chapter names no condition: READY while it is enabled outside BOOT and DARK (DESIGN CHOICE, log entry 25). -/
def State.plainStatus (s : State) (page : Nat) : Status := ⟨s.enabled page && s.mode.cur.counts, false, false, false⟩

/-- Whether a group is muted for clock loss (R185, R186). -/
def GrpSt.muted (v : GrpSt) : Bool := match v.phase with
  | .lost _ => true
  | _ => false

/-- Whether an enabled bi-phase input lane of a group is unlocked. -/
def State.laneOut (s : State) (g : Nat) : Bool :=
  s.grpOn g && (List.range 8).any fun l =>
    rxBp s.active g l && (rxOn s.active g (2 * l) || rxOn s.active g (2 * l + 1)) && !((s.grp g).lane l).lock

/-- STATUS of an SAPG page. -/
def State.sapgStatus (s : State) (g : Nat) : Status :=
  { s.plainStatus (Pg.SAPG g) with fault := (s.grp g).muted, degraded := s.laneOut g }

/-- STATUS of an FL page (R102). -/
def State.flStatus (s : State) (f : Nat) : Status := ⟨(s.flock f).powered && (s.flock f).taking, false, false, false⟩

/-- STATUS of an ETH page. -/
def State.ethStatus (s : State) (p : Nat) : Status := ⟨s.linkUp p, false, false, s.on (R.ETH_STAT_HOLD p)⟩

/-- STATUS of the STRX page (R247). -/
def State.strxStatus (s : State) : Status :=
  let en := (List.range 256).filter fun n => eEn (rxW s.active n 0)
  { s.plainStatus Pg.STRX with fault := en.any fun n => (s.rx n).state == .idle, degraded := en.any fun n => s.oneNet n }

/-- STATUS of the REF page (R252). -/
def State.refStatus (s : State) : Status :=
  ⟨s.ref.state == .locked, false, s.audio.apllLost, s.ref.state == .holdover || s.ref.rail⟩

/-- STATUS of the TW page. -/
def State.twStatus (s : State) : Status :=
  ⟨s.twin.inStep || s.twin.peerStep, false, s.twin.refused,
   s.twin.deg || s.twin.npart || s.mode.cur == .orphan || s.twin.copy == .resync || s.twin.lanes = 1⟩

/-- STATUS of a PS page. -/
def State.psStatus (s : State) (i : Nat) : Status :=
  let l := (List.range 8).map fun j => s.ps (8 * i + j)
  { s.plainStatus (Pg.PS i) with
    fault := l.any fun v => v.st == .tripped || v.st == .fault
    degraded := l.any fun v => v.am || v.mute.isSome || decide (0 < v.lr) }

/-- STATUS of the LPM page (R407). -/
def State.lpmStatus (s : State) : Status :=
  let up := s.lp.runs
  ⟨up, s.on R.LPM_REQ_GO, up && (s.lp.flashFault || s.lp.calMismatch), !(up && s.lp.timeValid) || s.lp.sealCount = 0⟩

/-- Whether SHM_UE_ADDR names a word that has not been rewritten in full since its error. -/
def State.shmFault (s : State) : Bool := s.fab.bad.contains (s.getW A.SHM_UE_ADDR).toNat

/-- STATUS of a page. -/
def State.status (s : State) (page : Nat) : Status :=
  let plain := s.plainStatus page
  if 0x10 ≤ page ∧ page ≤ 0x1F then s.flStatus (page - 0x10)
  else if 0x28 ≤ page ∧ page ≤ 0x2F then s.sapgStatus (page - 0x28)
  else if 0x30 ≤ page ∧ page ≤ 0x33 then s.ethStatus (page - 0x30)
  else if 0x50 ≤ page ∧ page ≤ 0x53 then s.psStatus (page - 0x50)
  else if 0x58 ≤ page ∧ page ≤ 0x63 then
    { plain with fault := (List.range 8).any fun i => (s.mule (8 * (page - 0x58) + i)).st == .stopped && isHostMule (8 * (page - 0x58) + i) }
  else match page with
    | 0x04 => { plain with busy := s.pwr.fuseBusy.isSome, degraded := s.pwr.dipCore.isSome || s.pwr.dipMem.isSome }
    | 0x05 => { plain with ready := s.mode.audioReady }
    | 0x34 => { plain with busy := s.on R.BR_MDIO_CMD_BUSY }
    | 0x38 => s.strxStatus
    | 0x41 => s.refStatus
    | 0x48 => s.twStatus
    | 0x54 => { plain with degraded := s.psm.feedMute || s.psm.apllMute }
    | 0x68 => { plain with degraded := decide (s.block < s.fab.degTo) }
    | 0x69 => { plain with fault := s.shmFault }
    | 0x70 => s.lpmStatus
    | _ => plain

/-- STATUS as a number. -/
def Status.word (x : Status) : Nat := b2n x.ready + 2 * b2n x.busy + 4 * b2n x.fault + 8 * b2n x.degraded

/-- The page events of a page whose condition stands, with their bits (R48). An event that names an occurrence alone (an error recorded, a frame, an action done) has no
condition that stays, and its bit reads 0 (DEDUCED, log entry 51). -/
def State.standing (s : State) (page : Nat) : List (Nat × Bool) :=
  if 0x10 ≤ page ∧ page ≤ 0x1F then let v := s.flock (page - 0x10); [(9, !v.powered), (10, v.powered && v.taking)]
  else if 0x28 ≤ page ∧ page ≤ 0x2F then [(8, (s.grp (page - 0x28)).muted)]
  else if 0x30 ≤ page ∧ page ≤ 0x33 then let p := page - 0x30; [(8, s.linkUp p), (9, !s.linkUp p), (10, s.on (R.ETH_STAT_HOLD p))]
  else if 0x50 ≤ page ∧ page ≤ 0x53 then
    let l := (List.range 8).map fun j => s.ps (8 * (page - 0x50) + j)
    [(8, l.any fun v => v.st == .tripped), (9, l.any fun v => v.st == .fault), (10, l.any fun v => v.am || v.mute.isSome), (12, l.any fun v => decide (0 < v.lr))]
  else if 0x58 ≤ page ∧ page ≤ 0x63 then
    let l := (List.range 8).map fun i => s.mule (8 * (page - 0x58) + i)
    [(8, l.any fun v => v.st == .done), (9, l.any fun v => v.st == .stopped)]
  else match page with
    | 0x00 => [(8, s.host.wdtWarned)]
    | 0x04 => [(8, s.pwr.dipCore.isSome || s.pwr.dipMem.isSome)]
    | 0x05 => [(9, s.mode.audioReady)]
    | 0x34 => [(8, s.on (ringBit 0 0) || s.on (ringBit 1 0)), (9, s.on (ringBit 0 1) || s.on (ringBit 1 1)), (10, s.on (ringBit 0 2) || s.on (ringBit 1 2))]
    | 0x38 => [(10, (s.strxStatus).fault)]
    | 0x40 => [(8, s.on R.PTP_STAT_LOCK), (9, !s.on R.PTP_STAT_LOCK), (11, s.on R.PTP_STAT_HOLD)]
    | 0x41 => [(10, s.ref.state == .holdover), (11, (List.range 8).any fun n => (s.cand n).disq), (13, s.audio.apllLost)]
    | 0x42 => [(8, s.ref.state == .holdover), (9, s.ref.state != .holdover), (10, s.ref.state == .holdover && s.ref.specDone)]
    | 0x48 => [(10, s.twin.relq || s.relqStands), (13, s.twin.deg), (14, s.twin.npart), (15, s.mode.cur == .orphan), (16, s.twin.lanes = 0), (17, s.twin.refused),
               (19, s.twin.banks != .none), (20, s.twin.wdDrop), (21, s.mode.cur == .follower && !s.twin.driveIn && s.takeCause.isNone)]
    | 0x54 => [(9, s.psm.feedMute)]
    | 0x69 => [(9, s.shmFault)]
    | 0x70 => [(8, s.lp.alert), (11, !s.lp.runs)]
    | _ => []

/-- EVT_RAW of a page (R48). -/
def State.evtRaw (s : State) (page : Nat) : Nat :=
  (s.standing page).foldl (fun n x => n + 2 ^ x.1 * b2n x.2) (2 * b2n (s.status page).fault + 4 * b2n (s.status page).degraded)

/-- Whether a page signals (R48). -/
def State.signals (s : State) (page : Nat) : Bool :=
  s.getW (pageAddr page 0x018) &&& s.getW (pageAddr page 0x014) != 0

/-- EVT_ROUTE of a page. -/
def State.routeTo (s : State) (page : Nat) : Nat := bitsN (s.getW (pageAddr page 0x01C)).toNat 0 2
def State.vectorOf (s : State) (page : Nat) : Nat := bitsN (s.getW (pageAddr page 0x01C)).toNat 8 5

/-- The OR of the signals of the pages routed to an MSI-X vector (R49). -/
def State.vectorOn (s : State) (v : Nat) : Bool := allPages.any fun p => s.signals p && s.routeTo p = 3 && s.vectorOf p = v

/-- Whether an interrupt pin is asserted low (R49). -/
def State.irqLow (s : State) (n : Nat) : Bool := allPages.any fun p => s.signals p && s.routeTo p = n + 1

/-- The register words with EVT_PEND bits 1 and 2 set where STATUS.FAULT or STATUS.DEGRADED rose. -/
def settleRegs (s0 s1 : State) : Sparse Word :=
  allPages.foldl (fun r p =>
    let a := s0.status p
    let b := s1.status p
    let up := 2 * b2n (b.fault && !a.fault) + 4 * b2n (b.degraded && !a.degraded)
    if up = 0 then r else tmod resetWord r (pageAddr p 0x018) fun w => w ||| BitVec.ofNat 32 up) s1.regs

/-- The MSI-X vectors whose OR changes from 0 to 1, while PCIe is up and MSI-X enabled. -/
def risen (s0 s1 : State) : List Nat :=
  if s1.host.pcieUp && s1.host.msixOn then (List.range 32).filter fun v => s1.vectorOn v && !s0.vectorOn v else []

/-- The message of an MSI-X vector: what its entry of the MSI-X table holds. -/
def State.msixMsg (s : State) (v : Nat) : Emit :=
  .msix v ((tget zeroWord s.host.msixTbl (4 * v)).toNat + 2 ^ 32 * (tget zeroWord s.host.msixTbl (4 * v + 1)).toNat)
    (tget zeroWord s.host.msixTbl (4 * v + 2))

/-- Whether messages of an MSI-X vector are masked: by its own mask bit, or by the mask of the function (PCI Express, R49; log entry 10). -/
def State.vectorMasked (s : State) (v : Nat) : Bool := s.host.msixFmask || s.host.msixMask.getLsbD v

/-! Pins. -/

/-- The level of an interrupt pin (R49): low while a page routed to it signals; else released, or driven high where IRQ_CFG selects push-pull. -/
def State.irqPin (s : State) (n : Nat) : PinLevel :=
  if s.irqLow n then .low else if bitN (s.getW A.IRQ_CFG).toNat n = 1 then .high else .highZ

/-- A group's bit clock and word select (R173, Table 7.4): inputs with a weak pull-down in BOOT and DARK and of a disabled group; else inputs of a
slave, and outputs of a master that have edges once it runs and while the audio PLL is in lock (R448). -/
def State.clkPin (s : State) (g : Nat) : PinLevel :=
  if !s.grpOn g then .pulledDown
  else if !(gcfg s.active g).master then .highZ
  else if (s.grp g).phase.clocked && !s.audio.apllLost then .runs else .still

/-- A group's output lane (R173, R187, Table 7.4): not driven in BOOT and DARK and of a disabled group; a clocked lane low where both its slots are
masked off and while the group does not run (R185, R191). -/
def State.lanePin (s : State) (g l : Nat) : PinLevel :=
  let t := s.txNow g (2 * l)
  if !s.grpOn g then .pulledDown
  else if t.2.1 then (if s.bpLive g then .runs else .low)
  else if (s.grp g).phase == .run && (t.1 || (s.txNow g (2 * l + 1)).1) then .runs else .low

/-- The word clock output (R286): a clock of the rate that REF_WCK.OUT selects, with rising edges where `State.mediaEdge` has frame edges; or the
block pulse of each second of TL less TL_OFS; low while off, and in the modes in which the audio PLLs are off. -/
def State.wckPin (s : State) : PinLevel :=
  if !s.mode.cur.counts then .low
  else match s.rd R.REF_WCK_OUT with
    | 0 => .low
    | 4 => if ((s.tl : Int) - s.tlOfs) % 96000 < 8 then .high else .low
    | _ => .runs

/-- The output pins and what drives them. -/
def State.pins (s : State) : List (OutPin × PinLevel) :=
  [(.irq 0, s.irqPin 0), (.irq 1, s.irqPin 1), (.wck, s.wckPin)]
    ++ (List.range 8).flatMap fun g => [(.bclk g, s.clkPin g), (.ws g, s.clkPin g)] ++ (List.range 8).map fun l => (.txd g l, s.lanePin g l)

/-- The pins that change. -/
def pinChanges (s0 s1 : State) : List Emit :=
  ((s0.pins.zip s1.pins).filter fun x => x.1.2 != x.2.2).map fun x => .pin x.2.1 x.2.2

/-- What follows a change of the state in the same cycle: the events FAULT and DEGRADED, the MSI-X messages, pending where their vector is
masked (R49), and the pins that change. -/
def settle (s0 s1 : State) : State :=
  let s2 := { s1 with regs := settleRegs s0 s1 }
  let vs := risen s0 s2
  { s2 with
    outs := (pinChanges s0 s2 ++ (vs.filter fun v => !s1.vectorMasked v).map s1.msixMsg).reverse ++ s1.outs
    host := { s1.host with
      msixPend := (vs.filter fun v => s1.vectorMasked v).foldl (fun m v => m ||| BitVec.ofNat 32 (2 ^ v)) s1.host.msixPend } }

end Sys2Proof.Machine
end

