-- ==== Sys2Proof/Machine/FabMem.lean ====
section
/-! DEFINITION. Chapter 14: the address map (R371, R372), the memories behind it, ECC (R382 to R384), the records of decode errors, locks and
port resets (R373, R380, R381). -/

namespace Sys2Proof.Machine

/-! The address map (Table 14.2). -/

/-- The place that an address below 0x1_0000 means while REMAP is 1 (R374). -/
def State.place (s : State) (a : Nat) : Nat := if a < 0x10000 ∧ s.on R.FAB_CFG_REMAP then 0x10000000 + a else a

/-- The target of a place. -/
def targetOf (a : Nat) : Nat :=
  if a < 0x10000 then 33
  else if 0x0FF00000 ≤ a ∧ a < 0x0FF10000 then 33
  else if 0x10000000 ≤ a ∧ a < 0x16000000 then (a - 0x10000000) / 0x300000
  else if 0x20000000 ≤ a ∧ a < 0x22000000 then 36 + (a - 0x20000000) / 0x20000 / 16
  else if 0x30000000 ≤ a ∧ a < 0x30800000 then 34
  else if 0x40000000 ≤ a ∧ a < 0x40100000 then (if isPage ((a - 0x40000000) / 0x1000) then 32 else 63)
  else if 0x50000000 ≤ a ∧ a < 0x50800000 then 35
  else if 0x51000000 ≤ a ∧ a < 0x51800000 then 35
  else 63

/-- The target that an address decodes to. -/
def State.target (s : State) (a : Nat) : Nat := targetOf (s.place a)

/-- Which ECC memory a target is: 0 shared memory, 1 the parameter banks, 2 the packet buffer (R382). -/
def eccMem (t : Nat) : Option Nat := if t < 32 then some 0 else if t = 35 then some 1 else if t = 34 then some 2 else none

/-- Whether a place's memory has lost power: a hen of a gated flock (R372). -/
def State.darkAt (s : State) (a : Nat) : Bool :=
  let t := targetOf a
  decide (36 ≤ t) && decide (t < 52) && !(s.flock (t - 36)).powered

/-- The hen whose memory a place lies in. -/
def henAt (a : Nat) : Option Nat := if 0x20000000 ≤ a ∧ a < 0x22000000 then some ((a - 0x20000000) / 0x20000) else none

/-- Whether a place is in the memory of a hen that is in a run (R372). -/
def State.henBusy (s : State) (a : Nat) : Bool := match henAt a with
  | some h => (s.hen h).run.isSome
  | none => false

/-! Reading and writing memories. -/

/-- Bytes of a memory from a place on. -/
def State.peek (s : State) (a n : Nat) : Bytes :=
  let t := targetOf a
  if t < 32 then mBytes zeroByte s.shm (a - 0x10000000) n
  else if t = 33 then (List.range n).map fun i => Config.bootRom ((a + i) % 0x10000)
  else if t = 34 then mBytes zeroByte s.fab.pbuf (a - 0x30000000) n
  else if t = 35 then (if a < 0x51000000 then mBytes bankD s.active (a - 0x50000000) n else mBytes bankD s.latent (a - 0x51000000) n)
  else match henAt a with
    | some h =>
      let o := a % 0x20000
      if o < 0x8000 then mBytes zeroByte (s.hen h).imem o n else mBytes zeroByte (s.hen h).dmem (o - 0x8000) n
    | none => List.replicate n 0

/-- Bytes stored in shared memory, a hen memory or the packet buffer from a place on. -/
def State.poke (s : State) (a : Nat) (d : List (Option Byte)) : State :=
  let t := targetOf a
  if t < 32 then { s with shm := mPut zeroByte s.shm (a - 0x10000000) d }
  else if t = 34 then { s with fab := { s.fab with pbuf := mPut zeroByte s.fab.pbuf (a - 0x30000000) d } }
  else match henAt a with
    | some h =>
      let o := a % 0x20000
      let v := s.hen h
      s.setHen h (if o < 0x8000 then { v with imem := mPut zeroByte v.imem o d } else { v with dmem := mPut zeroByte v.dmem (o - 0x8000) d })
    | none => s

/-! ECC (R382 to R384). -/

/-- A single-bit error found in a word (R382). -/
def State.ceFound (s : State) (m a : Nat) : State :=
  let s := (s.inc (R.SHM_CE_COUNT m)).setW A.SHM_CE_ADDR (BitVec.ofNat 32 a)
  { s with fab := { s.fab with ceWait := if s.fab.ceWait.contains a then s.fab.ceWait else s.fab.ceWait ++ [a] } }.raise Pg.SHM 8

/-- Whether a shared-memory address lies in the state area of an enabled instance of the active graph. -/
def State.inJobState (s : State) (a : Nat) : Bool :=
  (live s.active).any fun j =>
    let b := 0x10000000 + 64 * (instE s.active j).stateBase
    decide (b ≤ a) && decide (a < b + 128 * (progE s.active (instE s.active j).prog).stateLen)

/-- An uncorrectable error found in a word by a master (31: the scrubber) (R383). -/
def State.ueFound (s : State) (m a master : Nat) : State :=
  let s := ((s.inc (R.SHM_UE_COUNT m)).setW A.SHM_UE_ADDR (BitVec.ofNat 32 a)).setW A.SHM_UE_INFO
    (BitVec.ofNat 32 (master + 2 ^ 8 * m + 2 ^ 12 * b2n (master == 31)))
  let s := { s with fab := { s.fab with bad := if s.fab.bad.contains a then s.fab.bad else a :: s.fab.bad } }.raise Pg.SHM 9
  if m = 0 ∧ s.inJobState a then s.jobStateUe else s

/-- What a read of the word at an address finds: a word known bad stays so until it is rewritten in full. -/
def State.eccOf (s : State) (a : Nat) (found : Ecc) : Ecc := if s.fab.bad.contains a then .uncorrectable else found

/-- The words from an address on read under ECC findings: the state after, and whether every word was good. -/
def State.eccRead (s : State) (m master : Nat) : Nat → List Ecc → State × Bool
  | _, [] => (s, true)
  | a, e :: t =>
    let r := match s.eccOf a e with
      | .clean => (s, true)
      | .corrected => (s.ceFound m a, true)
      | .uncorrectable => (s.ueFound m a master, false)
    let q := State.eccRead r.1 m master (a + 8) t
    (q.1, r.2 && q.2)

/-- The words of a write judged from an address on: a word covered whole loses its error, a partly covered one is read first, and one that is
uncorrectable keeps its bytes (R384). What is left of the write, and whether every word took it. -/
def State.eccWrite (s : State) (m master : Nat) : Nat → Nat → List (Option Byte) → List Ecc → State × List (Option Byte) × Bool
  | 0, _, d, _ => (s, d, true)
  | n + 1, a, d, e =>
    let w := d.take 8
    let rest := d.drop 8
    let r :=
      if w.all (·.isNone) then (s, w, true)
      else if w.length = 8 ∧ w.all (·.isSome) then
        ({ s with fab := { s.fab with bad := s.fab.bad.filter (· != a), ceWait := s.fab.ceWait.filter (· != a) } }, w, true)
      else match s.eccOf a (e.headD .clean) with
        | .clean => (s, w, true)
        | .corrected => (s.ceFound m a, w, true)
        | .uncorrectable => (s.ueFound m a master, w.map fun _ => none, false)
    let q := State.eccWrite r.1 m master n (a + 8) rest (e.drop 1)
    (q.1, r.2.1 ++ q.2.1, r.2.2 && q.2.2)

/-- A write laid out from the 64-bit word that holds its first byte. -/
def alignedData (a : Nat) (d : List (Option Byte)) : List (Option Byte) :=
  let h := List.replicate (a % 8) none ++ d
  h ++ List.replicate ((8 - h.length % 8) % 8) none

/-- A write by a master to a place of a memory, under ECC: the state, and whether it was carried out in full. -/
def State.memWrite (s : State) (master a : Nat) (d : List (Option Byte)) (ecc : List Ecc) : State × Bool :=
  match eccMem (targetOf a) with
  | some m =>
    let al := alignedData a d
    let r := s.eccWrite m master (al.length / 8) (a / 8 * 8) al ecc
    (r.1.poke (a / 8 * 8) r.2.1, r.2.2)
  | none => (s.poke a d, true)

/-- A read by a master of `n` bytes from a place of a memory, under ECC: the bytes where every word was good. -/
def State.memRead (s : State) (master a n : Nat) (ecc : List Ecc) : State × Option Bytes :=
  match eccMem (targetOf a) with
  | some m =>
    let words := (a % 8 + n + 7) / 8
    let r := s.eccRead m master (a / 8 * 8) ((List.range words).map fun i => nth .clean ecc i)
    (r.1, if r.2 then some (r.1.peek a n) else none)
  | none => (s, some (s.peek a n))

/-! Records. -/

/-- FAB is DEGRADED for one block. -/
def State.fabDegraded (s : State) : State := { s with fab := { s.fab with degTo := s.block + 1 } }

/-- A beat to the default target recorded (R373); `path` counts for master 21 alone. -/
def State.decodeErr (s : State) (master a path : Nat) (write : Bool) : State :=
  let s := (s.setW A.FAB_DERR_ADDR (BitVec.ofNat 32 a)).setW A.FAB_DERR_INFO
    (BitVec.ofNat 32 (master + 2 ^ 8 * b2n write + 2 ^ 12 * (if master = 21 then path else 0)))
  (s.inc R.FAB_DERR_CNT_COUNT).raise Pg.FAB 8

/-- A lock's end recorded: KIND 1 abandoned (R380), 2 broken (R379); `held` in cycles. -/
def State.lockRecord (s : State) (l : LockSt) (kind held : Nat) : State :=
  (s.setW A.FAB_LOCK_ADDR (BitVec.ofNat 32 l.addr)).setW A.FAB_LOCK_INFO
    (BitVec.ofNat 32 (l.master + 2 ^ 8 * kind + 2 ^ 16 * min held 65535))

/-- The cycles since a lock's grant at the present tick, modulo the 24-bit count of R375. -/
def State.lockHeld (s : State) (l : LockSt) : Nat := (s.clk * 15625 / 192 + 2 ^ 24 - l.since % 2 ^ 24) % 2 ^ 24

/-- A lock's bank released, without a record. -/
def State.unlock (s : State) (b : Nat) : State := { s with fab := { s.fab with locks := tset noLock s.fab.locks b none } }

/-- The locks of a master abandoned, with the cycles held (R380). -/
def State.abandonLocks (s : State) (master : Nat) : State :=
  (List.range 32).foldl (fun s b => match tget noLock s.fab.locks b with
    | some l => if l.master = master then
        (((s.unlock b).lockRecord l 1 (s.lockHeld l)).inc R.FAB_LOCK_ABN_COUNT).raise Pg.FAB 9
      else s
    | none => s) s

/-- The write beats of an access that waits. -/
def HostOp.writes : HostOp → Nat
  | .write _ _ _ _ => 1
  | .req _ _ _ => 1
  | _ => 0

/-- A master port reset (R381): its lock is abandoned, and of the host access port the accesses not yet granted are dropped, the writes counted. A
granted burst is a command of its own and is never cut (log entry 27). -/
def State.portReset (s : State) (master : Nat) : State :=
  let s := s.abandonLocks master
  let drop := if master = 21 then (s.fab.hostWait.map fun x => x.2.writes).sum else 0
  let s := { s with fab := { s.fab with broken := s.fab.broken.filter fun x => x.1 != master
                                        hostWait := if master = 21 then [] else s.fab.hostWait } }
  let s := (s.setW A.FAB_RST_INFO (BitVec.ofNat 32 (master + 2 ^ 16 * min drop 32767))).inc R.FAB_MRST_CNT_COUNT
  (s.fabDegraded).raise Pg.FAB 11

/-- The master ports that a page's soft reset resets (Table 14.1). -/
def portsOf (page : Nat) : List Nat :=
  if 0x10 ≤ page ∧ page ≤ 0x1F then [page - 0x10]
  else if 0x60 ≤ page ∧ page ≤ 0x63 then [16 + (page - 0x60)]
  else if page = 0x34 ∨ page = 0x38 ∨ page = 0x39 then [20]
  else if page = 0x01 then [21]
  else if page = 0x48 then [23]
  else []

end Sys2Proof.Machine
end

