-- ==== Sys2Proof/Machine/Read.lean ====
section
/-! DEFINITION. What a read of a register returns (R11): the stored fields, the fields computed from the state of the units, the page header (R47 to
R53), and the latent copies that banked fields show (R12, R189). -/

namespace Sys2Proof.Machine

/-- The low 32 bits of a number, and the word above them. -/
def lo32 (n : Nat) : Nat := n % 2 ^ 32
def hi32 (n : Nat) : Nat := n / 2 ^ 32 % 2 ^ 32

/-- An integer as a 32-bit field, and as a field of `w` bits. -/
def int32 (z : Int) : Nat := unsignedN 32 z

/-- Numbers placed at bits, added up. -/
def fieldsAt (l : List (Nat × Nat)) : Nat := l.foldl (fun a x => a + x.2 * 2 ^ x.1) 0

/-- Flags as the bits of a number, bit 0 first. -/
def bitsOf (l : List Bool) : Nat := l.foldr (fun b a => b2n b + 2 * a) 0

/-- Whether a register of the list holds a key: the greatest of values still within the last 12,000 blocks (1 s). -/
def slideMax (blk : Nat) (l : List (Nat × Nat)) : Nat := ((l.filter fun x => decide (blk < x.1 + 12000)).map (·.2)).foldl max 0

/-- The least of the values still within the last 12,000 blocks, or a default. -/
def slideMin (d blk : Nat) (l : List (Nat × Nat)) : Nat := ((l.filter fun x => decide (blk < x.1 + 12000)).map (·.2)).foldl min d

/-! The header (R47). -/

/-- The pages with banked contents (R72). -/
def banked (page : Nat) : Bool :=
  page == Pg.SCH || (decide (0x10 ≤ page) && decide (page ≤ 0x1F)) || page == Pg.MIX || page == Pg.SRC
    || (decide (0x28 ≤ page) && decide (page ≤ 0x2F)) || (decide (0x38 ≤ page) && decide (page ≤ 0x3A))
    || (decide (0x50 ≤ page) && decide (page ≤ 0x53))

/-- A header word. -/
def State.header (s : State) (page off : Nat) : Nat :=
  match off with
  | 0x000 => pageId page
  | 0x004 => 0x00010000
  | 0x008 => (s.getW (pageAddr page 0x008)).toNat
  | 0x00C => (s.status page).word
  | 0x010 => s.evtRaw page
  | 0x014 => (s.getW (pageAddr page 0x014)).toNat
  | 0x018 => (s.getW (pageAddr page 0x018)).toNat
  | 0x01C => (s.getW (pageAddr page 0x01C)).toNat
  | 0x020 => (s.getW (pageAddr page 0x020)).toNat
  | 0x024 => (s.getW (pageAddr page 0x024)).toNat
  | 0x028 => (s.getW (pageAddr page 0x028)).toNat
  | 0x02C => (s.getW (pageAddr page 0x02C)).toNat
  | 0x030 => if banked page then s.dev.state.code else 0
  | 0x034 => (match s.keyOf page with
    | some k => 1 + 2 ^ 8 * k.holder
    | none => 0)
  | _ => 0

/-! The pages. -/

/-- The four contact sheet bits of a page (R52). -/
def State.sheetBits (s : State) (page : Nat) : Nat :=
  if isPage page then
    let x := s.status page
    bitsOf [x.ready, x.fault, x.degraded, s.signals page]
  else 0

/-- A contact sheet word. -/
def State.sheetWord (s : State) (i : Nat) : Nat := fieldsAt ((List.range 8).map fun k => (4 * k, s.sheetBits (8 * i + k)))

/-- HST. -/
def State.liveHST (s : State) (off : Nat) : Option Nat :=
  match off with
  | 0x048 => some ((s.getW A.HST_NMGT_CFG).toNat + 2 * b2n s.host.keyValid)
  | 0x058 => some (lo32 s.host.seq)
  | 0x05C => some (hi32 s.host.seq)
  | _ => none

/-- IRQ: the pages that signal on a pin. -/
def State.liveIRQ (s : State) (off : Nat) : Option Nat :=
  if 0x080 ≤ off then
    let pin := (off - 0x080) / 0x10
    let i := (off - 0x080) % 0x10 / 4
    some (bitsOf ((List.range 32).map fun b => isPage (32 * i + b) && s.signals (32 * i + b) && s.routeTo (32 * i + b) = pin + 1))
  else none

/-- A word of an error record (Table 2.7). -/
def ElogRec.word (r : ElogRec) (i : Nat) : Nat :=
  nth 0 [lo32 r.seq, lo32 r.tl, hi32 r.tl, lo32 r.cal, hi32 r.cal,
         r.page + 2 ^ 8 * r.code + 2 ^ 16 * r.off + 2 ^ 28 * r.path, r.data.toNat, lo32 r.seq] i

/-- ELOG (R53). -/
def State.liveELOG (s : State) (off : Nat) : Option Nat :=
  if off = 0x040 then some (lo32 s.elogSeq)
  else if 0x100 ≤ off then
    let k := (off - 0x100) / 32
    match s.elog.find? fun r => r.seq % 64 = k with
    | some r => some (r.word ((off - 0x100) % 32 / 4))
    | none => some 0
  else none


/-- PWR. -/
def State.livePWR (s : State) (off : Nat) : Option Nat :=
  let awake := s.mode.cur != .dark
  match off with
  | 0x040 => some (fieldsAt [(0, b2n s.pwr.dipCore.isSome), (1, b2n s.pwr.dipMem.isSome), (4, b2n s.pwr.ioa3v3)])
  | 0x048 => some (fieldsAt [(0, s.pwr.coreMv % 1024), (16, s.pwr.memMv % 1024)])
  | 0x05C => some (setBitsN (s.getW A.PWR_BOOT_STAT).toNat 12 1 (b2n s.pwr.fuseHash.isNone))
  | 0x06C => some (bitsOf ((List.range 16).map fun f => (s.flock f).powered)
      + fieldsAt [(16, bitsOf ((List.range 4).map s.lanePowered)), (20, b2n awake), (21, b2n (awake && !s.pwr.twlOff))])
  | 0x074 => some (fieldsAt [(0, b2n s.pwr.fuseBusy.isSome), (8, b2n s.pwr.fuseHash.isSome), (9, b2n s.pwr.fuseBusy.isSome)])
  | _ => none

/-- MODE. -/
def State.liveMODE (s : State) (off : Nat) : Option Nat :=
  match off with
  | 0x040 => some (fieldsAt [(0, s.mode.cur.code), (4, s.mode.prev.code), (8, b2n s.mode.pend.isSome),
      (12, match s.mode.pend with | some m => m.code | none => 0), (16, b2n s.mode.audioReady)])
  | _ => none

/-- TL (R56 to R59). -/
def State.liveTL (s : State) (off : Nat) : Option Nat :=
  if 0x100 ≤ off then
    let n := (off - 0x100) / 32
    let v := s.slot n
    match (off - 0x100) % 32 with
    | 0x00 => some (lo32 v.tl)
    | 0x04 => some (hi32 v.tl)
    | 0x08 => some (fieldsAt [(0, v.type), (8, v.state.code), (28, v.path)])
    | 0x0C => some v.addr.toNat
    | 0x10 => some v.data.toNat
    | _ => none
  else match off with
    | 0x040 => some (lo32 s.tl)
    | 0x044 => some (hi32 s.tl)
    | 0x048 => some (fieldsAt [(0, s.tl % 8 * 128 + s.subTick), (16, b2n s.srcPtp)])
    | 0x050 => some (lo32 (unsignedN 64 s.tlOfs))
    | 0x054 => some (hi32 (unsignedN 64 s.tlOfs))
    | 0x060 => some (fieldsAt [(0, s.rd R.TL_DEV_CTRL_KEEP), (1, b2n (s.dev.state == .refilling))])
    | 0x064 => some (fieldsAt [(0, s.dev.state.code), (8, s.dev.slot), (16, s.dev.count)])
    | 0x068 => some (fieldsAt [(0, s.dev.chkCode), (8, s.dev.chkOfs)])
    | _ => none

/-- SCH. -/
def State.liveSCH (s : State) (off : Nat) : Option Nat :=
  match off with
  | 0x070 => some (bitsOf ((List.range 16).map fun f => !(s.flock f).powered)
      + 2 ^ 16 * bitsOf ((List.range 16).map fun f =>
          let v := s.flock f
          v.gateReq || v.fencing || v.readyAt.isSome))
  | _ => none

/-- Busy time of a flock in ticks as LAST shows it. -/
def busyShare (ticks : Nat) : Nat := min 2047 (ticksToCycles ticks * 1024 / 1333333)

/-- FL. -/
def State.liveFL (s : State) (f off : Nat) : Option Nat :=
  let v := s.flock f
  match off with
  | 0x040 => some (fieldsAt [(0, (s.queue f).length), (16, v.lastPeak)])
  | 0x04C => some (fieldsAt [(0, busyShare v.lastBusy), (16, slideMax s.block v.busyMax)])
  | 0x050 => some (slideMin 1023 s.block v.slackMin)
  | _ => none

/-- The instances whose results an instance's inputs depend on, through links and internal returns, in `n` rounds. -/
def upstream (b : Mem) : Nat → List Nat → List Nat
  | 0, seen => seen
  | n + 1, seen =>
    let more := ((seen.flatMap fun j => deps b j ++ retWriters b j).filter fun j => !seen.contains j).eraseDups
    if more.isEmpty then seen else upstream b n (seen ++ more)

/-- Whether a serial input reaches an instance (R295). -/
def fromPins (b : Mem) (j : Nat) : Bool :=
  (upstream b (nJob b) [j]).any fun i => (inputs b i).any fun x => x.1 = 0 && decide (1024 ≤ x.2) && decide (x.2 < 1152)

/-- The transmit stream that carries an ECH: the lowest. -/
def streamOf (b : Mem) (e : Nat) : Option Nat :=
  (List.range 128).find? fun n => eEn (txW b n 0) && (List.range (eCh (txW b n 0))).any fun c =>
    bitN (txMap b n c) 15 == 1 && bitsN (txMap b n c) 0 11 == e

/-- MIX_PATH_LAT of an ECH (R26, R139, R295). -/
def State.pathLat (s : State) (e : Nat) : Nat :=
  match s.pathWriter e with
  | none => 0
  | some (b, j) =>
    let n := depthOf b j
    let ofs (x : Nat) : Nat := match streamOf b x with
      | some k => bitsN (txW b k 6) 0 14
      | none => 0
    let mir := if s.on R.TW_CFG_EN && s.on R.TW_CFG_INMIR && fromPins b j then 8 else 0
    let conv := if e < 1024 then (match streamOf b e with
        | some k => if e96 (txW b k 0) then 0 else 24
        | none => 0)
      else if e < 1152 then (if txConv b ((e - 1024) / 16) ((e - 1024) % 16) then 48 else 0)
      else 0
    fieldsAt [(0, (8 * (2 + n) + portTerm ofs e + mir) % 2 ^ 16), (16, n % 16), (20, 1), (24, conv)]

/-- MIX. -/
def State.liveMIX (s : State) (off : Nat) : Option Nat :=
  let e := s.rd R.MIX_PATH_SEL_ECH
  let bus := s.rd R.MIX_BUS_SEL_BUS
  match off with
  | 0x05C => some ((longLines s.active).length % 128)
  | 0x064 => some (s.pathLat e)
  | 0x068 => some (match s.pathWriter e with | some (b, j) => pathTap b j e | none => 0)
  | 0x074 =>
    let b := (s.busBank bus).1
    let n := nActive b bus
    let k := if bitsN (busCtl b bus) 2 2 = 1 ∧ n ≠ 0 then Nat.log2 n else 0
    let m := s.busMoving bus
    some (fieldsAt [(0, n), (12, k), (16, b2n m.1), (17, b2n m.2)])
  | 0x078 => some (s.busScale bus)
  | _ => none

/-- SRC. -/
def State.liveSRC (s : State) (off : Nat) : Option Nat :=
  let l := convList s.active
  let k := s.rd R.SRC_CH_SEL_SEL
  let c := nth 0 l k
  let v := s.conv c
  let used := decide (k < l.length)
  match off with
  | 0x040 => some (fieldsAt [(0, (srcUse s.active).1), (16, (srcUse s.active).2)])
  | 0x048 => some (if used then fieldsAt [(0, c % 2048), (12, c / 2048), (16, b2n v.lock), (17, b2n v.range), (31, 1)] else 0)
  | 0x04C => some (if used then v.ratio.toNat else 0)
  | 0x180 => some (fieldsAt ((List.range 16).map fun g => (2 * g, bitsN (tgCfg s.active g) 0 2)))
  | _ => none

/-- SAPG; SAPG_AES_RATE is a free value below 2^18 while the lane is locked. -/
def State.liveSAPG (s : State) (g off : Nat) : Option Nat :=
  let v := s.grp g
  let b := s.active
  match off with
  | 0x058 => some (b2n v.apply.isSome)
  | 0x05C => some (slotW b g 0)
  | 0x060 => some (slotW b g 4 % 2 ^ 16 + 2 ^ 16 * (slotW b g 8 % 2 ^ 16))
  | 0x064 => some (slotW b g 0xC)
  | 0x068 => some (slotW b g 0x10 % 256)
  | 0x06C =>
    let p : Nat := match v.phase with
      | .qualify _ => 5
      | .run => 1
      | .lost (some _) => 7
      | .lost none => 2
      | _ => 0
    some (p + 2 ^ 16 * unsignedN 16 v.offset)
  | 0x078 => some (unsignedN 16 v.level)
  | 0x07C => some (fieldsAt [(0, 64 + 2 * g), (8, 65 + 2 * g)])
  | 0x0A0 => some (fieldsAt [(0, bitsOf ((List.range 8).map fun l => (v.lane l).lock)),
      (8, bitsOf ((List.range 8).map fun l => (s.getW (A.SAPG_CS g l 0)).getLsbD 0)), (16, s.rd (R.SAPG_AES_STAT_CS_DIFF g))])
  | 0x0A8 => some (if (v.lane (s.rd (R.SAPG_AES_SEL_LANE g))).lock then Config.freeNat s.freeCtr % 2 ^ 18 else 0)
  | _ => none

/-- BR. -/
def State.liveBR (s : State) (off : Nat) : Option Nat :=
  match off with
  | 0x084 =>
    let l := s.eth.atu.filterMap (·.2)
    some (fieldsAt [(0, l.length), (16, (l.filter (·.static)).length)])
  | 0x094 => some (setBitsN (s.getW A.BR_MDIO_CMD).toNat 31 1 (s.rd R.BR_MDIO_CMD_BUSY))
  | _ => none

/-- STRX. -/
def State.liveSTRX (s : State) (off : Nat) : Option Nat :=
  let n := s.rd R.STRX_SEL_STREAM
  let v := s.rx n
  if 0x070 ≤ off ∧ off < 0x0B0 then some (tget zeroNat v.cnt ((off - 0x070) / 4))
  else match off with
    | 0x044 => some (b2n s.str.rxApply.isSome)
    | 0x048 => some (fieldsAt [(0, (rxUse s.active).1), (16, (rxUse s.active).2)])
    | 0x064 => some (fieldsAt [(0, s.rxCode n), (4, s.srcSeen n), (8, b2n (s.rxUnder n)), (9, b2n v.taint)])
    | 0x068 => some (unsignedN 16 (s.rxMargin n))
    | _ => none

/-- STTX. -/
def State.liveSTTX (s : State) (off : Nat) : Option Nat :=
  let v := s.tx (s.rd R.STTX_SEL_STREAM)
  match off with
  | 0x048 => some (b2n s.str.txApply.isSome)
  | 0x04C => some (fieldsAt [(0, (txUse s.active).1), (16, (txUse s.active).2)])
  | 0x064 => some (lo32 v.sent)
  | 0x068 => some (lo32 v.flagged)
  | _ => none

/-- HRD. -/
def State.liveHRD (s : State) (off : Nat) : Option Nat :=
  if 0x180 ≤ off ∧ off < 0x200 then some (bkW s.active (0x609000 + (off - 0x180)))
  else if 0x200 ≤ off ∧ off % 8 = 0 then
    let h := (off - 0x200) / 8
    some (fieldsAt [(0, (herdMembers s.active h).length), (16, b2n (s.lastJudged.any fun blk => (s.herd h).under == some blk))])
  else none

/-- PTP. -/
def State.livePTP (s : State) (off : Nat) : Option Nat :=
  let ns := (s.ptpNow / 65536).toNat
  match off with
  | 0x06C => some (int32 (s.ptp.adj16 / 256))
  | 0x080 => some (lo32 (ns / 1000000000))
  | 0x084 => some (ns / 1000000000 / 2 ^ 32 % 2 ^ 16)
  | 0x088 => some (ns % 1000000000)
  | _ => none

/-- A candidate's status (REF_CSTAT_n). -/
def State.candStat (s : State) (n : Nat) : Nat :=
  let c := s.cand n
  fieldsAt [(0, b2n (s.candPresent n)), (1, b2n c.elig), (2, b2n c.disq), (3, b2n c.wait.isSome),
    (4, (match c.wait with | some w => (w + 11999) / 12000 | none => 0) % 1024), (16, s.candQ n % 2 ^ 16)]

/-- REF; a follower shows the leader's active candidate (R287), REF_PHASE the loop's error in ns. -/
def State.liveREF (s : State) (off : Nat) : Option Nat :=
  let r := s.ref
  if 0x108 ≤ off ∧ off % 16 = 8 then some (s.candStat ((off - 0x108) / 16))
  else match off with
    | 0x070 => some (fieldsAt [(0, if r.leader then r.leadAct else r.act), (4, r.state.code), (8, r.pend.getD 0), (11, b2n r.pend.isSome), (12, b2n !s.audio.apllLost),
        (13, b2n r.rail), (14, b2n r.drift), (15, b2n r.leader)])
    | 0x074 => some (match r.state with
        | .acquiring => int32 (r.loop.err / 65536)
        | .locked => int32 (r.loop.err / 65536)
        | _ => 0)
    | 0x078 => some r.dac
    | 0x07C => some s.outQ
    | _ => none

/-- HOLD. -/
def State.liveHOLD (s : State) (off : Nat) : Option Nat :=
  match off with
  | 0x06C => some (unsignedN 16 s.ref.temp)
  | 0x070 => some (int32 (s.ref.u / 256))
  | 0x074 => some (lo32 s.ref.elapsed)
  | 0x07C => some s.ref.hist.length
  | _ => none

/-- TW; TW_ALIGN is a free value while the twin link is up. -/
def State.liveTW (s : State) (off : Nat) : Option Nat :=
  let t := s.twin
  let seen (x : Option (Nat × Word)) : Bool := match x with
    | some y => decide (s.tlBlock ≤ y.1 + 1)
    | none => false
  match off with
  | 0x050 => some (fieldsAt [(0, b2n t.relq), (1, b2n (t.copy == .resync)), (4, s.rd R.TW_CTRL_LOCAL_WR)])
  | 0x054 => some (fieldsAt [(0, s.mode.cur.role), (4, b2n s.pwr.posA), (5, b2n s.twUp), (6, t.lanes), (8, b2n t.hb), (9, b2n (seen t.nhbA)),
      (10, b2n (seen t.nhbB)), (11, b2n t.drive), (12, b2n t.driveIn), (13, b2n (t.inStep || t.peerStep)), (14, b2n (t.copy == .resync)),
      (15, b2n t.deg), (16, b2n t.npart), (17, b2n t.pairOk)])
  | 0x058 => some (fieldsAt [(0, t.peerRole), (8, t.peerRev), (16, b2n t.peerPosA)])
  | 0x05C => some (if s.twUp then Config.freeNat s.freeCtr % 2 ^ 16 else 0)
  | 0x060 => some (fieldsAt [(0, t.copied / 65536), (16, (t.toCopy + 65535) / 65536)])
  | 0x080 => some (lo32 (bankDigest s.active))
  | 0x084 => some (hi32 (bankDigest s.active))
  | 0x088 => some (lo32 (bankDigest s.latent))
  | 0x08C => some (hi32 (bankDigest s.latent))
  | _ => none

/-- PS. -/
def State.livePS (s : State) (i off : Nat) : Option Nat :=
  if 0x100 ≤ off then
    let c := 8 * i + (off - 0x100) / 32
    let v := s.ps c
    match (off - 0x100) % 32 with
    | 0x0C => some (s.psCfg c)
    | 0x10 => some (2 * b2n (v.want || (v.st == .diag && v.cmd)))
    | 0x14 => some (fieldsAt [(0, v.st.code), (8, v.result), (16, v.lr % 2 ^ 13)])
    | _ => none
  else none

/-- PSM. -/
def State.livePSM (s : State) (off : Nat) : Option Nat :=
  match off with
  | 0x0B4 => some (fieldsAt [(0, b2n s.psm.feedMute), (1, b2n s.psm.apllMute)])
  | 0x0B8 => some s.psm.feed.toNat
  | _ => if 0x060 ≤ off ∧ off < 0x080 then some (min (s.railV ((off - 0x060) / 4)) 65535) else none

/-- MUL. -/
def State.liveMUL (s : State) (p off : Nat) : Option Nat :=
  if 0x100 ≤ off then
    let m := 8 * p + (off - 0x100) / 64
    let v := s.mule m
    match (off - 0x100) % 64 with
    | 0x08 => some (fieldsAt [(0, v.st.code), (8, v.err), (16, b2n (isHostMule m))])
    | 0x0C => some (lo32 v.pc)
    | 0x10 => some (lo32 v.cnt)
    | 0x14 => some (lo32 v.errAddr)
    | 0x18 => some (v.tail % 128)
    | 0x1C => some v.sig.toNat
    | _ => none
  else if off = 0x048 then some (bitsOf ((List.range 32).map fun i => s.flag (32 + i)))
  else none

/-- FAB. -/
def State.liveFAB (s : State) (off : Nat) : Option Nat :=
  match off with
  | 0x08C => some (min 65535 (slideMax s.block (tget noWaits s.fab.waits (s.rd R.FAB_WAIT_SEL_SEL))))
  | _ => none

/-- SHM. -/
def State.liveSHM (s : State) (off : Nat) : Option Nat :=
  match off with
  | 0x040 => some (setBitsN (s.getW A.SHM_SCRUB).toNat 17 1 (b2n s.fab.prio.isSome))
  | 0x044 => some (fieldsAt [(0, s.fab.passes % 65536), (16, b2n s.fab.prio.isSome)])
  | _ => none

/-- LPM: copies of the island's values, 0 while it is not in MEASURE (R407). -/
def State.liveLPM (s : State) (off : Nat) : Option Nat :=
  let l := s.lp
  let up (n : Nat) : Option Nat := some (if l.runs then n else 0)
  if 0x100 ≤ off ∧ off < 0x180 then up (tget zeroNat l.live (liveKey ((off - 0x100) / 64) ((off - 0x100) % 64 / 4)))
  else match off with
    | 0x040 => up (fieldsAt [(0, 1), (1, b2n l.timeValid), (2, b2n l.key.isSome), (3, b2n l.calEn), (4, b2n l.alert), (5, b2n l.flashFault),
        (6, b2n l.calMismatch), (7, b2n l.logSec), (16, l.sealCount % 256)])
    | 0x044 => up (lo32 l.stamp)
    | 0x048 => up (hi32 l.stamp)
    | 0x04C => up (lo32 Config.lpUid)
    | 0x050 => up (hi32 Config.lpUid)
    | 0x054 => up (lo32 (match l.newest with | some x => recSeq x.2 | none => 0))
    | 0x058 => up (lo32 l.tail)
    | 0x05C => up (Config.lpVer % 2 ^ 16)
    | 0x180 => up (fieldsAt [(0, l.level), (16, l.hyst), (24, l.qty)])
    | _ => none

/-- A register whose value the units give; `none` where it is stored as a register. -/
def State.live (s : State) (page off : Nat) : Option Nat :=
  if 0x10 ≤ page ∧ page ≤ 0x1F then s.liveFL (page - 0x10) off
  else if 0x28 ≤ page ∧ page ≤ 0x2F then s.liveSAPG (page - 0x28) off
  else if 0x50 ≤ page ∧ page ≤ 0x53 then s.livePS (page - 0x50) off
  else if 0x58 ≤ page ∧ page ≤ 0x63 then s.liveMUL (page - 0x58) off
  else match page with
    | 0x00 => if 0x080 ≤ off ∧ off < 0x0C0 then some (s.sheetWord ((off - 0x080) / 4)) else none
    | 0x01 => s.liveHST off
    | 0x02 => s.liveIRQ off
    | 0x03 => s.liveELOG off
    | 0x04 => s.livePWR off
    | 0x05 => s.liveMODE off
    | 0x08 => s.liveTL off
    | 0x0F => s.liveSCH off
    | 0x20 => s.liveMIX off
    | 0x21 => s.liveSRC off
    | 0x34 => s.liveBR off
    | 0x38 => s.liveSTRX off
    | 0x39 => s.liveSTTX off
    | 0x3A => s.liveHRD off
    | 0x40 => s.livePTP off
    | 0x41 => s.liveREF off
    | 0x42 => s.liveHOLD off
    | 0x48 => s.liveTW off
    | 0x54 => s.livePSM off
    | 0x68 => s.liveFAB off
    | 0x69 => s.liveSHM off
    | 0x70 => s.liveLPM off
    | _ => none

/-- The bank offset that the latent copy of a banked register stands at (R189, and the SRC, HRD and PS pages). -/
def rwbOff (page off : Nat) : Option Nat :=
  if 0x28 ≤ page ∧ page ≤ 0x2F then
    let base := 0x600000 + 0x100 * (page - 0x28)
    if 0x040 ≤ off ∧ off ≤ 0x050 then some (base + (off - 0x040))
    else if 0x300 ≤ off ∧ off < 0x400 ∧ (off - 0x300) % 32 < 24 then some (base + 0x20 + 24 * ((off - 0x300) / 32) + (off - 0x300) % 32)
    else none
  else if page = 0x21 then (if 0x100 ≤ off ∧ off < 0x180 then some (0x60A200 + (off - 0x100)) else none)
  else if page = 0x3A then (if 0x100 ≤ off ∧ off < 0x180 then some (0x609000 + (off - 0x100)) else none)
  else if 0x50 ≤ page ∧ page ≤ 0x53 then
    if 0x100 ≤ off ∧ off < 0x200 ∧ (off - 0x100) % 32 < 12 then
      some (0x60A000 + 16 * (8 * (page - 0x50) + (off - 0x100) / 32) + (off - 0x100) % 32)
    else none
  else none

/-- A word of the latent bank as a read finds it: during a refill a word copied already or not yet, as a free value decides (R71). -/
def State.latentWord (s : State) (o : Nat) : Nat × State :=
  if s.dev.state == .refilling then (bkW (if Config.freeBool s.freeCtr then s.active else s.latent) o, s.tick1)
  else (bkW s.latent o, s)

/-- Bits of the fields of a register that a read returns, and of those that software never writes. -/
def RegDesc.readMask (d : RegDesc) : Nat :=
  d.flds.foldl (fun a f => match f.acc with | .wo => a | _ => a + (2 ^ f.w - 1) * 2 ^ f.lo) 0
def RegDesc.roMask (d : RegDesc) : Nat :=
  d.flds.foldl (fun a f => match f.acc with
    | .ro => a + (2 ^ f.w - 1) * 2 ^ f.lo
    | .cnt => a + (2 ^ f.w - 1) * 2 ^ f.lo
    | _ => a) 0

/-- Registers whose value is a free one. -/
def freeRead (page off : Nat) : Bool :=
  (page = 0x41 && off = 0x074) || (page = 0x48 && off = 0x05C) || (decide (0x28 ≤ page) && decide (page ≤ 0x2F) && off = 0x0A8)

/-- A register word as it stands, whatever CTRL.FREEZE holds; an offset without a register reads 0 (R15). -/
def State.rawRead (s : State) (page off : Nat) : Word × State :=
  if off < 0x040 then (BitVec.ofNat 32 (s.header page off), s)
  else match findReg page off with
    | none => (0, s)
    | some d =>
      let mask := BitVec.ofNat 32 d.readMask
      match rwbOff page off with
      | some o => let r := s.latentWord o
                  (BitVec.ofNat 32 r.1 &&& mask, r.2)
      | none =>
        let v := match s.live page off with
          | some n => BitVec.ofNat 32 n
          | none => s.getW (pageAddr page off)
        (v &&& mask, if freeRead page off then s.tick1 else s)

/-- The bits of a word that CTRL.FREEZE holds: RO counters and status fields, in the header STATUS, EVT_RAW, ERR_* and DEVELOP_STATE (R47). -/
def frozenMask (page off : Nat) : Nat :=
  if off < 0x040 then (if off = 0x00C ∨ off = 0x010 ∨ (0x020 ≤ off ∧ off ≤ 0x030) then 2 ^ 32 - 1 else 0)
  else match findReg page off with
    | some d => d.roMask
    | none => 0

/-- Whether a page's reads are frozen. -/
def State.frozen (s : State) (page : Nat) : Bool := bitN (s.getW (pageAddr page 0x008)).toNat 4 == 1

/-- No snapshot. -/
def noSnap (_ : Nat) : Option (List (Nat × Word)) := none

/-- A register word as a read returns it (R11, R47). -/
def State.readWord (s : State) (page off : Nat) : Word × State :=
  let r := s.rawRead page off
  if s.frozen page then
    match tget noSnap s.host.snap page with
    | some l => match l.find? fun x => x.1 == off with
      | some x => (mergeBits (frozenMask page off) x.2 r.1, r.2)
      | none => r
    | none => r
  else r

/-- The page offsets of a register or array. -/
def RegDesc.offsets (d : RegDesc) : List Nat :=
  d.dims.foldl (fun l x => l.flatMap fun o => (List.range x.1).map fun i => o + x.2 * i) [d.off]

/-- The page offsets that hold a register. -/
def pageOffsets (page : Nat) : List Nat :=
  [0x00C, 0x010, 0x020, 0x024, 0x028, 0x02C, 0x030] ++ (pageRegs page).flatMap RegDesc.offsets

/-- The snapshot that setting CTRL.FREEZE takes of a page. -/
def State.takeSnap (s : State) (page : Nat) : State :=
  let r := (pageOffsets page).foldl (fun (x : List (Nat × Word) × State) o =>
    if frozenMask page o = 0 then x
    else
      let v := x.2.rawRead page o
      ((o, v.1) :: x.1, v.2)) ([], s)
  { r.2 with host := { r.2.host with snap := tset noSnap r.2.host.snap page (some r.1) } }

end Sys2Proof.Machine
end

