-- ==== Sys2Proof/Machine/Access.lean ====
section
/-! DEFINITION. Writes of the control pages (R11 to R16, R51 and the page sections of the chapters): protection and mode checks, legal values,
and the effect of each register that does more than hold its value. -/

namespace Sys2Proof.Machine

/-! Fields (R11, R16). -/

/-- A word with every legal field of an access code taken from a write, and whether a field was illegal. -/
def RegDesc.storeAs (acc : Acc) (d : RegDesc) (old value : Nat) : Nat × Bool :=
  d.flds.foldl (fun x f =>
    if f.acc = acc then
      let v := bitsN value f.lo f.w
      if f.legal.ok f.w v then (setBitsN x.1 f.lo f.w v, x.2) else (x.1, true)
    else x) (old, false)

/-- The RW fields. -/
def RegDesc.store (d : RegDesc) (old value : Nat) : Nat × Bool := d.storeAs .rw old value

/-- Whether a pool lies in shared memory, 64-byte aligned and within its size limit. -/
def poolOk (base size limit : Nat) : Bool :=
  base % 64 == 0 && decide (0x10000000 ≤ base) && decide (base + size ≤ 0x16000000) && decide (size ≤ limit)

/-- Whether a FEC value is offered for a port mode (Table 8.1). -/
def fecOk (mode fec : Nat) : Bool := if mode = 0 then decide (fec ≤ 2) else if mode = 1 then decide (fec ≤ 1) else fec == 0

/-- ETH_CFG: a reserved MODE, or a FEC value that the mode does not offer, keeps its field. -/
def fixEth (old new : Nat) : Nat × Bool :=
  let badMode := bitsN new 0 2 == 3
  let x := if badMode then setBitsN new 0 2 (bitsN old 0 2) else new
  let badFec := !fecOk (bitsN x 0 2) (bitsN x 2 2)
  (if badFec then setBitsN x 2 2 (bitsN old 2 2) else x, badMode || badFec)

/-- Whether another valid VLAN entry has the VID of a valid word. -/
def State.vlanTwice (s : State) (v new : Nat) : Bool :=
  bitN new 15 == 1 && (List.range 64).any fun k => k != v && bitN (s.vlanA k) 15 == 1 && bitsN (s.vlanA k) 0 12 == bitsN new 0 12

/-- The rules between a word and its surroundings: the word to hold, and whether the write named a reserved encoding by them. -/
def State.fixWord (s : State) (page off old new : Nat) : Nat × Bool :=
  let keepIf (bad : Bool) : Nat × Bool := if bad then (old, true) else (new, false)
  if page = 0x20 then
    match off with
    | 0x04C => keepIf !(poolOk new (s.getW A.MIX_DLY_SIZE).toNat 0x4800000)
    | 0x050 => keepIf !(poolOk (s.getW A.MIX_DLY_BASE).toNat new 0x4800000)
    | 0x054 => keepIf !(poolOk new (s.getW A.MIX_FIR_SIZE).toNat 0x1000000)
    | 0x058 => keepIf !(poolOk (s.getW A.MIX_FIR_BASE).toNat new 0x1000000)
    | _ => (new, false)
  else if 0x28 ≤ page ∧ page ≤ 0x2F then
    (if off = 0x070 ∨ off = 0x074 then keepIf !(new % 0x2000 == 0 && decide (0x10000000 ≤ new) && decide (new < 0x16000000)) else (new, false))
  else if 0x30 ≤ page ∧ page ≤ 0x33 then (if off = 0x040 then fixEth old new else (new, false))
  else if page = 0x34 then
    (if 0x200 ≤ off ∧ off < 0x400 ∧ off % 8 = 0 then keepIf (s.vlanTwice ((off - 0x200) / 8) new) else (new, false))
  else if page = 0x54 then
    (if off = 0x084 then
      let x := if bitsN new 0 5 = 0 then setBitsN new 0 5 (bitsN old 0 5) else new
      let x := if bitsN new 8 5 = 0 then setBitsN x 8 5 (bitsN old 8 5) else x
      if bitsN x 8 5 < bitsN x 0 5 then (old, true) else (x, x != new)
    else if 0x090 ≤ off ∧ off < 0x0B0 ∧ off % 8 = 0 then keepIf (decide (bitsN new 16 16 < bitsN new 0 16))
    else (new, false))
  else if 0x58 ≤ page ∧ page ≤ 0x63 then
    let m := 0x40000000 + page * 0x1000 + off - off % 64
    match off % 64 with
    | 0x04 => keepIf !(new % 16 == 0 && decide (0x10000000 ≤ new) && decide (new < 0x16000000))
    | 0x20 => keepIf (new % 2 ^ ((s.getW (m + 0x24)).toNat % 32) != 0)
    | 0x24 => keepIf !(decide (6 ≤ new % 32) && decide (new % 32 ≤ 26))
    | 0x28 => keepIf !(new % 4 == 0 && decide (new < 2 ^ ((s.getW (m + 0x24)).toNat % 32)))
    | 0x2C => keepIf (new % 2 ^ ((s.getW (m + 0x30)).toNat % 32) != 0)
    | 0x30 => keepIf !(decide (6 ≤ new % 32) && decide (new % 32 ≤ 26))
    | 0x34 => keepIf !(new % 4 == 0 && decide (new < 2 ^ ((s.getW (m + 0x30)).toNat % 32)))
    | _ => (new, false)
  else (new, false)

/-- The RW fields of a register written; a reserved encoding leaves its field and is recorded once (R16). -/
def State.storeReg (s : State) (c : WCtx) (page off : Nat) (d : RegDesc) (value : Word) : State :=
  let a := pageAddr page off
  let old := (s.getW a).toNat
  let x := d.store old value.toNat
  let y := s.fixWord page off old x.1
  let s := s.setW a (BitVec.ofNat 32 y.1)
  if x.2 || y.2 then s.err page off 0x01 c.path value else s

/-! Windows (R38, R66, R166 to R168). -/

/-- Bytes put into a parameter bank under ECC by a master: the state, and whether every word took them. -/
def State.bankPut (s : State) (master : Nat) (lat : Bool) (o : Nat) (d : List (Option Byte)) (ecc : List Ecc) : State × Bool :=
  let base := if lat then 0x51000000 else 0x50000000
  let al := alignedData o d
  let r := s.eccWrite 1 master (al.length / 8) (base + o / 8 * 8) al ecc
  (if lat then { r.1 with latent := mPut bankD r.1.latent (o / 8 * 8) r.2.1 }
   else { r.1 with active := mPut bankD r.1.active (o / 8 * 8) r.2.1 }, r.2.2)

/-- A request stored in the latent bank: gains above +24 dB clamped and counted (R141), DEVELOP_STATE moved (R66). -/
def State.latentPut (s : State) (master o : Nat) (d : List (Option Byte)) (ecc : List Ecc) : State × Bool :=
  let x := clampReq o d
  let r := s.bankPut master true o x.1 ecc
  ((r.1.countClamps x.2).bankTouched, r.2)

/-- Whether a request covers whole 16-bit fields, fits one request of 64 bytes, and stays in its window. -/
def wholeFields (o : Nat) (d : List (Option Byte)) : Bool :=
  let al := (if o % 2 = 1 then [none] else []) ++ d
  let rec pairs : List (Option Byte) → Bool
    | [] => true
    | [a] => a.isNone
    | a :: b :: t => a.isSome == b.isSome && pairs t
  pairs al && decide (d.length ≤ 64) && decide (o + d.length ≤ 0x800000)

/-- An access error of PCIe, or a partial field of any host path (R37, R38, R45). The spec names no page offset for these errors: OFFSET is 0 (log
entry 32). -/
def State.hostErr (s : State) (path code a : Nat) : State :=
  if path = 1 ∨ (code = 0x41 ∧ 1 ≤ path ∧ path ≤ 3) then
    (s.setW A.HST_WERR_ADDR (BitVec.ofNat 32 a)).err Pg.HST 0 code path (BitVec.ofNat 32 a)
  else s

/-- A write through the latent window (R38, R66). -/
def State.latentWrite (s : State) (c : WCtx) (master o : Nat) (d : List (Option Byte)) : State × Bool :=
  if !wholeFields o d then (s.hostErr c.path 0x41 (0x51000000 + o), false)
  else if s.bankLocked then (s.err Pg.TL 0 0x41 c.path (BitVec.ofNat 32 o), false)
  else s.latentPut master o d c.ecc

/-- The modes in which an active-window write is carried out (R166). -/
def Mode.directs : Mode → Bool
  | .commission => true | .standalone => true | .leader => true | .orphan => true | .quiesce => true
  | _ => false

/-- An accepted active-window write: waiting for its boundary (R167), and copied into the latent bank under DIRECT_THRU (R168). -/
def State.directAccept (s : State) (c : WCtx) (master o : Nat) (d : List (Option Byte)) : State × Bool :=
  let x := clampReq o d
  let al := alignedData o x.1
  let r := s.eccWrite 1 master (al.length / 8) (0x50000000 + o / 8 * 8) al []
  let s := r.1.countClamps x.2
  let q : DirectReq := ⟨o / 8 * 8, r.2.1, c.bnd.getD (s.block + 2), false⟩
  let s := { s with audio := { s.audio with direct := s.audio.direct ++ [q] } }
  if s.on R.MIX_DIRECT_THRU_EN then
    if s.bankLocked then (s.err Pg.MIX 0 0x42 c.path (BitVec.ofNat 32 o), r.2.2)
    else ((s.bankPut master true o (maskReq s.latent o x.1) c.ecc).1.bankTouched, r.2.2)
  else (s, r.2.2)

/-- A write through the active window (R166): refused whole with the first code that applies, or accepted; it counts as a write to the MIX
page (R51). -/
def State.directWrite (s : State) (c : WCtx) (master o : Nat) (d : List (Option Byte)) : State × Bool :=
  let held := s.holdsKey Pg.MIX c.path
  if !wholeFields o d then
    let t := s.hostErr c.path 0x41 (0x50000000 + o)
    (if held then t.setKey Pg.MIX none else t, false)
  else
    let no (code : Nat) : State × Bool := (s.err Pg.MIX 0 code c.path (BitVec.ofNat 32 o), true)
    let r :=
      if !s.on R.MIX_DIRECT_EN_EN then no 0x40
      else if !held && c.path ≠ 4 then no 0x02
      else if !directOk s.active o d then no 0x41
      else if !(s.modeFor c.path).directs then no 0x05
      else s.directAccept c master o d
    (if held then r.1.setKey Pg.MIX none else r.1, r.2)

/-- A write of an RWB register: of the fields that take their values (R16) it equals a write of its word through the latent window (R66, R189).
For the TYPE written, a VALUE of SRC_TG_PARAM outside its range leaves the field. -/
def State.rwbWrite (s : State) (c : WCtx) (page off o : Nat) (d : RegDesc) (value : Word) : State :=
  if s.bankLocked then s.err Pg.TL 0 0x41 c.path (BitVec.ofNat 32 o)
  else
    let v := bitsN value.toNat 0 19
    let type := bitsN (bkW s.latent (o - 4)) 0 2
    let bad := page == 0x21 && off % 8 == 4 &&
      ((type == 1 && !(decide (16 ≤ v) && decide (v ≤ 320000))) || (type == 3 && !(decide (1 ≤ v) && decide (v ≤ 120000))))
    let x := d.storeAs .rwb (bkW s.latent o) value.toNat
    let w := if bad then bkW s.latent o else x.1
    let s := (s.latentPut 21 o ((toLe 4 w).map some) []).1
    if bad || x.2 then s.err page off 0x01 c.path value else s

/-! 64-bit quantities (R14). -/

/-- No low word waiting. -/
def noWord (_ : Nat) : Option Word := none

/-- Where a path's written low word waits for its high word. -/
def stageKey (path addr : Nat) : Nat := addr + 2 ^ 32 * path

/-- A low word written: it waits for the high word. -/
def State.stageLo (s : State) (path addr : Nat) (w : Word) : State :=
  { s with host := { s.host with loStage := tset noWord s.host.loStage (stageKey path addr) (some w) } }

/-- The low word that goes with a written high word: the one that waits, else the one in force; it waits no more. -/
def State.takeLo (s : State) (path addr : Nat) (now : Word) : Word × State :=
  ((tget noWord s.host.loStage (stageKey path addr)).getD now,
   { s with host := { s.host with loStage := tset noWord s.host.loStage (stageKey path addr) none } })

/-! Writes by page. -/

/-- DEV: the watchdog (R54, R55). A kick is judged, and takes its turn, whether the watchdog is armed or not; arming it begins the turns anew (log
entry 33). -/
def State.kick (s : State) (path : Nat) (value : Word) : State :=
  if value = (if s.host.wdtNext then 0x5AA5 else 0xA55A) then
    { s with host := { s.host with wdtNext := !s.host.wdtNext, wdtSince := s.smp, wdtWarned := false } }
  else s.err Pg.DEV 0x0C4 0x06 path value

def State.writeDEV (s : State) (c : WCtx) (off : Nat) (d : RegDesc) (value : Word) : State :=
  match off with
  | 0x0C0 =>
    let was := s.on R.DEV_WDT_CTRL_EN
    let s := s.storeReg c Pg.DEV off d value
    { s with host := { s.host with wdtSince := s.smp, wdtWarned := false, wdtNext := was && s.host.wdtNext } }
  | 0x0C4 => s.kick c.path value
  | _ => s.storeReg c Pg.DEV off d value

/-- HST: the management key (R44): its words wait for HST_NKEY7, which puts a whole key in force; one written without all of the others since
HST_NKEY0 puts none in force (log entry 34). -/
def State.writeHST (s : State) (c : WCtx) (off : Nat) (d : RegDesc) (value : Word) : State :=
  if 0x060 ≤ off ∧ off < 0x080 then
    let i := (off - 0x060) / 4
    let h := s.host
    let new := setNth h.nkeyNew i value
    let set := if i = 0 then 1 else h.nkeySet ||| 2 ^ i
    let take := i == 7 && set == 255
    { s with host := { h with nkeyNew := new, nkeySet := set, nkey := if take then new else h.nkey,
                              keyValid := if i = 0 then false else take || h.keyValid } }
  else s.storeReg c Pg.HST off d value

/-- PWR (chapter 16). -/
def State.writePWR (s : State) (c : WCtx) (off : Nat) (d : RegDesc) (value : Word) : State :=
  let one := bitN value.toNat 0 == 1
  if 0x0A0 ≤ off ∧ off < 0x0C0 then { s with pwr := { s.pwr with keyh := setNth s.pwr.keyh ((off - 0x0A0) / 4) value } }
  else match off with
    | 0x058 => if one then s.warmReset 3 s.pwr.posA else s
    | 0x060 => if one then s.push else s
    | 0x070 => s.twlOffCmd c.path value
    | 0x074 => if one then s.fuseProg c.path value else s
    | _ => s.storeReg c Pg.PWR off d value

/-- MODE: a request with GO (R423). -/
def State.writeMODE (s : State) (c : WCtx) (off : Nat) (d : RegDesc) (value : Word) : State :=
  let s := s.storeReg c Pg.MODE off d value
  if off = 0x044 ∧ bitN value.toNat 4 = 1 then s.modeReq (Mode.ofCode (bitsN value.toNat 0 3)) c.path value c.bnd c.wakePin else s

/-- TL: slots, KEEP and REFILL (R59, R63, R71). -/
def State.writeTL (s : State) (c : WCtx) (off : Nat) (d : RegDesc) (value : Word) : State :=
  if 0x100 ≤ off then
    let n := (off - 0x100) / 32
    let armed := (s.slot n).state == .armed
    match (off - 0x100) % 32 with
    | 0x00 => if armed then s.slotWrite n c.path off id else s.stageLo c.path (A.TL_ACT_TL_LO n) value
    | 0x04 =>
      let x := s.takeLo c.path (A.TL_ACT_TL_LO n) (BitVec.ofNat 32 (lo32 (s.slot n).tl))
      x.2.slotWrite n c.path off fun v => { v with tl := value.toNat * 2 ^ 32 + x.1.toNat }
    | 0x08 => s.actCtrl n c.path value
    | 0x0C => s.slotWrite n c.path off fun v => { v with addr := value }
    | 0x10 => s.slotWrite n c.path off fun v => { v with data := value }
    | _ => s
  else
    let s := s.storeReg c Pg.TL off d value
    if off = 0x060 ∧ bitN value.toNat 1 = 1 then s.refillCmd else s

/-- MIX: the meter holds (R161). -/
def State.writeMIX (s : State) (c : WCtx) (off : Nat) (d : RegDesc) (value : Word) : State :=
  if off = 0x090 then mtrClr value s else s.storeReg c Pg.MIX off d value

/-- SAPG: an apply (R192). -/
def State.writeSAPG (s : State) (c : WCtx) (g off : Nat) (d : RegDesc) (value : Word) : State :=
  if off = 0x058 then (if bitN value.toNat 0 = 1 then s.sapgApplyReq g c.path off c.bnd else s) else s.storeReg c (Pg.SAPG g) off d value

/-- ETH: a change of the lane settings of an enabled port leaves them (R200). -/
def State.writeETH (s : State) (c : WCtx) (p off : Nat) (d : RegDesc) (value : Word) : State :=
  let lane (n : Nat) : Nat := bitsN n 0 4 + 16 * bitsN n 5 2
  let old := (s.getW (A.ETH_CFG p)).toNat
  if off = 0x040 ∧ s.enabled (Pg.ETH p) ∧ lane old ≠ lane value.toNat then
    let v := setBitsN (setBitsN value.toNat 0 4 (bitsN old 0 4)) 5 2 (bitsN old 5 2)
    (s.storeReg c (Pg.ETH p) off d (BitVec.ofNat 32 v)).err (Pg.ETH p) off 0x40 c.path value
  else s.storeReg c (Pg.ETH p) off d value

/-- BR (R211, R217, R227). -/
def State.writeBR (s : State) (c : WCtx) (off : Nat) (d : RegDesc) (value : Word) : State :=
  match off with
  | 0x044 => s.stageLo c.path A.BR_MAC_LO value
  | 0x048 =>
    let x := s.takeLo c.path A.BR_MAC_LO (s.getW A.BR_MAC_LO)
    (x.2.setW A.BR_MAC_LO x.1).storeReg c Pg.BR off d value
  | 0x050 => (s.storeReg c Pg.BR off d value).netWritten 0
  | 0x054 => (s.storeReg c Pg.BR off d value).netWritten 1
  | 0x070 =>
    let s := s.storeReg c Pg.BR off d value
    if bitN value.toNat 4 = 1 then atuGo c.path s else s
  | 0x094 =>
    if s.on R.BR_MDIO_CMD_BUSY ∨ bitN value.toNat 31 = 1 then mdioGo c.path value s else s.storeReg c Pg.BR off d value
  | _ => s.storeReg c Pg.BR off d value

/-- PTP: configuration and time of day (R256, R261). -/
def State.writePTP (s : State) (c : WCtx) (off : Nat) (d : RegDesc) (value : Word) : State :=
  match off with
  | 0x040 => (s.storeReg c Pg.PTP off d value).ptpCfgWritten (s.getW A.PTP_CFG)
  | 0x090 => s.stageLo c.path A.PTP_TOD_LO value
  | 0x094 =>
    let x := s.takeLo c.path A.PTP_TOD_LO (s.getW A.PTP_TOD_LO)
    x.2.todWrite c.path x.1.toNat (bitsN value.toNat 0 16)
  | _ => s.storeReg c Pg.PTP off d value

/-- REF: a service change acts from the next boundary (R265, R270); a write of RECOVERY leaves a record with its path and time, under code 0, which
is no error (log entry 50). -/
def State.writeREF (s : State) (c : WCtx) (off : Nat) (d : RegDesc) (value : Word) : State :=
  let old := s.rd R.REF_CFG_SVC
  let s := s.storeReg c Pg.REF off d value
  let s := if off = 0x040 ∧ bitsN value.toNat 0 2 = 3 then s.logRec Pg.REF off 0 c.path value else s
  if off = 0x040 ∧ s.rd R.REF_CFG_SVC ≠ old then { s with ref := { s.ref with svcAt := some (s.block + 1) } } else s

/-- HOLD: a written age sets the origin of the ageing model, whose hours are then those of the restored model (R280, R282). -/
def State.writeHOLD (s : State) (c : WCtx) (off : Nat) (d : RegDesc) (value : Word) : State :=
  let s := s.storeReg c Pg.HOLD off d value
  if off = 0x068 then { s with ref := { s.ref with ageSec := 3600 * s.rd R.HOLD_AGE_H_H, hours := [] } } else s

/-- TW (R304, R319, R323, R428). -/
def State.writeTW (s : State) (c : WCtx) (off : Nat) (d : RegDesc) (value : Word) : State :=
  let s := s.storeReg c Pg.TW off d value
  match off with
  | 0x040 => if bitN value.toNat 0 = 1 then s.twlOn else s
  | 0x050 =>
    let s := if bitN value.toNat 0 = 1 then s.relinquishCmd c.path value else s
    if bitN value.toNat 1 = 1 then s.resyncCmd else s
  | _ => s

/-- PS (R343, R346). -/
def State.writePS (s : State) (c : WCtx) (i off : Nat) (d : RegDesc) (value : Word) : State :=
  if 0x100 ≤ off ∧ (off - 0x100) % 32 = 0x10 then s.psCmd (8 * i + (off - 0x100) / 32) c.path value
  else s.storeReg c (Pg.PS i) off d value

/-- PSM: a band setting evaluates the bands at once (R337). -/
def State.writePSM (s : State) (c : WCtx) (off : Nat) (d : RegDesc) (value : Word) : State :=
  let s := s.storeReg c Pg.PSM off d value
  if 0x090 ≤ off ∧ off < 0x0B0 then s.bandCheck else s

/-- MUL (R357, R361, R367): the program, cursors and slack of a host mule are written only while it is IDLE, STOPPED or DONE. -/
def State.writeMUL (s : State) (c : WCtx) (p off : Nat) (d : RegDesc) (value : Word) : State :=
  if 0x100 ≤ off then
    let m := 8 * p + (off - 0x100) / 64
    if (off - 0x100) % 64 = 0 then s.mulCtrl m c.path value
    else if !isHostMule m then s
    else match (s.mule m).st with
      | .idle => s.storeReg c (Pg.MUL p) off d value
      | .stopped => s.storeReg c (Pg.MUL p) off d value
      | .done => s.storeReg c (Pg.MUL p) off d value
      | _ => if d.flds.any (fun f => f.acc == .rw) then s.err (Pg.MUL p) off 0x40 c.path value else s
  else match off with
    | 0x04C => s.hflagSet value.toNat
    | 0x050 => s.hflagClr value.toNat c.signalled
    | _ => s.storeReg c (Pg.MUL p) off d value

/-- FAB: REMAP is written in BOOT alone (R374). -/
def State.writeFAB (s : State) (c : WCtx) (off : Nat) (d : RegDesc) (value : Word) : State :=
  if off = 0x040 ∧ s.mode.cur ≠ .boot then s.storeReg c Pg.FAB off d (BitVec.ofNat 32 (setBitsN value.toNat 0 1 (s.rd R.FAB_CFG_REMAP)))
  else s.storeReg c Pg.FAB off d value

/-- SHM: a priority scrub (R386). -/
def State.writeSHM (s : State) (c : WCtx) (off : Nat) (d : RegDesc) (value : Word) : State :=
  let s := s.storeReg c Pg.SHM off d value
  if off = 0x040 ∧ bitN value.toNat 17 = 1 then s.startPrio else s

/-- LPM: a record request (R408). -/
def State.writeLPM (s : State) (c : WCtx) (off : Nat) (d : RegDesc) (value : Word) : State :=
  let s := s.storeReg c Pg.LPM off d value
  if off = 0x068 ∧ bitN value.toNat 0 = 1 then doLpmGo c.path s else s

/-- A register beside the header written, protection and mode being in order. -/
def State.writeReg (s : State) (c : WCtx) (page off : Nat) (d : RegDesc) (value : Word) : State :=
  match rwbOff page off with
  | some o => s.rwbWrite c page off o d value
  | none =>
    if 0x28 ≤ page ∧ page ≤ 0x2F then s.writeSAPG c (page - 0x28) off d value
    else if 0x30 ≤ page ∧ page ≤ 0x33 then s.writeETH c (page - 0x30) off d value
    else if 0x50 ≤ page ∧ page ≤ 0x53 then s.writePS c (page - 0x50) off d value
    else if 0x58 ≤ page ∧ page ≤ 0x63 then s.writeMUL c (page - 0x58) off d value
    else match page with
      | 0x00 => s.writeDEV c off d value
      | 0x01 => s.writeHST c off d value
      | 0x04 => s.writePWR c off d value
      | 0x05 => s.writeMODE c off d value
      | 0x08 => s.writeTL c off d value
      | 0x20 => s.writeMIX c off d value
      | 0x34 => s.writeBR c off d value
      | 0x38 => if off = 0x044 then (if bitN value.toNat 0 = 1 then s.streamApply false c.path off c.bnd else s) else s.storeReg c page off d value
      | 0x39 => if off = 0x048 then (if bitN value.toNat 0 = 1 then s.streamApply true c.path off c.bnd else s) else s.storeReg c page off d value
      | 0x40 => s.writePTP c off d value
      | 0x41 => s.writeREF c off d value
      | 0x42 => s.writeHOLD c off d value
      | 0x48 => s.writeTW c off d value
      | 0x54 => s.writePSM c off d value
      | 0x68 => s.writeFAB c off d value
      | 0x69 => s.writeSHM c off d value
      | 0x70 => s.writeLPM c off d value
      | _ => s.storeReg c page off d value

/-! CTRL (R47, R418, R449 and the page sections). -/

/-- The pages between two numbers, or one of a list. -/
def pageIn (page : Nat) (l : List (Nat × Nat)) : Bool := l.any fun x => decide (x.1 ≤ page) && decide (page ≤ x.2)

/-- Whether a write of 0 to CTRL.ENABLE is refused with code 0x05. -/
def State.enableHeld (s : State) (page path : Nat) : Bool :=
  let m := s.modeFor path
  pageIn page [(0x04, 0x05), (0x21, 0x21), (0x3A, 0x3A), (0x41, 0x42), (0x48, 0x48), (0x54, 0x54), (0x68, 0x69), (0x70, 0x70)]
    || (pageIn page [(0x0F, 0x0F), (0x20, 0x20), (0x34, 0x34), (0x38, 0x39), (0x58, 0x63)] && m != .commission)
    || (pageIn page [(0x28, 0x2F)] && m != .commission && m != .quiesce)

/-- The images of every hen forgotten (R368). -/
def State.dropImages (s : State) : State := { s with hens := tmap hen0 (fun h => { h with image := none }) s.hens }

/-- CTRL.ENABLE taking a value, with the effect that the page's chapter gives. -/
def State.enableWrite (s : State) (c : WCtx) (page : Nat) (en : Bool) (value : Word) : State :=
  if s.enabled page = en then s
  else if 0x10 ≤ page ∧ page ≤ 0x1F then (if en then s.ungateFlock (page - 0x10) else gateRequest c.path (page - 0x10) s)
  else if !en && s.enableHeld page c.path then s.err page 0x008 0x05 c.path value
  else
    let s := s.setEnable page en
    if page = 0x0F then (if en then s.dropImages else s)
    else if 0x28 ≤ page ∧ page ≤ 0x2F then s.sapgStart (page - 0x28) en
    else if 0x30 ≤ page ∧ page ≤ 0x33 then (if en then s else s.dropLink (page - 0x30))
    else if page = 0x40 then s.ptpEnable
    else if 0x58 ≤ page ∧ page ≤ 0x63 then s.mulEnable (page - 0x58) en
    else s

/-- CTRL.FREEZE taking a value: set, a snapshot is taken; cleared, reads are live again (R47). -/
def State.freezeWrite (s : State) (page : Nat) (on : Bool) : State :=
  if s.frozen page = on then s
  else
    let s := if on then s.takeSnap page else { s with host := { s.host with snap := tset noSnap s.host.snap page none } }
    s.wrB ⟨pageAddr page 0x008, 4, 1⟩ on

/-- Whether a soft reset is refused with code 0x05 (R418). -/
def State.softRefused (s : State) (page path : Nat) : Bool :=
  pageIn page [(0x00, 0x00), (0x03, 0x05)]
    || (s.modeFor path != .commission &&
        pageIn page [(0x0F, 0x21), (0x28, 0x2F), (0x38, 0x3A), (0x40, 0x42), (0x48, 0x48), (0x50, 0x54), (0x58, 0x62)])

/-- Whether a soft reset keeps a register word (Table 16.3). -/
def softKeeps (a : Nat) : Bool :=
  a % 0x1000 == 0x014 || a % 0x1000 == 0x01C || a == A.HOLD_AGE_A || a == A.HOLD_AGE_B || a == A.HOLD_AGE_H

/-- The register words of a page at their reset values. -/
def State.resetRegs (s : State) (page : Nat) : State :=
  let here (a : Nat) : Bool := a / 0x1000 == 0x40000 + page
  { s with
    regs := s.regs.filter fun x => !here x.1 || softKeeps x.1
    host := { s.host with snap := tset noSnap s.host.snap page none, keys := tset noKey s.host.keys page none,
                          loStage := s.host.loStage.filter fun x => !here (x.1 % 2 ^ 32) } }

/-- What a soft reset does to a block beside its register fields and counters (R449, R44, Table 16.3). -/
def State.softBlock (s : State) (page : Nat) : State :=
  if 0x10 ≤ page ∧ page ≤ 0x1F then
    let f := page - 0x10
    let s := (s.withdrawFlock f).zeroHens f
    let s := s.setFlock f { s.flock f with lastPeak := 0, lastBusy := 0, busyMax := [], slackMin := [] }
    s.ungateFlock f
  else if 0x28 ≤ page ∧ page ≤ 0x2F then s.sapgStart (page - 0x28) false
  else match page with
    | 0x01 => { s with host := { s.host with nkey := List.replicate 8 0, nkeyNew := List.replicate 8 0, nkeySet := 0, keyValid := false, seq := 0 } }
    | 0x08 =>
      let s := s.unarmDevelop
      { s with slots := [], dev := { s.dev with count := 0 } }
    | 0x0F => s.dropImages
    | 0x38 => { s with str := { s.str with rx := tmap rx0 (fun v => { v with cnt := [] }) s.str.rx } }
    | 0x39 => { s with str := { s.str with tx := tmap tx0 (fun v => { v with sent := 0, flagged := 0 }) s.str.tx } }
    | 0x40 => s.ptpEnable
    | 0x41 => { s with ref := { s.ref with hist := [] } }
    | 0x42 => { s with ref := { s.ref with hist := [] } }
    | 0x68 => { s with fab := { s.fab with waits := [] } }
    | 0x69 => { s with fab := { s.fab with passes := 0 } }
    | _ => s

/-- A page soft reset (R418, R449): its registers, its master ports, its block. -/
def State.softReset (s : State) (page : Nat) : State :=
  let s := if 0x30 ≤ page ∧ page ≤ 0x33 ∧ s.enabled page then (s.setEnable page false).dropLink (page - 0x30) else s
  let s := (portsOf page).foldl State.portReset s
  (s.resetRegs page).softBlock page

/-- A write of CTRL. A mirrored write leaves FREEZE, which is local to each chip (Table 11.4). A word that sets SOFT_RESET acts by that bit alone: the
spec does not say what its ENABLE does (log entry 35). -/
def State.ctrlWrite (s : State) (c : WCtx) (page : Nat) (value : Word) : State :=
  let v := value.toNat
  let s := if c.path = 4 then s else s.freezeWrite page (bitN v 4 == 1)
  if bitN v 1 = 1 then
    (if s.softRefused page c.path then s.err page 0x008 0x05 c.path value else s.softReset page)
  else s.enableWrite c page (bitN v 0 == 1) value

/-! The header, keys and protection (R48, R51). -/

/-- A header register written. -/
def State.headerWrite (s : State) (c : WCtx) (page off : Nat) (value : Word) : State :=
  let a := pageAddr page off
  match off with
  | 0x008 => s.ctrlWrite c page value
  | 0x014 => s.setW a (value &&& 0xFFFFFF0F)
  | 0x018 => s.setW a (BitVec.ofNat 32 c.fresh ||| (s.getW a &&& ~~~ value))
  | 0x01C => s.setW a (value &&& 0x00001F03)
  | _ => s

/-- Whether a write is protected (R51): the registers that the chapters mark, CTRL.SOFT_RESET, a gate request (R102), GO of MODE_REQ (R423) and
TW_CTRL.RELINQUISH. -/
def State.needsKey (s : State) (page off : Nat) (value : Word) : Bool :=
  let v := value.toNat
  if off = 0x008 then bitN v 1 == 1 || (decide (0x10 ≤ page) && decide (page ≤ 0x1F) && bitN v 0 == 0 && s.enabled page)
  else if page = 0x05 ∧ off = 0x044 then bitN v 4 == 1
  else if page = 0x48 ∧ off = 0x050 then bitN v 0 == 1
  else match findReg page off with
    | some d => d.prot
    | none => false

/-- A write of PAGE_KEY (R51). -/
def State.keyWrite (s : State) (path page : Nat) (value : Word) : State :=
  if value = BitVec.ofNat 32 (0xA5A50000 + page) then
    match s.keyOf page with
    | some k => if k.holder = path then s.setKey page (some ⟨path, s.clk⟩) else s.err page 0x034 0x02 path value
    | none => s.setKey page (some ⟨path, s.clk⟩)
  else (s.setKey page none).err page 0x034 0x06 path value

/-- A word of a page written, once its key is in order. -/
def State.wordWrite (s : State) (c : WCtx) (page off : Nat) (value : Word) : State :=
  if off < 0x040 then s.headerWrite c page off value
  else match findReg page off with
    | none => s
    | some d => if d.com && s.modeFor c.path != .commission then s.err page off 0x05 c.path value else s.writeReg c page off d value

/-- A word of a page written (R34, R51): the holder's next write releases the key, whether it is carried out or refused. -/
def State.pageWrite (s : State) (c : WCtx) (page off : Nat) (value : Word) : State :=
  if off = 0x034 then s.keyWrite c.path page value
  else
    let held := s.holdsKey page c.path
    let t := if s.needsKey page off value && !held && c.path ≠ 4 then s.err page off 0x02 c.path value else s.wordWrite c page off value
    if held then t.setKey page none else t

/-- A write to a page refused before it reaches its register; it counts for the key (R51). -/
def State.pageRefuse (s : State) (path page off code : Nat) (value : Word) : State :=
  let held := s.holdsKey page path
  let t := s.err page off code path value
  if held then t.setKey page none else t

end Sys2Proof.Machine
end

