-- ==== Sys2Proof/Machine/Bus.lean ====
section
/-! DEFINITION. How accesses of the host paths reach the device (R33 to R45, R371 to R373): judged by the twin rules (R297 to R299), routed by
address, kept in the order of their path (R34), the captures of wide reads (R14, R52), and network management. `finish` ends every command. -/

namespace Sys2Proof.Machine

/-! The twin rules (R297 to R299). -/

/-- Whether a register write is local to its chip (Table 11.4). -/
def State.localReg (s : State) (a : Nat) (value : Word) : Bool :=
  let page := (a - 0x40000000) / 0x1000
  let off := a % 0x1000
  let v := value.toNat
  if page ≤ 0x03 ∨ page = 0x48 ∨ page = 0x70 then true
  else if page = 0x05 then !(off == 0x044 && bitN v 4 == 1 && (bitsN v 0 3 == 6 || s.mode.cur == .quiesce))
  else if off = 0x014 ∨ off = 0x018 ∨ off = 0x01C then true
  else if off = 0x008 then (bitN v 0 == 1) == s.enabled page && bitN v 1 == 0
  else (page == 0x34 && (off == 0x044 || off == 0x048 || off == 0x050 || off == 0x054))
    || (decide (0x30 ≤ page) && decide (page ≤ 0x33) && off == 0x050)

/-- Whether a write is local. -/
def State.localReq (s : State) : WriteReq → Bool
  | .reg a v => s.localReg a v
  | _ => false

/-- A write to a place of a memory by a master: whether it got no error response. -/
def State.memReq (s : State) (c : WCtx) (master a : Nat) (d : List (Option Byte)) : State × Bool :=
  if s.darkAt a then (s, false) else s.memWrite master a d c.ecc

/-- A write carried out by this chip: the state, and whether it was answered without error. -/
def State.carry (s : State) (c : WCtx) (master : Nat) : WriteReq → State × Bool
  | .reg a v => (s.pageWrite c ((a - 0x40000000) / 0x1000) (a % 0x1000) v, true)
  | .latent o d => s.latentWrite c master o d
  | .direct o d => s.directWrite c master o d
  | .memory a d => s.memReq c master a d

/-- A host write refused with code 0x05 in FOLLOWER (R299); an active-window write is judged by R166. -/
def State.followerRefuse (s : State) (c : WCtx) (req : WriteReq) : State × Bool :=
  match req with
  | .reg a v => (s.pageRefuse c.path ((a - 0x40000000) / 0x1000) (a % 0x1000) 0x05 v, true)
  | .latent o _ => (s.err Pg.TL 0 0x05 c.path (BitVec.ofNat 32 o), true)
  | .direct o d => s.directWrite c 21 o d
  | .memory a _ => (s.err Pg.HST 0 0x05 c.path (BitVec.ofNat 32 a), true)

/-- A path whose writes the twin rules judge: the three host paths. -/
def hostPath (path : Nat) : Bool := decide (1 ≤ path) && decide (path ≤ 3)

/-- Whether a write was carried out: no error was recorded, or only a reserved encoding (R16) or the refused copy of R168. -/
def carriedOut (s0 s1 : State) : Bool :=
  s1.elogSeq == s0.elogSeq || match s1.elog.head? with
    | some r => r.code == 0x01 || (r.page == Pg.MIX && r.code == 0x42)
    | none => false

/-- Whether a write is a mode request (R423). -/
def modeRequest : WriteReq → Bool
  | .reg a v => a == A.MODE_REQ && bitN v.toNat 4 == 1
  | _ => false

/-- A carried-out write sent to the twin, with the boundary that it names: of a mode request its own, else the second from here (R167, R192, R242,
R297). -/
def State.sendMirror (s : State) (req : WriteReq) : State :=
  if s.twUp then
    let blk := if modeRequest req && s.mode.pend.isSome then s.mode.pendAt else s.block + 2
    let n := s.twin.seqOut + 1
    (s.setTwin { s.twin with seqOut := n }).emit (.twin (.write n req (s.tlOf (8 * blk) / 8).toNat))
  else s

/-- A write carried out, and in LEADER mirrored; a return from QUIESCE is mirrored too (R297). -/
def State.carryMirror (s : State) (c : WCtx) (req : WriteReq) : State × Bool :=
  let send := hostPath c.path && !s.localReq req && (s.mode.cur == .leader || (s.mode.cur == .quiesce &&
    match req with
    | .reg a _ => a == A.MODE_REQ
    | _ => false))
  let r := s.carry c 21 req
  if send && r.2 && carriedOut s r.1 then (r.1.sendMirror req, r.2) else r

/-- Network management never writes the HST page (R43). -/
def mgmtBarred (path : Nat) : WriteReq → Bool
  | .reg a _ => path == 3 && a / 0x1000 == 0x40001
  | _ => false

/-- Whether a FOLLOWER refuses the writes that are not local (R299). -/
def State.refusesWrites (s : State) : Bool := s.mode.cur == .follower && !(s.twin.deg && s.on R.TW_CTRL_LOCAL_WR)

/-- A host write as its chip takes it: barred from the HST page for management, refused in FOLLOWER, or carried out. -/
def State.hostWrite (s : State) (c : WCtx) (req : WriteReq) : State × Bool :=
  if mgmtBarred c.path req then (s, false)
  else if !hostPath c.path || s.localReq req then s.carry c 21 req
  else if s.refusesWrites then s.followerRefuse c req
  else s.carryMirror c req

/-- Whether a LEADER holds a write until the next block: one that it will mirror, from tick 992 on (R297). -/
def State.holds (s : State) (path : Nat) (req : WriteReq) : Bool :=
  hostPath path && s.mode.cur == .leader && decide (992 ≤ s.tick) && !s.localReq req && !mgmtBarred path req

/-! Accesses that wait for a hen or a lock (R372, R378). -/

/-- Whether a shared-memory bank is locked against a master (R378). -/
def State.lockedFor (s : State) (master a : Nat) : Bool :=
  decide (targetOf a < 32) && match tget noLock s.fab.locks (targetOf a) with
    | some l => l.master != master
    | none => false

/-- Whether an access of a master to a place must wait. -/
def State.waits (s : State) (master a : Nat) : Bool := s.henBusy a || s.lockedFor master a

/-- Whether a host path's write must wait for its place. -/
def State.reqWaits (s : State) (path : Nat) : WriteReq → Bool
  | .memory a _ => !s.darkAt a && s.waits 21 a && !(hostPath path && s.refusesWrites)
  | _ => false

/-! Routing (R371 to R373). -/

/-- An access to a register page that breaks R13: recorded for PCIe on the HST page (R37), else on the page itself; it counts for the key. -/
def State.badShape (s : State) (path a : Nat) (write : Bool) : State :=
  let page := (a - 0x40000000) / 0x1000
  let held := write && s.holdsKey page path
  let s := if path = 1 then s.hostErr 1 0x40 a else s.err page (a % 0x1000) 0x03 path 0
  if held then s.setKey page none else s

/-- What a write of bytes to a place asks for, where it reaches a register whole, a window or a memory. -/
def requestAt (a : Nat) (d : List (Option Byte)) : Option WriteReq :=
  let t := targetOf a
  if t = 63 ∨ t = 33 then none
  else if t = 32 then
    (if a % 4 = 0 ∧ d.length = 4 ∧ d.all (·.isSome) then some (.reg a (BitVec.ofNat 32 (leNat (d.map (·.getD 0))))) else none)
  else if t = 35 then some (if a < 0x51000000 then .direct (a - 0x50000000) d else .latent (a - 0x51000000) d)
  else some (.memory a d)

/-- A write of bytes to a fabric address by a host path: the state, and whether it was answered without error. -/
def State.busWrite (s : State) (c : WCtx) (addr : Nat) (d : List (Option Byte)) : State × Bool :=
  let a := s.place addr
  match requestAt a d with
  | some r => s.hostWrite c r
  | none =>
    if targetOf a = 63 then ((s.decodeErr 21 addr c.path true).hostErr c.path 0x40 addr, false)
    else if targetOf a = 33 then (s, false)
    else (s.badShape c.path a true, false)

/-! Reads (R14, R52). -/

/-- Whether an offset of a page holds a _LO word whose _HI word follows it. -/
def isLo (page off : Nat) : Bool :=
  off == 0x028 || match page with
    | 0x01 => off == 0x058
    | 0x08 => off == 0x040 || off == 0x050 || (decide (0x100 ≤ off) && decide (off < 0x500) && off % 32 == 0)
    | 0x34 => off == 0x044
    | 0x40 => off == 0x070 || off == 0x090
    | 0x48 => off == 0x068 || off == 0x070 || off == 0x078 || off == 0x080 || off == 0x088
    | 0x70 => off == 0x044 || off == 0x04C
    | _ => false

/-- The words that a read of a word captures for its master, beside itself: how many that follow it, and whether they stay captured. -/
def captures (page off : Nat) : Nat × Bool :=
  if isLo page off then (1, false)
  else if page = 0x40 ∧ off = 0x080 then (2, false)
  else if (page = 0x00 ∨ page = 0x70) ∧ off = 0x080 then (15, true)
  else (0, false)

/-- `n` words of a page from an offset on, as reads at one instant return them. -/
def State.readWords (s : State) (page off : Nat) : Nat → List Word × State
  | 0 => ([], s)
  | n + 1 =>
    let r := s.readWord page off
    let q := State.readWords r.2 page (off + 4) n
    (r.1 :: q.1, q.2)

/-- The words that follow a read word captured for a master. -/
def State.capture (s : State) (who page off : Nat) : State :=
  let k := captures page off
  if k.1 = 0 then s
  else
    let a := pageAddr page off
    let r := s.readWords page (off + 4) k.1
    let h := r.2.host
    if k.2 then
      { r.2 with host := { h with wideCap := (who, a, r.1) :: h.wideCap.filter fun x => !(x.1 == who && x.2.1 == a) } }
    else
      let new := (List.range k.1).map fun i => (⟨who, a + 4 * (i + 1), nth 0 r.1 i⟩ : Capture)
      { r.2 with host := { h with hiCap := new ++ h.hiCap.filter fun x => !new.any fun y => y.path == x.path && y.addr == x.addr } }

/-- A word of a page read by a master: a captured word where it has one, else the word as it stands. -/
def State.regRead (s : State) (who page off : Nat) : Word × State :=
  let a := pageAddr page off
  match s.host.hiCap.find? fun x => x.path == who && x.addr == a with
  | some x => (x.value, { s with host := { s.host with hiCap := s.host.hiCap.filter fun y => !(y.path == who && y.addr == a) } })
  | none =>
    match s.host.wideCap.find? fun x => x.1 == who && decide (x.2.1 < a) && decide (a ≤ x.2.1 + 4 * x.2.2.length) with
    | some x => (nth 0 x.2.2 ((a - x.2.1) / 4 - 1), s)
    | none =>
      let r := s.readWord page off
      (r.1, r.2.capture who page off)

/-- The bytes of a read packed into words, the last one filled with zeros. -/
def packWords (b : Bytes) : List Word := (List.range ((b.length + 3) / 4)).map fun i => BitVec.ofNat 32 (leNat ((b.drop (4 * i)).take 4))

/-- Bytes of the latent bank read word by word, from the word that holds the first, as a refill under way shows them (R71). -/
def State.latentBytes (s : State) (o : Nat) : Nat → Bytes × State
  | 0 => ([], s)
  | n + 1 =>
    let r := s.latentWord o
    let q := State.latentBytes r.2 (o + 4) n
    (toLe 4 r.1 ++ q.1, q.2)

/-- `size` bytes read from a fabric address by a host path, as words; none where the read gets an error response. A register is read as one
aligned word, the contact sheet also whole (R13, R52, R372). -/
def State.busRead (s : State) (path addr size : Nat) : Option (List Word) × State :=
  let a := s.place addr
  let t := targetOf a
  if t = 63 then (none, (s.decodeErr 21 addr path false).hostErr path 0x40 addr)
  else if t = 32 then
    if a = 0x40000080 ∧ size = 64 then
      let r := s.readWords Pg.DEV 0x080 16
      (some r.1, r.2)
    else if a % 4 = 0 ∧ size = 4 then
      let r := s.regRead path ((a - 0x40000000) / 0x1000) (a % 0x1000)
      (some [r.1], r.2)
    else (none, s.badShape path a false)
  else if s.darkAt a then (none, s)
  else if t = 35 ∧ 0x51000000 ≤ a ∧ s.dev.state = .refilling then
    let o := (a - 0x51000000) / 4 * 4
    let r := s.latentBytes o ((a % 4 + size + 3) / 4)
    (some (packWords ((r.1.drop (a % 4)).take size)), r.2)
  else
    let r := s.memRead 21 a size []
    (r.2.map packWords, r.1)

/-- Whether a host path's read must wait for its place. -/
def State.readWaits (s : State) (addr : Nat) : Bool :=
  let a := s.place addr
  decide (targetOf a ≠ 63) && decide (targetOf a ≠ 32) && !s.darkAt a && s.waits 21 a

/-! Network management (R41 to R43, Table 2.4). -/

/-- A request's fault-free ops area, or none where R41 drops it. Minimum-frame padding after the tag is no part of the request (log entry 38); one
whose op count is 0 or above 64 is dropped as one whose length does not match (log entry 39). -/
def State.mgmtOk (s : State) (b : Bytes) : Bool :=
  let n := (nth 0 b 2).toNat
  let len := 28 + 12 * n
  decide (1 ≤ n) && decide (n ≤ 64) && (b.length == len || (decide (len ≤ b.length) && decide (b.length ≤ 46))) && nth 0 b 1 == 1
    && decide (s.host.seq < beNat ((b.drop 4).take 8))
    && match s.nkeyBytes with
      | some k => (b.drop (12 + 12 * n)).take 16 == (hmac256 k (b.take (12 + 12 * n))).take 16
      | none => false

/-- Op `i` of a request. -/
def opBytes (b : Bytes) (i : Nat) : Bytes := (b.drop (12 + 12 * i)).take 12
def opCode (b : Bytes) (i : Nat) : Nat := (nth 0 (opBytes b i) 0).toNat
def opAddr (b : Bytes) (i : Nat) : Nat := beNat (((opBytes b i).drop 4).take 4)
def opData (b : Bytes) (i : Nat) : List (Option Byte) := ((((opBytes b i).drop 8).take 4).reverse).map some

/-- Whether an op must wait before it is carried out. -/
def State.opWaits (s : State) (b : Bytes) (i : Nat) : Bool :=
  if opCode b i = 1 then s.readWaits (opAddr b i)
  else if opCode b i = 2 then
    match requestAt (s.place (opAddr b i)) (opData b i) with
    | some r => s.holds 3 r || s.reqWaits 3 r
    | none => false
  else false

/-- One op carried out: the state, and status and data of the response. An op code that Table 2.4 does not list is answered with status 0x01 (log
entry 40). -/
def State.mgmtOp (s : State) (b : Bytes) (i : Nat) : State × Nat × Word :=
  let data : Word := BitVec.ofNat 32 (leNat ((opData b i).map (·.getD 0)))
  if opCode b i = 1 then
    let r := s.busRead 3 (opAddr b i) 4
    (r.2, if r.1.isSome then 0 else 1, (r.1.getD []).headD 0)
  else if opCode b i = 2 then
    (if opAddr b i / 0x1000 = 0x40001 then (s, 2, data)
     else
      let r := s.busWrite (onPath 3) (opAddr b i) (opData b i)
      (r.1, if r.2 then 0 else 1, data))
  else (s, 1, data)

/-- The end of an accepted request: HST_NMGT_SEQ, and the response from the internal port, with priority 0 (log entry 41). -/
def State.mgmtAnswer (s : State) (q : MgmtReq) : State :=
  let b := q.body
  let key := (s.nkeyBytes).getD []
  let body := toBe 1 2 ++ toBe 1 1 ++ toBe 1 (nth 0 b 2).toNat ++ [0] ++ (b.drop 4).take 8 ++ q.acc
  let t := { s with host := { s.host with seq := beNat ((b.drop 4).take 8) } }
  t.sendFrom4 ⟨q.mac, t.mac, none, 0x88B5, body ++ (hmac256 key body).take 16⟩ 0 q.vid (fun _ => true) none

/-! The accesses of a path in the order issued (R34): one that must wait holds back those after it on its path. -/

/-- The path of an access. -/
def HostOp.path : HostOp → Nat
  | .write c _ _ _ => c.path
  | .req c _ _ => c.path
  | .read path _ _ _ => path
  | .mgmt _ _ _ => 3
  | .ops _ => 3

/-- The accesses that wait. -/
def State.setWait (s : State) (l : List (Bool × HostOp)) : State := { s with fab := { s.fab with hostWait := l } }

/-- Whether an access of a path waits. -/
def State.pathBusy (s : State) (path : Nat) : Bool := s.fab.hostWait.any fun x => x.2.path == path

/-- The request whose ops are being carried out. -/
def State.opsNow (s : State) : Option MgmtReq :=
  s.fab.hostWait.findSome? fun x => match x.2 with
    | .ops q => some q
    | _ => none

/-- That request advanced, or at its end taken out. -/
def State.setOps (s : State) (q : Option MgmtReq) : State :=
  s.setWait (s.fab.hostWait.filterMap fun x => match x.2 with
    | .ops _ => q.map fun v => (x.1, .ops v)
    | _ => some x)

/-- The ops of the request under way, as far as they can go: every op is attempted, in order (R42). A reset that an op causes ends the request. -/
def State.runOps (s : State) : Nat → State
  | 0 => s
  | n + 1 =>
    match s.opsNow with
    | none => s
    | some q =>
      if (nth 0 q.body 2).toNat ≤ q.next then (s.setOps none).mgmtAnswer q
      else if s.opWaits q.body q.next then s
      else
        let o := opBytes q.body q.next
        let r := s.mgmtOp q.body q.next
        State.runOps (if r.1.opsNow.isSome then
          r.1.setOps (some { q with next := q.next + 1, acc := q.acc ++ [nth 0 o 0] ++ toBe 1 r.2.1 ++ [0, 0] ++ (o.drop 4).take 4 ++ toBe 4 r.2.2.toNat })
        else r.1) n

/-- Whether an access must wait before it is carried out. -/
def State.mustWait (s : State) : HostOp → Bool
  | .write c addr d _ => match requestAt (s.place addr) d with
    | some r => s.holds c.path r || s.reqWaits c.path r
    | none => false
  | .req c r _ => s.holds c.path r || s.reqWaits c.path r
  | .read _ addr _ _ => s.readWaits addr
  | .mgmt _ _ _ => false
  | .ops q => decide (q.next < (nth 0 q.body 2).toNat) && s.opWaits q.body q.next

/-- An access carried out, and answered where it gets an answer. -/
def State.runOp (s : State) : HostOp → State
  | .write c addr d answer =>
    let r := s.busWrite c addr d
    if answer then r.1.emit (.response c.path r.2 []) else r.1
  | .req c w answer =>
    let r := s.hostWrite c w
    if answer then r.1.emit (.response c.path r.2 []) else r.1
  | .read path addr size answer =>
    let r := s.busRead path addr size
    if answer then r.2.emit (.response path r.1.isSome (r.1.getD [])) else r.2
  | .mgmt mac vid b =>
    if s.mgmtOk b then (s.setWait ((false, .ops ⟨mac, vid, b, 0, []⟩) :: s.fab.hostWait)).runOps 65
    else s.inc R.HST_NMGT_DROP_COUNT
  | .ops _ => s.runOps 65

/-- The accesses of what comes after them: event bits and flag signals of their own cycle are past. -/
def HostOp.parked : HostOp → HostOp
  | .write c a d x => .write { c with fresh := 0, signalled := 0 } a d x
  | .req c r x => .req { c with fresh := 0, signalled := 0 } r x
  | o => o

/-- Whether a LEADER holds an access that arrives now (R297). -/
def State.heldNow (s : State) : HostOp → Bool
  | .write c addr d _ => match requestAt (s.place addr) d with
    | some r => s.holds c.path r
    | none => false
  | .req c r _ => s.holds c.path r
  | _ => false

/-- An access arrives: it is carried out, or waits behind those of its path or for its place. -/
def State.access (s : State) (o : HostOp) : State :=
  if s.pathBusy o.path || s.mustWait o then s.setWait (s.fab.hostWait ++ [(s.heldNow o, o.parked)])
  else s.runOp o

/-- The first waiting access that can go, after those that stay on the paths given: it, and the accesses without it. A request under way stays
listed until it has ended. -/
def State.nextOp (s : State) (blocked : List Nat) : List (Bool × HostOp) → Option (HostOp × List (Bool × HostOp))
  | [] => none
  | x :: t =>
    if blocked.contains x.2.path || x.1 || s.mustWait x.2 then
      (State.nextOp s (x.2.path :: blocked) t).map fun r => (r.1, x :: r.2)
    else match x.2 with
      | .ops _ => some (x.2, x :: t)
      | _ => some (x.2, t)

/-- The waiting accesses whose way is clear are carried out, in order, at most `n` of them. -/
def State.flushWait (s : State) : Nat → State
  | 0 => s
  | n + 1 =>
    match s.nextOp [] s.fab.hostWait with
    | some (o, rest) => State.flushWait ((s.setWait rest).runOp o) n
    | none => s

/-- The end of a command: waiting accesses that can go, then what follows in the same cycle. A reset starts afresh. -/
def finish (s0 s1 : State) : State :=
  let s2 := if s1.fab.hostWait.isEmpty then s1 else s1.flushWait s1.fab.hostWait.length
  if s2.mode.cur = .boot ∧ s0.mode.cur ≠ .boot then { s2 with outs := (pinChanges s0 s2).reverse ++ s2.outs } else settle s0 s2

/-! Register commands. -/

/-- A word written to a page by a host path, with its response. -/
def State.hostReg (s : State) (c : WCtx) (page off : Nat) (value : Word) : State :=
  s.access (if isPage page then .req c (.reg (pageAddr page off) value) true
    else .write c (pageAddr page off) ((toLe 4 value.toNat).map some) true)

/-- A command that answers a next state. -/
def done (s t : State) : Host.Outcome State Fault Refusal := .next (finish s t)

end Sys2Proof.Machine
end

