-- ==== Sys2Proof/Machine/HostCmds.lean ====
section
/-! DEFINITION. The commands of chapter 02: host accesses, the slave, management frames, page keys, soft reset, events and the watchdog. -/

namespace Sys2Proof.Machine

/-! PCIe: the BARs (R36) and the MSI-X structures (R49; PCI Express Base Specification, log entry 10). -/

/-- What an address of a host access reaches: a fabric address, a word of the MSI-X table, its pending bits, its Message Control word, or the
default target of BAR0. -/
inductive BarPlace where
  | fab (a : Nat)
  | table (i : Nat)
  | pba
  | control
  | outside
  deriving DecidableEq, Repr

/-- The BARs (R36, Table 2.2). -/
def State.barPlace (s : State) : HostAddr → BarPlace
  | .fabric a => .fab a
  | .bar0 o =>
    if o < 0x100000 then .fab (0x40000000 + o)
    else if 0x100000 ≤ o ∧ o < 0x100200 then .table ((o - 0x100000) / 4)
    else if 0x101000 ≤ o ∧ o < 0x101008 then .pba
    else if 0x1000000 ≤ o ∧ o < 0x1800000 then .fab (0x50000000 + (o - 0x1000000))
    else if 0x2000000 ≤ o ∧ o < 0x2800000 then .fab (0x51000000 + (o - 0x2000000))
    else .outside
  | .bar2 o => .fab (s.rd R.HST_BAR2_BASE_BASE * 0x10000000 + o % 0x10000000)
  | .msixControl => .control

/-- The pending messages of those of some vectors that are not masked are sent. -/
def State.sendPending (s : State) (vs : List Nat) : State :=
  if s.host.pcieUp && s.host.msixOn then
    let go := vs.filter fun v => s.host.msixPend.getLsbD v && !s.vectorMasked v
    { s with host := { s.host with msixPend := go.foldl (fun m v => m &&& ~~~ BitVec.ofNat 32 (2 ^ v)) s.host.msixPend }
             outs := (go.map s.msixMsg).reverse ++ s.outs }
  else s

/-- A word of the MSI-X table written: of an entry the message address, its high half, the message data, and the vector control word, whose bit 0
masks the vector. -/
def State.msixWrite (s : State) (i : Nat) (value : Word) : State :=
  let bit : BitVec 32 := BitVec.ofNat 32 (2 ^ (i / 4))
  let h := s.host
  ({ s with host := if i % 4 = 3 then { h with msixMask := if bitN value.toNat 0 = 1 then h.msixMask ||| bit else h.msixMask &&& ~~~ bit }
                    else { h with msixTbl := tset zeroWord h.msixTbl i (if i % 4 = 0 then value &&& 0xFFFFFFFC else value) } }).sendPending [i / 4]

/-- A word of the MSI-X table. -/
def State.msixWord (s : State) (i : Nat) : Word :=
  if i % 4 = 3 then BitVec.ofNat 32 (b2n (s.host.msixMask.getLsbD (i / 4))) else tget zeroWord s.host.msixTbl i

/-- The Message Control word: 32 vectors, bit 14 the function's mask, bit 15 MSI-X enabled. Disabling MSI-X discards the pending messages, none of
which is sent later (R49). -/
def State.msixControl (s : State) (value : Word) : State :=
  let on := bitN value.toNat 15 == 1
  ({ s with host := { s.host with msixOn := on, msixFmask := bitN value.toNat 14 == 1,
                                  msixPend := if on then s.host.msixPend else 0 } }).sendPending (List.range 32)

/-- The default target reached through BAR0 at an offset that stands for no fabric address: the access is dropped or aborted and recorded (R37,
R373). The address recorded is free (log entry 42). -/
def State.outside (s : State) (path : Nat) (write : Bool) : State :=
  let a := (Config.freeWord s.freeCtr).toNat
  (s.tick1.decodeErr 21 a path write).hostErr path 0x40 a

/-! Accesses. -/

/-- A host write of `size` bytes (R34, R36, R37). -/
def State.hostStore (s : State) (path : Nat) (addr : HostAddr) (size : Nat) (value : Word) : State :=
  match s.barPlace addr with
  | .fab a => s.access (.write (onPath path) a ((toLe size value.toNat).map some) true)
  | .table i => (s.msixWrite i value).emit (.response path true [])
  | .pba => s.emit (.response path true [])
  | .control => (s.msixControl value).emit (.response path true [])
  | .outside => (s.outside path true).emit (.response path false [])

/-- A host read of `size` bytes (R13, R14, R36 to R38). -/
def State.hostLoad (s : State) (path : Nat) (addr : HostAddr) (size : Nat) : State :=
  match s.barPlace addr with
  | .fab a => s.access (.read path a size true)
  | .table i => s.emit (.response path true [s.msixWord i])
  | .pba => s.emit (.response path true [s.host.msixPend])
  | .control => s.emit (.response path true [BitVec.ofNat 32 (31 + 2 ^ 14 * b2n s.host.msixFmask + 2 ^ 15 * b2n s.host.msixOn)])
  | .outside => (s.outside path false).emit (.response path false [])

/-- REGISTER_WRITE (R34, R36, R37). -/
def execRegisterWrite (path : Path) (addr : HostAddr) (size : Nat) (value : Word) (s : State) : Host.Outcome State Fault Refusal :=
  done s (s.hostStore path.code addr size value)

/-- LO_READ_CAPTURE (R14): a read; of a _LO word it captures the whole value. -/
def execLoReadCapture (path : Path) (addr : HostAddr) (size : Nat) (s : State) : Host.Outcome State Fault Refusal :=
  done s (s.hostLoad path.code addr size)

/-- HI_WRITE_APPLY (R14). -/
def execHiWriteApply (path : Path) (addr : HostAddr) (value : Word) (s : State) : Host.Outcome State Fault Refusal :=
  done s (s.hostStore path.code addr 4 value)

/-- CONTACT_SHEET_READ (R52): DEV_CS0 as a word, or all 16 words in one beat. -/
def execContactSheetRead (path : Path) (whole : Bool) (s : State) : Host.Outcome State Fault Refusal :=
  done s (s.access (.read path.code 0x40000080 (if whole then 64 else 4) true))

/-- LATENT_WINDOW_WRITE (R66). -/
def execLatentWindowWrite (path : Path) (off : Nat) (data : List (Option Byte)) (s : State) : Host.Outcome State Fault Refusal :=
  done s (s.access (.req (onPath path.code) (.latent off data) true))

/-- DIRECT_CLASS_WRITE (R166). -/
def execDirectClassWrite (path : Path) (off : Nat) (data : List (Option Byte)) (s : State) : Host.Outcome State Fault Refusal :=
  done s (s.access (.req (onPath path.code) (.direct off data) true))

/-- DIRECT (R167). -/
def execDirect (s : State) : Host.Outcome State Fault Refusal := done s (doDirect s)

/-! The QSPI and SPI slave (R39, R40). -/

/-- Words written from an address on, which advances by 4 after each. -/
def State.slaveWrite (s : State) (addr : Nat) : List Word → State
  | [] => s
  | w :: t => State.slaveWrite (s.access (.write (onPath 2) (addr % 2 ^ 32) ((toLe 4 w.toNat).map some) false)) (addr + 4) t

/-- Words read from an address on. A word that comes late, as one must that waits for an access before it or for its place, or that gets an error
response, is sent as 0 and noted in the status byte; a late read is still carried out. -/
def State.slaveRead (s : State) (addr : Nat) : List Bool → List Word × State
  | [] => ([], s)
  | late :: t =>
    let a := addr % 2 ^ 32
    if late || s.pathBusy 2 || s.readWaits a then
      let s := s.access (.read 2 a 4 false)
      let q := State.slaveRead { s with host := { s.host with spiLate := true } } (addr + 4) t
      (0 :: q.1, q.2)
    else
      let r := s.busRead 2 a 4
      let q := State.slaveRead { r.2 with host := { r.2.host with spiErr := r.2.host.spiErr || r.1.isNone } } (addr + 4) t
      ((r.1.getD []).headD 0 :: q.1, q.2)

/-- The transaction that stays open until chip select rises (R39). -/
def State.openSlave (s : State) (write : Bool) (next bits : Nat) : State :=
  { s with host := { s.host with slave := some ⟨write, next % 2 ^ 32, bits⟩ } }

/-- A write transaction: its whole words carried out, and the bits of a word that may yet be cut short. -/
def doSlaveWrite (addr : Nat) (words : List Word) (bits : Nat) (s : State) : State :=
  (s.slaveWrite addr words).openSlave true (addr + 4 * words.length) bits

/-- A read transaction. -/
def doSlaveRead (addr : Nat) (late : List Bool) (s : State) : State :=
  let r := s.slaveRead addr late
  (r.2.openSlave false (addr + 4 * late.length) 0).emit (.response 2 true r.1)

/-- WRITE_WORDS (R39): the words received whole, and `cutBits` bits of the next. -/
def execWriteWords (addr : Nat) (words : List Word) (cutBits : Fin 32) (s : State) : Host.Outcome State Fault Refusal :=
  done s (doSlaveWrite addr words cutBits.val s)

/-- READ_WORDS (R40). -/
def execReadWords (addr : Nat) (late : List Bool) (s : State) : Host.Outcome State Fault Refusal := done s (doSlaveRead addr late s)

/-- QUAD_WRITE_WORDS (R39). -/
def execQuadWriteWords (addr : Nat) (words : List Word) (cutBits : Fin 32) (s : State) : Host.Outcome State Fault Refusal :=
  done s (doSlaveWrite addr words cutBits.val s)

/-- QUAD_READ_WORDS (R40). -/
def execQuadReadWords (addr : Nat) (late : List Bool) (s : State) : Host.Outcome State Fault Refusal := done s (doSlaveRead addr late s)

/-- Whether a write of the slave has not yet completed: held for the next block (R297), or waiting for its place. -/
def State.wrPend (s : State) : Bool :=
  s.fab.hostWait.any fun x => match x.2 with
    | .write c _ _ _ => c.path == 2
    | .req c _ _ => c.path == 2
    | _ => false

/-- READ_SLAVE_STATUS (R40): a command with no address, after any transaction before it. -/
def execReadSlaveStatus (s : State) : Host.Outcome State Fault Refusal :=
  let w := b2n s.host.spiErr + 2 * b2n s.host.spiLate + 4 * b2n s.wrPend
  done s ({ s with host := { s.host with spiErr := false, spiLate := false, slave := none } }.emit (.response 2 true [BitVec.ofNat 32 w]))

/-- CHIP_SELECT_RISE (R39): the transaction ends, and a word cut short is discarded. -/
def execChipSelectRise (s : State) : Host.Outcome State Fault Refusal := done s { s with host := { s.host with slave := none } }

/-! Network management (R41 to R44). -/

/-- MGMT_REQUEST (R41, R42): requests are accepted while HST_NMGT_CFG.EN is 1, on its VLAN; any other is no request of this device's, and is not
counted (log entry 43); in DARK its frame never reaches the internal port (R226). -/
def execMgmtRequest (mac vid : Nat) (payload : Bytes) (s : State) : Host.Outcome State Fault Refusal :=
  done s (if s.mode.cur != .dark && s.on R.HST_NMGT_CFG_EN && vid == s.rd R.HST_NMGT_CFG_VID && nth 0 payload 0 == 1 then s.access (.mgmt mac vid payload) else s)

/-- HST_NKEY0_WRITE (R44). -/
def execHstNkey0Write (path : Path) (value : Word) (s : State) : Host.Outcome State Fault Refusal :=
  done s (s.hostReg (onPath path.code) Pg.HST 0x060 value)

/-- HST_NKEY7_WRITE (R44). -/
def execHstNkey7Write (path : Path) (value : Word) (s : State) : Host.Outcome State Fault Refusal :=
  done s (s.hostReg (onPath path.code) Pg.HST 0x07C value)

/-! Keys, soft reset, freeze, events. -/

/-- PAGE_KEY_WRITE (R51). -/
def execPageKeyWrite (path : Path) (page : Fin 128) (value : Word) (s : State) : Host.Outcome State Fault Refusal :=
  done s (s.hostReg (onPath path.code) page.val 0x034 value)

/-- PAGE_KEY_TIMEOUT (R51): one block after its holder's last counted write. -/
def execPageKeyTimeout (page : Fin 128) (s : State) : Host.Outcome State Fault Refusal :=
  done s (if (s.keyOf page.val).isNone then s.setKey page.val none else s)

/-- The word of CTRL that a write of some bits puts, ENABLE and FREEZE standing as they are. -/
def State.ctrlWord (s : State) (page : Nat) : Nat := (s.getW (pageAddr page 0x008)).toNat % 32

/-- SOFT_RESET (R418, R449). -/
def execSoftReset (path : Path) (page : Fin 128) (s : State) : Host.Outcome State Fault Refusal :=
  done s (s.hostReg (onPath path.code) page.val 0x008 (BitVec.ofNat 32 (setBitsN (s.ctrlWord page.val) 1 1 1)))

/-- FREEZE (R47). -/
def execFreeze (path : Path) (page : Fin 128) (on : Bool) (s : State) : Host.Outcome State Fault Refusal :=
  done s (s.hostReg (onPath path.code) page.val 0x008 (BitVec.ofNat 32 (setBitsN (s.ctrlWord page.val) 4 1 (b2n on))))

/-- EVT_PEND_CLEAR (R48): `fresh` are the events that occur in the same cycle. -/
def execEvtPendClear (path : Path) (page : Fin 128) (value fresh : Word) (s : State) : Host.Outcome State Fault Refusal :=
  done s (s.hostReg { onPath path.code with fresh := fresh.toNat } page.val 0x018 value)

/-- MSIX_UNMASK (R49): a pending message is sent. -/
def execMsixUnmask (vector : Fin 32) (s : State) : Host.Outcome State Fault Refusal :=
  done s (s.msixWrite (4 * vector.val + 3) 0)

/-! The device watchdog (R54, R55). -/

/-- DEV_WDT_CTRL_WRITE (R54). -/
def execDevWdtCtrlWrite (path : Path) (value : Word) (s : State) : Host.Outcome State Fault Refusal :=
  done s (s.hostReg (onPath path.code) Pg.DEV 0x0C0 value)

/-- WDT_KICK (R55). -/
def execWdtKick (path : Path) (value : Word) (s : State) : Host.Outcome State Fault Refusal :=
  done s (s.hostReg (onPath path.code) Pg.DEV 0x0C4 value)

/-- Whether the watchdog counts (R54). -/
def State.wdtRuns (s : State) : Bool :=
  s.on R.DEV_WDT_CTRL_EN && match s.mode.cur with
    | .commission => true | .standalone => true | .leader => true | .orphan => true | .quiesce => true
    | _ => false

/-- Whole blocks since the watchdog's last restart. -/
def State.wdtBlocks (s : State) : Nat := (s.smp - s.host.wdtSince) / 8

/-- WDT_WARN (R55). -/
def execWdtWarn (s : State) : Host.Outcome State Fault Refusal :=
  done s (if s.wdtRuns && !s.host.wdtWarned && decide (s.rd R.DEV_WDT_CTRL_PERIOD ≤ s.wdtBlocks) then
      { s with host := { s.host with wdtWarned := true } }.raise Pg.DEV 8
    else s)

/-- ACTION of the watchdog; one that the present mode does not allow is event-only and recorded, with the offset of DEV_WDT_CTRL, path code 0 and
data 0, which the spec does not give (log entry 44). -/
def State.wdtAct (s : State) : State :=
  let no := s.err Pg.DEV 0x0C0 0x05 0 0
  match s.rd R.DEV_WDT_CTRL_ACTION with
  | 1 => if s.mode.cur.quiets then s.quiesceNext else no
  | 2 => if s.mode.cur == .leader then s.relinquish false else no
  | 3 => s.warmReset 5 s.pwr.posA
  | _ => s

/-- WDT_EXPIRE (R55): a watchdog that has expired begins again with a full period. -/
def execWdtExpire (s : State) : Host.Outcome State Fault Refusal :=
  done s (if s.wdtRuns && s.host.wdtWarned && decide (2 * s.rd R.DEV_WDT_CTRL_PERIOD ≤ s.wdtBlocks) then
      ({ s with host := { s.host with wdtWarned := false, wdtSince := s.smp } }.raise Pg.DEV 9).wdtAct
    else s)

end Sys2Proof.Machine
end

