-- ==== Sys2Proof/Machine/Fabric.lean ====
section
/-! DEFINITION. The commands of the fabric and of the shared memory (R370 to R386), and the port resets of PCIe. -/

namespace Sys2Proof.Machine

/-! Arbitration (R375 to R377). -/

/-- The slack of a beat at a cycle: a signed 24-bit number (R375). -/
def slackAt (now : Nat) (deadline : BitVec 24) : Int := (deadline - BitVec.ofNat 24 now).toInt

/-- The beat of a list whose key is least; of equal keys the lower master's (R376). -/
def leastBeat (key : Beat → Int) : List Beat → Option Beat
  | [] => none
  | b :: t => match leastBeat key t with
    | none => some b
    | some c => if key c < key b ∨ (key c = key b ∧ c.master.val < b.master.val) then some c else some b

/-- The path that a beat's access carries (R369, Table 2.1). -/
def beatPath (b : Beat) : Nat := if b.master.val = 21 then b.path.code else 0

/-- The bytes that a write beat stores, from the first enabled one to the last: their offset and they. -/
def lanes (d : List (Option Byte)) : Nat × List (Option Byte) :=
  let d := d.take 64
  let n := (d.takeWhile (·.isNone)).length
  let e := (d.drop n).reverse
  (n, (e.drop (e.takeWhile (·.isNone)).length).reverse)

/-- Whether a beat of the host access port is held back: an access of its path waits before it (R34), or a LEADER holds its write until the next
block (R297). -/
def State.hostHeld (s : State) (b : Beat) : Bool :=
  b.master.val == 21 && (s.pathBusy (beatPath b) || match b.write with
    | some d => match requestAt (s.place b.addr + (lanes d).1) (lanes d).2 with
      | some r => s.holds (beatPath b) r
      | none => false
    | none => false)

/-- Whether a beat may be granted at a target: presented, decoding to it, and waiting neither for a run to end (R372) nor for a lock (R378), nor
as a host path's access. -/
def State.grantable (s : State) (target now : Nat) (b : Beat) : Bool :=
  let a := s.place b.addr
  targetOf a == target && decide (b.presented ≤ now) && (s.darkAt a || !s.waits b.master.val a) && !s.hostHeld b

/-- Whether the next grant of a target goes to the beat presented longest (R376). -/
def State.longestTurn (s : State) (target : Nat) : Bool := (tget zeroNat s.fab.grants target + 1) % s.rd R.FAB_CFG_ARB_N == 0

/-- The beat that a target grants in a cycle (R376). -/
def State.grantOf (s : State) (target now : Nat) (beats : List Beat) : Option Beat :=
  let l := beats.filter (s.grantable target now)
  if s.longestTurn target then leastBeat (fun b => (b.presented : Int)) l else leastBeat (fun b => slackAt now b.deadline) l

/-- A grant counted, with the beat's wait. -/
def State.countGrant (s : State) (target wait : Nat) : State :=
  let old := (tget noWaits s.fab.waits target).filter fun x => decide (s.block < x.1 + 12000) && decide (wait < x.2)
  { s with fab := { s.fab with grants := tset zeroNat s.fab.grants target (tget zeroNat s.fab.grants target + 1)
                               waits := tset noWaits s.fab.waits target ((s.block, wait) :: old) } }

/-! What a granted beat does. -/

/-- A write beat on the register bus: one aligned word (R13). -/
def State.regWriteBeat (s : State) (b : Beat) (a : Nat) (d : List (Option Byte)) : State × Bool :=
  let l := lanes d
  let w := a + l.1
  if w % 4 = 0 ∧ l.2.length = 4 ∧ l.2.all (·.isSome) then
    s.hostWrite (onPath (beatPath b)) (.reg w (BitVec.ofNat 32 (leNat (l.2.map (·.getD 0)))))
  else (s.badShape (beatPath b) w true, false)

/-- A write beat carried out at its target: the state, and whether it was answered without error. -/
def State.writeBeat (s : State) (b : Beat) (d : List (Option Byte)) : State × Bool :=
  let a := s.place b.addr
  let t := targetOf a
  let m := b.master.val
  let c := { onPath (beatPath b) with ecc := b.ecc }
  if t = 33 then (s, false)
  else if t = 32 then s.regWriteBeat b a d
  else
    let l := lanes d
    let req : WriteReq :=
      if t = 35 then (if a < 0x51000000 then .direct (a + l.1 - 0x50000000) l.2 else .latent (a + l.1 - 0x51000000) l.2)
      else .memory (a + l.1) l.2
    if m = 21 then s.hostWrite c req else s.carry c m req

/-- Words of bytes. -/
def wordsOf : Bytes → List Word
  | a :: b :: c :: d :: t => BitVec.ofNat 32 (leNat [a, b, c, d]) :: wordsOf t
  | _ => []

/-- A read of the register bus: the contact sheet whole (R52), or one aligned word. -/
def State.regReadBeat (s : State) (b : Beat) (a : Nat) : State × Option (List Word) :=
  if a = 0x40000080 then
    let r := s.readWords Pg.DEV 0x080 16
    (r.2, some r.1)
  else if a % 4 = 0 then
    let who := if b.master.val = 21 then b.path.code else 8 + b.master.val
    let r := s.regRead who ((a - 0x40000000) / 0x1000) (a % 0x1000)
    (r.2, some [r.1])
  else (s.badShape (beatPath b) a false, none)

/-- The 16 words of a line of the latent window during a refill (R68). -/
def State.latentLine (s : State) (o : Nat) : Nat → List Word × State
  | 0 => ([], s)
  | n + 1 =>
    let r := s.latentWord o
    let q := State.latentLine r.2 (o + 4) n
    (BitVec.ofNat 32 r.1 :: q.1, q.2)

/-- A read beat carried out at its target: the state, and the words read where no error response answers. -/
def State.readBeat (s : State) (b : Beat) : State × Option (List Word) :=
  let a := s.place b.addr
  let t := targetOf a
  if t = 32 then s.regReadBeat b a
  else
    let line := a / 64 * 64
    if t = 35 ∧ 0x51000000 ≤ a ∧ s.dev.state = .refilling then
      let r := s.latentLine (line - 0x51000000) 16
      (r.2, some r.1)
    else
      let r := s.memRead b.master.val line 64 b.ecc
      (r.1, r.2.map wordsOf)

/-- Locks (R378): a locked read of master 22 or 23 takes its bank's lock, a releasing write gives it up. -/
def State.lockStep (s : State) (b : Beat) (now : Nat) : State :=
  let m := b.master.val
  let t := s.target b.addr
  if (m = 22 ∨ m = 23) ∧ t < 32 then
    if b.lockStart && b.write.isNone && !(List.range 32).any (fun k => match tget noLock s.fab.locks k with
        | some l => l.master == m
        | none => false) then
      { s with fab := { s.fab with locks := tset noLock s.fab.locks t (some ⟨m, b.addr, now⟩) } }
    else if b.lockEnd && b.write.isSome && (tget noLock s.fab.locks t).any (·.master == m) then s.unlock t
    else s
  else s

/-- Whether a master's next access to a target gets the error response that a broken lock owes it (R379). -/
def State.owesBreak (s : State) (m t : Nat) : Bool := s.fab.broken.contains (m, t)

/-- A granted beat carried out: the state, whether it was answered without error, and the words read. -/
def State.carryBeat (s : State) (b : Beat) (now : Nat) : State × Option (List Word) :=
  let a := s.place b.addr
  let t := targetOf a
  let m := b.master.val
  if t = 63 then
    let s := s.decodeErr m b.addr (beatPath b) b.write.isSome
    (if m = 21 then s.hostErr (beatPath b) 0x40 b.addr else s, none)
  else if s.darkAt a then (s, none)
  else if s.owesBreak m t then ({ s with fab := { s.fab with broken := s.fab.broken.filter (· != (m, t)) } }, none)
  else
    let s := s.lockStep b now
    match b.write with
    | some d => let r := s.writeBeat b d
                (r.1, if r.2 then some [] else none)
    | none => s.readBeat b

/-- BEAT_GRANT (R376): in one cycle a target grants one of the presented beats. -/
def execBeatGrant (target : Fin 64) (now : Nat) (beats : List Beat) (s : State) : Host.Outcome State Fault Refusal :=
  done s (match s.grantOf target.val now beats with
    | none => s
    | some b =>
      let r := (s.countGrant target.val (now - b.presented)).carryBeat b now
      r.1.emit (.beat b.master.val r.2.isSome (r.2.getD [])))

/-- LOCK_BREAK (R379): a lock held, at the cycles given, for FAB_LOCK_WDT.CYC cycles or more. -/
def execLockBreak (bank : Fin 32) (held : Nat) (s : State) : Host.Outcome State Fault Refusal :=
  done s (match tget noLock s.fab.locks bank.val with
    | some l =>
      if s.rd R.FAB_LOCK_WDT_CYC ≤ held then
        let s := (((s.unlock bank.val).lockRecord l 2 held).inc R.FAB_LOCK_BRK_COUNT).fabDegraded.raise Pg.FAB 10
        { s with fab := { s.fab with broken := (l.master, bank.val) :: s.fab.broken } }
      else s
    | none => s)

/-! Scrubbing (R382 to R386). -/

/-- CE_WRITEBACK (R382): a corrected word is written back; its bytes stand as they were delivered. -/
def execCeWriteback (addr : Nat) (s : State) : Host.Outcome State Fault Refusal :=
  done s { s with fab := { s.fab with ceWait := s.fab.ceWait.filter (· != addr) } }

/-- The first and the last line of a memory that the scrubber passes over (R385): a shared-memory address stands for its bank. -/
def scrubHit (mem addr : Nat) : Bool :=
  match eccMem (targetOf addr) with
  | some m => m == mem && addr % 64 == 0
  | none => false

/-- Whether a line is the last of its pass over shared memory. -/
def lastLine (mem addr : Nat) : Bool := mem == 0 && addr == 0x16000000 - 64

/-- SCRUB_LINE (R385): one line read by the background scrubber, or by the priority scrub that runs (R386), whose lines count for no pass. -/
def execScrubLine (mem : Fin 3) (addr : Nat) (found : List Ecc) (s : State) : Host.Outcome State Fault Refusal :=
  done s (if (s.on R.SHM_SCRUB_EN || (s.fab.prio.isSome && mem.val != 2)) && scrubHit mem.val addr then
      let s := (s.eccRead mem.val 31 addr ((List.range 8).map fun i => nth .clean found i)).1
      if lastLine mem.val addr && s.fab.prio.isNone then { s with fab := { s.fab with passes := (s.fab.passes + 1) % 65536 } } else s
    else s)

/-- PRIO (R386). -/
def execPrio (path : Path) (value : Word) (s : State) : Host.Outcome State Fault Refusal :=
  done s (s.hostReg (onPath path.code) Pg.SHM 0x040 (value ||| BitVec.ofNat 32 (2 ^ 17)))

/-- PRIO_DONE (R386): a priority scrub has passed over shared memory and both parameter banks, 524 µs after its start, with what it found. -/
def execPrioDone (ce ue : Nat) (s : State) : Host.Outcome State Fault Refusal :=
  done s (match s.fab.prio with
    | some t =>
      if usPassed (s.clk - t) 524 then
        (({ s with fab := { s.fab with prio := none } }.setW A.SHM_PRIO_RES
          (BitVec.ofNat 32 (min 65535 ce + 2 ^ 16 * min 65535 ue)))).raise Pg.SHM 10
      else s
    | none => s)

/-! PCIe (R369, R445). -/

/-- HOT_RESET (R445): the port of master 21 alone is reset; a hot reset reaches the device over its link, which trains anew, to the lanes and the
generation given (R35), and is up after it (log entry 10). -/
def execHotReset (lanes gen : Nat) (s : State) : Host.Outcome State Fault Refusal :=
  let t := s.portReset 21
  done s { t with host := { t.host with pcieUp := true, ep := { t.host.ep with lanes := lanes, gen := gen } } }

/-- PCIE_LINK_DOWN (R369): the port of master 21 is reset, and no MSI-X message is sent (R49). -/
def execPcieLinkDown (s : State) : Host.Outcome State Fault Refusal :=
  let t := s.portReset 21
  done s { t with host := { t.host with pcieUp := false } }

end Sys2Proof.Machine
end

