-- ==== Sys2Proof/Machine/Mules.lean ====
section
/-! DEFINITION. Chapter 13: what the mules' instructions do, and the commands of the mules. -/

namespace Sys2Proof.Machine

/-! Moves (R356 to R358). -/

/-- The fabric master whose port a mule uses (Table 14.1). -/
def mulePort (m : Nat) : Nat := if m < 64 then m / 4 else 16 + (m - 64) / 8

/-- How a MOVE lays its elements out: its mode, packing, sides and LEN. -/
structure Move where
  mode : Nat
  pack : Nat
  src : Side
  dst : Side
  len : Nat
  deriving DecidableEq, Repr

/-- The MOVE of an operation as it stands for a mule. -/
def State.moveOf (s : State) (m : Nat) : MuleOp → Option Move
  | .move mode pack scur scn dcur dcn sl0 sl1 dl0 dl1 src dst len =>
    some ⟨mode, pack, s.side m scur scn sl0 sl1 src false, s.side m dcur dcn dl0 dl1 dst true, len⟩
  | _ => none

/-- Bytes of an element on each side (R358). -/
def Move.srcBytes (x : Move) : Nat := if x.pack = 2 then 3 else 4
def Move.dstBytes (x : Move) : Nat := if x.pack = 1 then 3 else 4

/-- CH and SAMP of I2P and P2I. -/
def Move.chans (x : Move) : Nat := bitsN x.len 0 8
def Move.samps (x : Move) : Nat := bitsN x.len 8 16

/-- The elements of a MOVE (Table 13.4). -/
def Move.count (x : Move) : Nat := if x.mode = 0 then x.len else if x.mode = 3 then 32 * x.len else x.chans * x.samps

/-- The byte offsets of element `i` on the two sides: of an interleaved and a planar layout, element s × CH + c and c × SAMP + s. -/
def Move.srcOfs (x : Move) (i : Nat) : Nat := if x.mode = 2 then 4 * (i % x.chans * x.samps + i / x.chans) else x.srcBytes * i
def Move.dstOfs (x : Move) (i : Nat) : Nat := if x.mode = 1 then 4 * (i % x.chans * x.samps + i / x.chans) else x.dstBytes * i

/-- The fabric addresses of the bytes of element `i`. -/
def Move.srcAt (x : Move) (i : Nat) : List Nat := (List.range x.srcBytes).map fun b => x.src.at (x.srcOfs i + b)
def Move.dstAt (x : Move) (i : Nat) : List Nat := (List.range x.dstBytes).map fun b => x.dst.at (x.dstOfs i + b)

/-! Beats: the bytes of each 64-byte line that one side touches. -/

/-- A byte put in the beat of its line; the latest line stands first. -/
def beatPut (l : List (Nat × List (Option Byte))) (a : Nat) (v : Byte) : List (Nat × List (Option Byte)) :=
  let k := a / 64
  if l.any (·.1 == k) then l.map fun x => if x.1 = k then (k, setNth x.2 (a % 64) (some v)) else x
  else (k, setNth (List.replicate 64 none) (a % 64) (some v)) :: l

/-- The beats of bytes at their addresses, in the order of their first bytes. -/
def beatsOf (bytes : List (Nat × Byte)) : List (Nat × List (Option Byte)) := (bytes.foldl (fun l x => beatPut l x.1 x.2) []).reverse

/-- The beats that read a MOVE's source: the bytes stand for their addresses alone. -/
def Move.readBeats (x : Move) : List (Nat × List (Option Byte)) :=
  beatsOf ((List.range x.count).flatMap fun i => (x.srcAt i).map fun a => (a, 0))

/-- Whether a beat on the register bus is one aligned word, or reads the contact sheet whole (R372). -/
def regBeatOk (line : Nat) (d : List (Option Byte)) (write : Bool) : Bool :=
  let l := lanes d
  (l.1 % 4 == 0 && l.2.length == 4 && l.2.all (·.isSome)) || (!write && 64 * line == 0x40000080 && d.all (·.isSome))

/-- Whether a word of a memory that a beat touches, or writes in part, is known to be uncorrectable (R383, R384). -/
def State.badWord (s : State) (line : Nat) (d : List (Option Byte)) (write : Bool) : Bool :=
  (List.range 8).any fun i =>
    let w := (d.drop (8 * i)).take 8
    s.fab.bad.contains (s.place (64 * line) + 8 * i) && w.any (·.isSome) && !(write && w.all (·.isSome))

/-- Whether a beat of a mule gets an error response (R364, R372, R373, R383). -/
def State.beatFails (s : State) (write : Bool) (x : Nat × List (Option Byte)) : Bool :=
  let a := s.place (64 * x.1)
  let t := targetOf a
  t == 63 || (t == 33 && write) || s.darkAt a || (t == 32 && !regBeatOk x.1 x.2 write) || s.badWord x.1 x.2 write
    || (t == 35 && write && (!wholeFields (a % 0x1000000) x.2 || (decide (0x51000000 ≤ a) && s.bankLocked)))

/-- Whether a beat of a mule must wait for a hen or a lock (R372, R378). -/
def State.beatWaits (s : State) (m : Nat) (x : Nat × List (Option Byte)) : Bool := s.waits (mulePort m) (s.place (64 * x.1))

/-! Reading and writing elements. -/

/-- The bytes of an element read at their addresses, with what reading a register does. -/
def State.readEl (s : State) (m : Nat) (at_ : List Nat) : Bytes × State :=
  let a := s.place (at_.headD 0)
  if targetOf a = 32 then
    let r := s.regRead (8 + mulePort m) ((a - 0x40000000) / 0x1000) (a % 0x1000)
    (toLe 4 r.1.toNat, r.2)
  else if targetOf a = 35 ∧ 0x51000000 ≤ a ∧ s.dev.state = .refilling then
    (at_.map fun p => (if Config.freeBool s.freeCtr then mBytes bankD s.active (s.place p - 0x51000000) 1
      else mBytes bankD s.latent (s.place p - 0x51000000) 1).headD 0, s.tick1)
  else (at_.map fun p => (s.peek (s.place p) 1).headD 0, s)

/-- The elements `i`, `i + 1`, … of a MOVE's source. -/
def State.readEls (s : State) (m : Nat) (x : Move) (i : Nat) : Nat → List Bytes × State
  | 0 => ([], s)
  | n + 1 =>
    let r := s.readEl m (x.srcAt i)
    let q := State.readEls r.2 m x (i + 1) n
    (r.1 :: q.1, q.2)

/-- Bit `i` of destination word `b` is bit `b` of source word `i` (Table 13.4). -/
def transpose32 (l : List Nat) : List Nat :=
  (List.range 32).map fun b => ((List.range 32).map fun i => bitN (nth 0 l i) b * 2 ^ i).foldl (· + ·) 0

/-- Groups of 32 words transposed. -/
def transposeAll (l : List Nat) : Nat → List Nat
  | 0 => []
  | n + 1 => transpose32 (l.take 32) ++ transposeAll (l.drop 32) n

/-- The destination elements of a MOVE from its source elements. -/
def Move.convert (x : Move) (els : List Bytes) : List Bytes :=
  if x.mode = 3 then (transposeAll (els.map leNat) x.len).map (toLe 4)
  else if x.pack = 1 then els.map fun b => toLe 3 ((round24 (BitVec.ofNat 32 (leNat b))).toNat / 256)
  else if x.pack = 2 then els.map fun b => toLe 4 (256 * leNat b)
  else els

/-- The bytes of the destination with their addresses. -/
def Move.out (x : Move) (els : List Bytes) : List (Nat × Byte) :=
  ((List.range els.length).zip els).flatMap fun e => (x.dstAt e.1).zip e.2

/-- A write beat of a mule carried out. -/
def State.muleWrite (s : State) (m : Nat) (x : Nat × List (Option Byte)) : State :=
  let b : Beat := ⟨⟨mulePort m % 24, by omega⟩, 64 * x.1, 0, 0, .internal, some x.2, false, false, []⟩
  (s.writeBeat b x.2).1

/-- The beats of a MOVE's destination once its source is read, and the state after the reading. -/
def State.moveBeats (s : State) (m : Nat) (x : Move) : List (Nat × List (Option Byte)) × State :=
  let r := s.readEls m x 0 x.count
  (beatsOf (x.out (x.convert r.1)), r.2)

/-- The beats that a MOVE writes, without their data. -/
def Move.writeBeats (x : Move) : List (Nat × List (Option Byte)) :=
  beatsOf ((List.range x.count).flatMap fun i => (x.dstAt i).map fun a => (a, 0))

/-- The flocks whose hens a beat list touches (R366). -/
def State.beatFlocks (s : State) (l : List (Nat × List (Option Byte))) : List Nat :=
  l.filterMap fun x => let t := targetOf (s.place (64 * x.1))
                       if 36 ≤ t ∧ t < 52 then some (t - 36) else none

/-- Whether a MOVE goes through: no beat of it fails, and none must wait. -/
def State.moveReady (s : State) (m : Nat) (x : Move) : Bool :=
  !x.readBeats.any (s.beatFails false) && !x.writeBeats.any (s.beatFails true)
    && !x.readBeats.any (s.beatWaits m) && !x.writeBeats.any (s.beatWaits m)

/-- A cursor's OFS advanced by the bytes moved through it (R357). -/
def State.advanceCur (s : State) (m : Nat) (one : Bool) (bytes : Nat) : State :=
  let c := s.cursor m one
  let f := if one then R.MUL_CUR1_OFS_OFS (m / 8) (m % 8) else R.MUL_CUR0_OFS_OFS (m / 8) (m % 8)
  s.wr f ((c.2.2 + bytes) % c.2.1)

/-- The cursors of a MOVE advanced. -/
def State.advanceCurs (s : State) (m : Nat) (op : MuleOp) (x : Move) : State :=
  match op with
  | .move _ _ scur scn dcur dcn _ _ _ _ _ _ _ =>
    let s := if scur then s.advanceCur m scn (x.count * x.srcBytes) else s
    if dcur then s.advanceCur m dcn (x.count * x.dstBytes) else s
  | _ => s

/-- The page registers that show a MOVE's count and what follows it. -/
def MuleSt.moved (v : MuleSt) (bytes : Nat) (flocks : List Nat) : MuleSt :=
  { v with cnt := bytes % 2 ^ 32, tail := 0, used := (flocks ++ v.used).eraseDups }

/-- A MOVE of the given mode as the next instruction of mule `m`: every element is read, then every element written (log entry 29), and when the last
write is acknowledged the mule goes on. A MOVE that meets an error response is BUS_ERR's, one that must wait stays. -/
def doMove (mode m : Nat) (s : State) : State :=
  match s.muleNext m with
  | some op => match s.moveOf m op with
    | some x =>
      if x.mode = mode && s.moveReady m x then
        let r := s.moveBeats m x
        let t := r.1.foldl (fun s b => s.muleWrite m b) r.2
        let t := t.advanceCurs m op x
        t.setMule m ((t.mule m).moved (x.count * x.dstBytes) (s.beatFlocks (x.readBeats ++ x.writeBeats))).advance
      else s
    | none => s
  | none => s

/-! LOOP, WAIT, SIGNAL, JUMP and END (R359 to R362). -/

/-- LOOP (R359). -/
def doMuleLoop (m : Nat) (s : State) : State :=
  match s.muleNext m with
  | some (.loop inner body count ss ds) =>
    let v := s.mule m
    let first := v.pc + 16
    let past := first + 16 * body
    let v := { v with steps := v.steps + 1 }
    s.setMule m (
      if count = 0 then v.goto past
      else if inner then { v with pc := first, l1 := some ⟨first, past, 0, count, ss, ds⟩ }
      else { v with pc := first, l0 := some ⟨first, past, 0, count, ss, ds⟩ })
  | _ => s

/-- A mule that reaches a WAIT: it holds there, in FENCED where a fence holds it (R363, R366). -/
def State.reach (s : State) (m : Nat) : State :=
  let v := { s.mule m with steps := 0, waitBlk := s.block }
  if s.isFenced m then s.setMule m { v with st := .fenced } else s.setMule m { v with st := .wait, used := [] }

/-- A WAIT whose condition is met: the mule goes on. -/
def State.proceed (s : State) (m : Nat) : State :=
  let v := s.mule m
  s.setMule m ({ v with st := .run }.goto (v.pc + 16))

/-- The legal WAIT at which a mule stands: reached now, or held since before. -/
def State.waitAt (s : State) (m : Nat) : Option (Bool × MuleOp) :=
  let v := s.mule m
  match v.st, s.muleOp m with
  | .run, some op => if op.holds then some (true, op) else none
  | .wait, some op => if op.holds then some (false, op) else none
  | _, _ => none

/-- WAIT_BLOCK (R360): reached, or ended at its tick of the next block or after. -/
def doWaitBlock (m : Nat) (s : State) : State :=
  match s.waitAt m with
  | some (now, .waitBlock tick) =>
    let v := s.mule m
    if now then s.reach m
    else if decide (v.waitBlk + 1 < s.block) || (v.waitBlk + 1 == s.block && decide (tick ≤ s.tick)) then s.proceed m
    else s
  | _ => s

/-- WAIT_TL (R360). -/
def doWaitTl (m : Nat) (s : State) : State :=
  match s.waitAt m with
  | some (now, .waitTl t) =>
    if now then (if t ≤ s.tl then (s.setMule m { s.mule m with steps := 0 }).muleStop m 5 none else s.reach m)
    else if t ≤ s.tl then s.proceed m else s
  | _ => s

/-- The lowest-numbered mule that waits on a flag. -/
def State.firstWaiter (s : State) (f : Nat) : Option Nat :=
  (List.range 96).find? fun m => match s.waitAt m with
    | some (false, op) => op == .waitFlag f
    | _ => false

/-- A mule waiting on a set flag proceeds and clears it, the lowest-numbered of several. -/
def State.takeFlag (s : State) (m f : Nat) : State :=
  if s.flag f && s.firstWaiter f == some m then (s.clrFlag f).proceed m else s

/-- WAIT_FLAG (R360). -/
def doWaitFlag (m : Nat) (s : State) : State :=
  match s.waitAt m with
  | some (now, .waitFlag f) => if now then (s.reach m).takeFlag m f else s.takeFlag m f
  | _ => s

/-- SIGNAL FLAG (R361). -/
def doSignalFlag (m : Nat) (s : State) : State :=
  match s.muleNext m with
  | some (.signalFlag f) => (s.setFlag f).setMule m (s.mule m).advance
  | _ => s

/-- SIGNAL EVENT (R361). -/
def doSignalEvent (m : Nat) (s : State) : State :=
  match s.muleNext m with
  | some (.signalEvent v) => (s.setMule m { s.mule m with sig := v }.advance).raise (mulPage m) 10
  | _ => s

/-- SIGNAL RELEASE (R361): completion handed to the scheduler, whose own commands say what it does with it. -/
def doSignalRelease (m : Nat) (s : State) : State :=
  match s.muleNext m with
  | some (.signalRelease _) => s.setMule m (s.mule m).advance
  | _ => s

/-- JUMP (R362): it ends both levels. -/
def doMuleJump (m : Nat) (s : State) : State :=
  match s.muleNext m with
  | some (.jump a) => let v := s.mule m
                      s.setMule m { v with pc := a, steps := v.steps + 1, l0 := none, l1 := none }
  | _ => s

/-- END (R362): a fenced mule holds there (R366). -/
def doMuleEnd (m : Nat) (s : State) : State :=
  match s.muleNext m with
  | some .fin =>
    let v := { s.mule m with steps := 0 }
    if s.isFenced m then s.setMule m { v with st := .fenced }
    else
      let v := { v with st := .done, used := [], l0 := none, l1 := none }
      if isHostMule m then (s.setMule m v).raise (mulPage m) 8
      else s.setMule m { v with restart := some (s.block + 1) }
  | _ => s

/-! Stops (R355, R363, R364). -/

/-- Whether the count has reached MUL_BUDGET.N before an instruction that is neither WAIT nor END. -/
def State.runsAway (s : State) (m : Nat) : Bool :=
  let v := s.mule m
  decide (s.rd (R.MUL_BUDGET_N (m / 8)) ≤ v.steps) && match s.muleAt v.pc with
    | some op => !op.holds
    | none => true

/-- RUNAWAY (R363). -/
def doRunaway (m : Nat) (served : Option JobRef) (s : State) : State :=
  if (s.mule m).st == .run && s.runsAway m then s.muleStop m 1 served else s

/-- ILLEGAL (R355). -/
def doIllegal (m : Nat) (served : Option JobRef) (s : State) : State :=
  if (s.mule m).st == .run && !s.runsAway m && (s.muleOp m).isNone then s.muleStop m 4 served else s

/-- The beats of a destination written before a stop: those acknowledged from the first byte on without a gap, and of the seven after the first that
was not those of MUL_TAIL. The state, and the bytes without a gap. -/
def State.partialWrite (s : State) (m acked tail : Nat) : List (Nat × List (Option Byte)) → Nat → State × Nat
  | [], n => (s, n)
  | b :: t, n =>
    let k := (b.2.filter (·.isSome)).length
    if n + k ≤ acked then State.partialWrite (s.muleWrite m b) m acked tail t (n + k)
    else (((List.range 7).zip t).foldl (fun s x => if bitN tail x.1 = 1 then s.muleWrite m x.2 else s) s, n)

/-- Whether an address belongs to a MOVE's source, and not to its destination. -/
def Move.reads (x : Move) (a : Nat) : Bool := x.readBeats.any (·.1 == a / 64) && !x.writeBeats.any (·.1 == a / 64)

/-- The error that a target recorded as it answered an access (R373, R383). -/
def State.accessError (s : State) (port a : Nat) (write : Bool) : State :=
  let p := s.place a
  match eccMem (targetOf p) with
  | some mem => s.ueFound mem (p / 8 * 8) port
  | none => if targetOf p = 63 then s.decodeErr port a 0 write else s

/-- A fabric access that stops a mule (R364): `acked` bytes of the destination and the beats of `tail` stand written. A fault of the fetch leaves MUL_CNT
and MUL_TAIL at zero. -/
def State.accessStop (s : State) (m cause : Nat) (addr : Nat) (acked tail : Nat) (served : Option JobRef) : State :=
  let v := s.mule m
  let rec_ (s : State) (write : Bool) : State := if cause = 3 then s.accessError (mulePort m) addr write else s
  let fetch := ((rec_ s false).setMule m { v with cnt := 0, tail := 0, errAddr := addr }).muleStop m cause served
  match s.muleNext m with
  | some op => match s.moveOf m op with
    | some x =>
      if addr / 16 = v.pc / 16 && !x.readBeats.any (·.1 == addr / 64) && !x.writeBeats.any (·.1 == addr / 64) then fetch
      else
        let r := s.moveBeats m x
        let p := r.2.partialWrite m acked tail r.1 0
        let t := rec_ p.1 (!x.reads addr)
        (t.setMule m { t.mule m with cnt := p.2 % 2 ^ 32, tail := tail, errAddr := addr }).muleStop m cause served
    | none => fetch
  | none => fetch

/-- TIMEOUT (R364). -/
def doMuleTimeout (m addr acked tail : Nat) (served : Option JobRef) (s : State) : State :=
  if (s.mule m).st == .run then s.accessStop m 2 addr acked tail served else s

/-- BUS_ERR (R364). -/
def doBusErr (m addr acked tail : Nat) (served : Option JobRef) (s : State) : State :=
  if (s.mule m).st == .run then s.accessStop m 3 addr acked tail served else s

/-- MULE_RESTART (R365): at a block boundary. -/
def doMuleRestart (m : Nat) (s : State) : State :=
  match (s.mule m).restart with
  | some b => if decide (b ≤ s.block) && !s.bndDue then s.muleDevStart m else s
  | none => s

/-! The commands. -/

/-- START (R367): a write of MUL_CTRL.START. -/
def execMuleStart (path : Path) (mule : Fin 96) (s : State) : Host.Outcome State Fault Refusal :=
  done s (s.hostReg (onPath path.code) (mulPage mule.val) (0x100 + 64 * (mule.val % 8)) 1)

/-- STOP (R367): a write of MUL_CTRL.STOP. -/
def execMuleStop (path : Path) (mule : Fin 96) (s : State) : Host.Outcome State Fault Refusal :=
  done s (s.hostReg (onPath path.code) (mulPage mule.val) (0x100 + 64 * (mule.val % 8)) 2)

/-- MOVE_LINEAR (R356). -/
def execMoveLinear (mule : Fin 96) (s : State) : Host.Outcome State Fault Refusal := done s (doMove 0 mule.val s)

/-- MOVE_I2P (R356). -/
def execMoveI2p (mule : Fin 96) (s : State) : Host.Outcome State Fault Refusal := done s (doMove 1 mule.val s)

/-- MOVE_P2I (R356). -/
def execMoveP2i (mule : Fin 96) (s : State) : Host.Outcome State Fault Refusal := done s (doMove 2 mule.val s)

/-- MOVE_TRANSPOSE (R356). -/
def execMoveTranspose (mule : Fin 96) (s : State) : Host.Outcome State Fault Refusal := done s (doMove 3 mule.val s)

/-- MULE_LOOP (R359). -/
def execMuleLoop (mule : Fin 96) (s : State) : Host.Outcome State Fault Refusal := done s (doMuleLoop mule.val s)

/-- WAIT_BLOCK (R360). -/
def execWaitBlock (mule : Fin 96) (s : State) : Host.Outcome State Fault Refusal := done s (doWaitBlock mule.val s)

/-- WAIT_TL (R360). -/
def execWaitTl (mule : Fin 96) (s : State) : Host.Outcome State Fault Refusal := done s (doWaitTl mule.val s)

/-- WAIT_FLAG (R360). -/
def execWaitFlag (mule : Fin 96) (s : State) : Host.Outcome State Fault Refusal := done s (doWaitFlag mule.val s)

/-- SIGNAL_FLAG (R361). -/
def execSignalFlag (mule : Fin 96) (s : State) : Host.Outcome State Fault Refusal := done s (doSignalFlag mule.val s)

/-- SIGNAL_EVENT (R361). -/
def execSignalEvent (mule : Fin 96) (s : State) : Host.Outcome State Fault Refusal := done s (doSignalEvent mule.val s)

/-- SIGNAL_RELEASE (R361). -/
def execSignalRelease (mule : Fin 96) (s : State) : Host.Outcome State Fault Refusal := done s (doSignalRelease mule.val s)

/-- JUMP (R362). -/
def execMuleJump (mule : Fin 96) (s : State) : Host.Outcome State Fault Refusal := done s (doMuleJump mule.val s)

/-- END (R362). -/
def execMuleEnd (mule : Fin 96) (s : State) : Host.Outcome State Fault Refusal := done s (doMuleEnd mule.val s)

/-- ILLEGAL (R355). -/
def execMuleIllegal (mule : Fin 96) (served : Option JobRef) (s : State) : Host.Outcome State Fault Refusal :=
  done s (doIllegal mule.val served s)

/-- RUNAWAY (R363). -/
def execRunaway (mule : Fin 96) (served : Option JobRef) (s : State) : Host.Outcome State Fault Refusal :=
  done s (doRunaway mule.val served s)

/-- TIMEOUT (R364). -/
def execMuleTimeout (mule : Fin 96) (addr : Word) (acked : Nat) (tail : BitVec 7) (served : Option JobRef) (s : State) :
    Host.Outcome State Fault Refusal :=
  done s (doMuleTimeout mule.val addr.toNat acked tail.toNat served s)

/-- BUS_ERR (R364). -/
def execBusErr (mule : Fin 96) (addr : Word) (acked : Nat) (tail : BitVec 7) (served : Option JobRef) (s : State) :
    Host.Outcome State Fault Refusal :=
  done s (doBusErr mule.val addr.toNat acked tail.toNat served s)

/-- MULE_RESTART (R365). -/
def execMuleRestart (mule : Fin 96) (s : State) : Host.Outcome State Fault Refusal := done s (doMuleRestart mule.val s)

/-- MUL_HFLAG_SET (R361). -/
def execMulHflagSet (path : Path) (page : Fin 12) (value : Word) (s : State) : Host.Outcome State Fault Refusal :=
  done s (s.hostReg (onPath path.code) (Pg.MUL page.val) 0x04C value)

/-- MUL_HFLAG_CLR (R361): `signalled` are the host flags that mules set in the same cycle. -/
def execMulHflagClr (path : Path) (page : Fin 12) (value signalled : Word) (s : State) : Host.Outcome State Fault Refusal :=
  done s (s.hostReg { onPath path.code with signalled := signalled.toNat } (Pg.MUL page.val) 0x050 value)

/-- FENCE_TIMEOUT (R366). -/
def execFenceTimeout (domain : Domain) (s : State) : Host.Outcome State Fault Refusal := done s (doFenceTimeout domain s)

/-- DOMAIN_POWER_DOWN (R366). -/
def execDomainPowerDown (domain : Domain) (s : State) : Host.Outcome State Fault Refusal := done s (doDomainPowerDown domain s)

end Sys2Proof.Machine
end

