-- ==== Sys2Proof/Machine/Timeline.lean ====
section
/-! DEFINITION. Chapter 03 and the work of a block boundary: the sample period (R7, R58), the commit point (R78), what every page does at a
boundary (R8), and the meanings of the scheduled actions and of develop (R59 to R73). -/

namespace Sys2Proof.Machine

/-! Work that stands at a TL (log entry 1). -/

/-- A slot's action has reached its TL (R59). -/
def State.slotDue (s : State) (type n : Nat) : Bool := (s.slot n).state == .armed && (s.slot n).type == type && decide ((s.slot n).tl ≤ s.tl)

/-- An armed DEVELOP has reached its TL and is not live yet. -/
def State.developDue (s : State) : Bool := s.dev.state == .armed && !s.dev.draining && decide (s.dev.t ≤ s.tl)

/-- A TIMED_WRITE is due in a slot below `n` (R61). -/
def State.writeDue (s : State) (n : Nat) : Bool := (List.range n).any (s.slotDue 2)

/-- A stage of a drain, or its end, is due (Table 3.5, R71). -/
def State.stageDue (s : State) : Bool :=
  s.dev.draining &&
    ((decide (s.dev.jobsDone ≤ s.dev.depth) && decide (s.dev.t + 8 * (1 + s.dev.jobsDone) ≤ s.tl))
      || (decide (s.dev.egressDone ≤ s.dev.depth) && decide (s.dev.t + 8 * (2 + s.dev.egressDone) ≤ s.tl))
      || (decide (s.dev.depth < s.dev.jobsDone) && decide (s.dev.depth < s.dev.egressDone)))

/-- Work of the present TL that its sample must hold: while any is left, no new sample period begins. -/
def State.workDue (s : State) : Bool :=
  s.bndDue || s.directDue || s.developDue || s.stageDue || s.applyDue || (List.range 32).any (s.slotDue 2) || (List.range 32).any (s.slotDue 3)

/-- One tick passes; the last tick of a sample stands until the next sample period begins (log entry 1). -/
def State.idleTick (s : State) : State := if s.clk % 128 = 127 then s else { s with clk := s.clk + 1 }

/-- How far the PTP clock goes while its oscillator counts a time in 2^-16 ns: adj is applied to it (R257). -/
def State.ptpStep (s : State) (x : Nat) : Int := x + x * s.ptp.adjNow / (65536 * 1000000000)

/-- SAMPLE_PERIOD (R7, R58, R257): `ptpAdvance` is what the oscillator of the PTP clock counts in the period, in 2^-16 ns. TL advances in the modes that count it; in DARK the blocks go on without it. -/
def doSamplePeriod (ptpAdvance : Nat) (s : State) : State :=
  if s.mode.cur.counts && s.workDue then s
  else
    let s := { s with clk := (s.clk / 128 + 1) * 128, ptp := { s.ptp with time := s.ptp.time + s.ptpStep ptpAdvance } }
    if s.mode.cur.counts then
      let s := { s with tl := s.tl + 1, smp := s.smp + 1 }
      ({ s with bndDue := s.smp % 8 == 0 }).feedMuteAt.popRings
    else { s with bndDue := s.mode.cur == .dark && s.clk % 1024 == 0 }

/-! The commit point (R78). The functions from `closeJobs` to `commitTables` act in the block that ends. -/

/-- Every run that has not ended is late or abandoned by now (R93, R98). -/
def State.closeJobs (s : State) : State :=
  let left := s.running.filter fun k =>
    let j := s.job k
    j.rerun || j.phase == .queued || j.phase == .running || (j.phase == .waiting && s.enabled Pg.SCH)
  let s := (left.foldl State.giveUp s).sliceCheck
  s.setTwin { s.twin with slice := [] }

/-- Whether the mule of a bus's lines carries the line (R365). -/
def State.lineServed (s : State) (bus : Nat) : Bool := s.muleServes (80 + Config.lineMule bus % 8)

/-- A block entered in a delay line (R159). -/
def State.appendDly (s : State) (b : Mem) (bus blk : Nat) (c : Chan) : State :=
  let len := dlyLen b bus
  if len = 0 then s else
    let base := shmOff (s.getW A.MIX_DLY_BASE).toNat + 192 * dlyBase b bus
    let n := len / 8 + 2
    let ok := s.lineServed bus
    let old := tget noLine s.jobs.dly bus
    let shm := (LineSt.passed old base len n blk).foldl (fun m k => putDly m base len (8 * k) chan0) s.shm
    { s with shm := if ok then putDly shm base len (8 * blk) c else shm
             jobs := { s.jobs with dly := tset noLine s.jobs.dly bus (some (LineSt.append old base len n blk (c.taint || !ok))) } }

/-- A block entered in a FIR history line (R157); a FIR_LEN changed in its place keeps what the line holds. -/
def State.appendFir (s : State) (b : Mem) (bus blk : Nat) (c : Chan) : State :=
  if firLen b bus = 0 then s else
    let len := firCap (firLen b bus)
    let base := shmOff (s.getW A.MIX_FIR_BASE).toNat + 64 * firHist b bus
    let n := len / 8 + 1
    let ok := s.lineServed bus
    let old := tget noLine s.jobs.fir bus
    let moved := match old with
      | some l => if l.base = base ∧ l.len ≠ len then some l else none
      | none => none
    let shm := match moved with
      | some l => moveFir s.shm base l.len len l
      | none => s.shm
    let old := match moved with
      | some l => some { l with len := len }
      | none => old
    let shm := (LineSt.passed old base len n blk).foldl (fun m k => putFir m base len (8 * k) chan0) shm
    { s with shm := if ok then putFir shm base len (8 * blk) c else shm
             jobs := { s.jobs with fir := tset noLine s.jobs.fir bus (some (LineSt.append old base len n blk (c.taint || !ok))) } }

/-- The lines of an instance's busses take its input block, whether or not its run was on time. -/
def State.appendLines (s : State) (k : Nat) : State :=
  let b := s.bankOf k
  let j := keyNum k
  match s.ingestOf k with
  | none => s
  | some blk =>
    let ins := s.inputsOf k
    (List.range (numBus b j)).foldl (fun s i =>
      let c := ((ins[i]?).map (·.2)).getD chan0
      match clsOf b j with
      | 3 => s.appendDly b (firstBus b j + i) blk c
      | 4 => s.appendFir b (firstBus b j + i) blk c
      | _ => s) s

/-- Lines of busses that no instance of the block serves hold nothing (R160). -/
def State.dropLines (s : State) (ks : List Nat) : State :=
  let has (cls bus : Nat) : Bool := ks.any fun k => serves (s.bankOf k) cls (keyNum k) bus
  { s with jobs := { s.jobs with dly := s.jobs.dly.filter fun x => has 3 x.1, fir := s.jobs.fir.filter fun x => has 4 x.1 } }

/-- The ECH that lie in the gap of R70: written in both graphs, and by neither in this block. -/
def State.gapEch (s : State) : List Nat :=
  if !s.dev.draining then [] else
    ((Sys2Proof.Machine.live s.active).flatMap fun j => ((outputs s.active j).filter fun x => x.1 == 0).map (·.2)).filter fun e =>
      match writerOf s.active 0 e, writerOf s.latent 0 e with
      | some a, some b => !s.takesPart a && !s.takesPart (jobKey true b)
      | _, _ => false

/-- Egress takes the block's ECH (R78); the gap of R70 is concealed, and what follows a copied bank is tainted (R305). -/
def State.commitEch (s : State) : State :=
  let g := s.jobs
  let next := s.gapEch.foldl (fun m e => tset chanD m e (concealed (tget chanD g.ech e))) g.echNext
  let next := if s.tlBlock < s.twin.taintTo then (List.range 1216).foldl (fun m e => tmod chanD m e fun c => { c with taint := true }) next else next
  { s with jobs := { g with ech := next, echNext := [] }
           audio := { s.audio with echPast := (g.ech :: s.audio.echPast).take 6, echLive := (s.mode.cur.plays :: s.audio.echLive).take 16 } }

/-- The internal returns of the block become readable: each is the block of its writer's ingest block (R24, R76); during a copy those of a writer that is not
installed yet are tainted (R307). -/
def State.commitReturns (s : State) : State :=
  let put (s : State) (x : Nat × Chan) : State :=
    let s := { s with jobs := { s.jobs with retPrev := tset chanD s.jobs.retPrev (keyNum x.1) x.2 } }
    let b := s.bankOf x.1
    match writerOf b 2 (keyNum x.1) with
    | some w => match s.ingestOf (jobKey (keyOld x.1) w) with
      | some n => s.setIch n (keyNum x.1) (if s.twin.copy = .none ∨ s.twin.installed.contains w then x.2 else { x.2 with taint := true })
      | none => s
    | none => s
  let all := s.jobs.retNext
  let s := { s with jobs := { s.jobs with retPrev := [], retNext := [] } }
  ((all.filter fun x => keyOld x.1) ++ all.filter fun x => !keyOld x.1).foldl put s

/-- The state of every instance whose run ended by its deadline becomes current (R87). -/
def State.commitInst (s : State) (k : Nat) : State :=
  if (s.job k).onTime then
    let i := tget inst0 s.jobs.inst k
    let stock := match tget noStock s.jobs.stockNext k with
      | some st => tset stock0 s.jobs.stock k st
      | none => s.jobs.stock
    { s with jobs := { s.jobs with inst := tset inst0 s.jobs.inst k ⟨!i.parity, false⟩, stock := stock } }
  else s

/-- The flocks' figures of the block (FL_QUEUE, FL_BUSY). -/
def State.closeFlock (s : State) (f : Nat) : State :=
  let v := s.flock f
  s.setFlock f { v with lastPeak := v.peak, peak := 0, lastBusy := v.busy, busy := 0,
                        busyMax := slideIn (fun a b => decide (b < a)) s.block (busyShare v.busy) v.busyMax }

/-- The commit point, in the block that ends: runs, lines, egress, states, returns, and the tables of the block. -/
def State.commitBlock (s : State) : State :=
  let s := s.closeJobs
  let ks := s.running
  let s := ks.foldl State.appendLines s
  let s := s.dropLines ks
  let s := ks.foldl State.commitInst s.commitEch
  let s := s.commitReturns
  let s := (List.range 16).foldl State.closeFlock s
  { s with jobs := { s.jobs with jobs := [], queues := [], stockNext := [], linkPrev := s.jobs.links, links := [] } }

/-- The commit point (R78) seen from the boundary: nothing where no block has ended. -/
def State.commitPoint (s : State) : State :=
  if s.smp < 8 then s else
    let t := ({ s with smp := s.smp - 8, tl := s.tl - 8 }).commitBlock
    ({ t with smp := s.smp, tl := s.tl }).commitMeters.noteTaints

/-! The boundary (R8). -/

/-- The ingest block that has just been completed (R75, R172, R183, R236), and the column of the block after next cleared. -/
def State.ingestBlock (s : State) : State :=
  let s := if s.block = 0 then s else
    let n := s.block - 1
    ((s.ingestGens n).ingestPins n).ingestStreams n
  let c := (s.block + 1) % 32
  { s with jobs := { s.jobs with ich := s.jobs.ich.filter fun x => x.1 / 2048 != c } }

/-- Settings that act from a block boundary come into force (R153, R223). -/
def State.takeSettings (s : State) : State :=
  { s.ethTake with inForce := tset resetWord s.ethTake.inForce A.MIX_STEP (s.getW A.MIX_STEP) }

/-- The bank that a resynchronisation copied is taken whole (R305). -/
def State.takeCopied (s : State) : State :=
  match s.twin.takeAt with
  | some b =>
    if b ≤ s.tlBlock then
      (s.setTwin { s.twin with takeAt := none }).takeBank
    else s
  | none => s

/-- What the twin unit does at a boundary (R295, R296, R301 to R308). -/
def State.twinBoundary (s : State) : State :=
  let lead := s.ref.leader
  let s := s.boundaryMsg
  let s := { s with ref := { s.ref with timing := s.ref.heard7, heard7 := false } }
  let s := if s.twin.joining && lead then { s with ref := { s.ref with leader := true } } else s
  let s := if s.twin.bad then (s.setTwin { s.twin with bad := false }).mismatch else s
  let s := s.takeCopied.giveStep.giveRejoin.sendBlock
  s.setTwin { s.twin with bankA := s.active, bankL := s.latent }

/-- The reference is selected (R268), TL takes PTP's count where PTP has just been (R57, R58), and the loop compares (R285). -/
def State.selectRef (s : State) : State :=
  let r := s.refSelect
  (if r.2 then r.1.ptpSelected else r.1).refLoop

/-- Flocks asked to gate stop taking jobs, and their mules are fenced (R102, R366). -/
def State.gateFlocks (s : State) : State :=
  (List.range 16).foldl (fun s f =>
    let v := s.flock f
    if v.gateReq then (s.setFlock f { v with gateReq := false, taking := false, fencing := true }).fence f else s) s

/-- BLOCK_BOUNDARY (R8): once at each boundary; in DARK only the ring managers act (R226). -/
def doBlockBoundary (s : State) : State :=
  if !s.bndDue then s
  else if s.mode.cur == .dark then { s with bndDue := false }.ringChecks
  else
    let s := s.commitPoint.measureLevels.ingestBlock.takeSettings.twinBoundary
    let s := s.selectRef.netHeartbeat.ringChecks.psBoundary.gateFlocks
    { s with bndDue := false }

/-! Scheduled actions. -/

/-- The word that a TIMED_WRITE writes: the schedulable fields from its data, the others as they stand (R62). -/
def timedWord (d : RegDesc) (old data : Nat) : Nat :=
  (d.flds.filter (·.sched)).foldl (fun w f => setBitsN w f.lo f.w (bitsN data f.lo f.w)) old

/-- TIMED_WRITE (R61, R62): with the path code of the arming path and under no page key. -/
def doTimedWrite (n : Nat) (s : State) : State :=
  let v := s.slot n
  if s.slotDue 2 n && !s.bndDue && !s.developDue && !s.writeDue n then
    let a := v.addr.toNat
    let page := (a - 0x40000000) / 0x1000
    let off := a % 0x1000
    let s := match findReg page off with
      | some d => s.wordWrite (onPath v.path) page off (BitVec.ofNat 32 (timedWord d (s.getW a).toNat v.data.toNat))
      | none => s
    (s.setSlot n { v with state := .done }).raise Pg.TL 8
  else s

/-- TIMER (R59, R61): after the DEVELOP and the TIMED_WRITEs of the same TL. -/
def doTimerEvent (n : Nat) (s : State) : State := if s.developDue || s.writeDue 32 then s else doTimer n s

/-! Meanings. -/

/-- SAMPLE_PERIOD (R57). -/
def execSamplePeriod (ptpAdvance : Nat) (s : State) : Host.Outcome State Fault Refusal := done s (doSamplePeriod ptpAdvance s)

/-- BLOCK_BOUNDARY (R8). -/
def execBlockBoundary (s : State) : Host.Outcome State Fault Refusal := done s (doBlockBoundary s)

/-- ACT_ARM (R59): a write of TL_ACT_CTRL with ARM. -/
def execActArm (path : Path) (slot : Fin 32) (value : Word) (s : State) : Host.Outcome State Fault Refusal :=
  done s (s.hostReg (onPath path.code) Pg.TL (actOff slot.val) (value ||| 0x10))

/-- ACT_CANCEL (R63): a write of TL_ACT_CTRL with CANCEL. -/
def execActCancel (path : Path) (slot : Fin 32) (value : Word) (s : State) : Host.Outcome State Fault Refusal :=
  done s (s.hostReg (onPath path.code) Pg.TL (actOff slot.val) (value ||| 0x20))

/-- DEVELOP_CHECK_DONE (R67). -/
def execDevelopCheckDone (s : State) : Host.Outcome State Fault Refusal := done s (doDevelopCheckDone s)

/-- DEVELOP (R68). -/
def execDevelop (s : State) : Host.Outcome State Fault Refusal := done s (doDevelop s)

/-- TIMED_WRITE (R62). -/
def execTimedWrite (slot : Fin 32) (s : State) : Host.Outcome State Fault Refusal := done s (doTimedWrite slot.val s)

/-- TIMER (R59). -/
def execTimer (slot : Fin 32) (s : State) : Host.Outcome State Fault Refusal := done s (doTimerEvent slot.val s)

/-- STAGE_SWITCH (R68). -/
def execStageSwitch (stage : Stage) (s : State) : Host.Outcome State Fault Refusal := done s (doStageSwitch stage s)

/-- DRAIN_END (R71). -/
def execDrainEnd (s : State) : Host.Outcome State Fault Refusal := done s (doDrainEnd s)

/-- REFILL (R71): a write of TL_DEV_CTRL with REFILL. -/
def execRefill (path : Path) (value : Word) (s : State) : Host.Outcome State Fault Refusal :=
  done s (s.hostReg (onPath path.code) Pg.TL 0x060 (value ||| 2))

/-- REFILL_DONE (R71). -/
def execRefillDone (s : State) : Host.Outcome State Fault Refusal := done s (doRefillDone s)

end Sys2Proof.Machine
end

