-- ==== Sys2Proof/Machine/AudioCmds.lean ====
section
/-! DEFINITION. The commands of chapters 06 and 07: crossfades, meters, converters and serial ports. -/

namespace Sys2Proof.Machine

/-! Mixer and converters. -/

/-- CROSSFADE_END (R162). -/
def execCrossfadeEnd (bus : Fin 1024) (s : State) : Host.Outcome State Fault Refusal := done s (doCrossfadeEnd bus.val s)

/-- MIX_MTR_CLR (R161): a write of the register. -/
def execMixMtrClr (path : Path) (value : Word) (s : State) : Host.Outcome State Fault Refusal :=
  done s (s.hostReg (onPath path.code) Pg.MIX 0x090 value)

/-- LOCKED (R170). -/
def execLocked (conv : Fin 256) (ratio : Word) (s : State) : Host.Outcome State Fault Refusal := done s (doLocked conv.val ratio s)

/-- LOCK_LOST (R170). -/
def execLockLost (conv : Fin 256) (outOfRange : Bool) (s : State) : Host.Outcome State Fault Refusal := done s (doLockLost conv.val outOfRange s)

/-! Serial ports. -/

/-- SERIAL_FRAME (R175). -/
def execSerialFrame (group : Fin 8) (bits : List (List Bool)) (bclks : Nat) (s : State) : Host.Outcome State Fault Refusal :=
  done s (doSerialFrame group.val bits bclks s)

/-- BIPHASE_FRAME (R178). -/
def execBiphaseFrame (group : Fin 8) (lane : Fin 8) (sub1 sub2 : Subframe) (s : State) : Host.Outcome State Fault Refusal :=
  done s (doBiphaseFrame group.val lane.val sub1 sub2 s)

/-- LANE_LOCK (R178). -/
def execLaneLock (group : Fin 8) (lane : Fin 8) (s : State) : Host.Outcome State Fault Refusal := done s (doLaneLock group.val lane.val s)

/-- CS_NEW (R179). -/
def execCsNew (group : Fin 8) (lane : Fin 8) (s : State) : Host.Outcome State Fault Refusal := done s (doCsNew group.val lane.val s)

/-- FWIN_WINDOW_END (R184). -/
def execFwinWindowEnd (group : Fin 8) (mediaCycles : Nat) (s : State) : Host.Outcome State Fault Refusal :=
  done s (doFwinWindowEnd group.val mediaCycles s)

/-- CLK_LOST (R184, R185). -/
def execClkLost (group : Fin 8) (s : State) : Host.Outcome State Fault Refusal := done s (doClkLost group.val s)

/-- CLK_OK (R186). -/
def execClkOk (group : Fin 8) (s : State) : Host.Outcome State Fault Refusal := done s (doClkOk group.val s)

/-- SAPG_APPLY (R192): a write of 1 to SAPG_APPLY.NEXT. -/
def execSapgApply (path : Path) (group : Fin 8) (s : State) : Host.Outcome State Fault Refusal :=
  done s (s.hostReg (onPath path.code) (Pg.SAPG group.val) 0x058 1)

/-- APPLIED (R192). -/
def execApplied (group : Fin 8) (s : State) : Host.Outcome State Fault Refusal := done s (doApplied group.val s)

/-- SLIP (R195). -/
def execSlip (group : Fin 8) (s : State) : Host.Outcome State Fault Refusal := done s (doSlip group.val s)

/-- SAPG_ENABLE_WRITE (R197): a write of SAPG CTRL. -/
def execSapgEnableWrite (path : Path) (group : Fin 8) (value : Word) (s : State) : Host.Outcome State Fault Refusal :=
  done s (s.hostReg (onPath path.code) (Pg.SAPG group.val) 0x008 value)

/-- BIPHASE_OUTPUT_FRAME (R181). -/
def execBiphaseOutputFrame (group : Fin 8) (lane : Fin 8) (s : State) : Host.Outcome State Fault Refusal :=
  done s (doBiphaseOutputFrame group.val lane.val s)

end Sys2Proof.Machine
end

