-- ==== Sys2Proof/Machine/Ptp.lean ====
section
/-! DEFINITION. The PTP messages that the device sends (R253 to R255, R260), and the transmission of stored frames (R215), which timestamps
them. The octets of a message are IEEE 1588-2019's and IEEE 802.1AS's (PRESUMED, log entry 46). -/

namespace Sys2Proof.Machine

/-! Messages. -/

/-- A timestamp of a PTP message, from a time in ns. -/
def ptpStamp (ns : Int) : Bytes := toBe 6 (unsignedN 48 (ns / 1000000000)) ++ toBe 4 (ns % 1000000000).toNat

/-- A PTP message: type, flags, correctionField, the sending port, sequence number, logMessageInterval, and its body. -/
def State.ptpMsg (s : State) (type flags corr port seq log : Nat) (body : Bytes) : Bytes :=
  let sdo := if s.force R.PTP_CFG_PROFILE = 1 then 0 else 0x10
  toBe 1 (sdo + type) ++ toBe 1 0x12 ++ toBe 2 (34 + body.length) ++ toBe 1 (s.force R.PTP_CFG_DOMAIN) ++ toBe 1 0 ++ toBe 2 flags
    ++ toBe 8 corr ++ toBe 4 0 ++ toBe 10 (s.ptpId port) ++ toBe 2 seq ++ toBe 1 0 ++ toBe 1 log ++ body

/-- logMessageInterval of a field of PTP_INTV. -/
def logMsgInterval (k : Nat) : Nat := unsignedN 8 (signedN 4 k)

/-- A PTP message sent on one external port, untagged, in queue 7 (log entry 46), over the transport of Table 10.1; link delay messages always over
Ethernet. -/
def State.sendPtp (s : State) (p type : Nat) (msg : Bytes) : State :=
  let h : Hdr := if s.force R.PTP_CFG_PROFILE = 1 && type != 2 && type != 3 && type != 10 then
      ⟨0x01005E000181, s.mac, none, 0x0800, s.ipUdp 0xE0000181 (if type < 8 then 319 else 320) msg⟩
    else ⟨0x0180C200000E, s.mac, none, 0x88F7, msg⟩
  s.store p ⟨buildFrame h none, 7, none, 4⟩

/-- The next sequence number taken. -/
def State.nextPtpSeq (s : State) : State := { s with ptp := { s.ptp with seqNo := (s.ptp.seqNo + 1) % 65536 } }

/-- Whether a periodic message may go: it has not yet gone, or its interval has passed. -/
def State.ptpDue (s : State) (k intv : Nat) : Bool :=
  match tget noSent s.ptp.sentAt k with
  | some t => decide (t + intvTicks intv ≤ s.clk)
  | none => true

/-- A periodic message goes now. -/
def State.ptpGone (s : State) (k : Nat) : State := { s with ptp := { s.ptp with sentAt := tset noSent s.ptp.sentAt k (some s.clk) } }.nextPtpSeq

/-- Whether the ordinary clock acts as master: its page is enabled, and its role allows it (R256). -/
def State.serves (s : State) : Bool := s.enabled Pg.PTP && s.ptpState == 4 && s.ptpRole == 2 && s.mode.cur != .dark

/-- A message sent on every external port whose link is up. -/
def State.toPorts (s : State) (f : State → Nat → State) : State :=
  (List.range 4).foldl (fun s p => if s.linkUp p then f s p else s) s

/-- SYNC_SEND (R253): as master, on every port whose link is up; two-step under profile 0. The egress timestamp of each port goes into its own
one-step Sync or its own Follow_Up when the Sync leaves (R255). -/
def doSyncSend (s : State) : State :=
  let k := s.rd R.PTP_INTV_SYNC
  if s.serves && s.ptpDue 5 k then
    (s.ptpGone 5).toPorts fun s p =>
      s.sendPtp p 0 (s.ptpMsg 0 (if s.force R.PTP_CFG_PROFILE = 1 then 0x0008 else 0x0208) 0 1 s.ptp.seqNo (logMsgInterval k) (List.replicate 10 0))
  else s

/-- The body of an Announce of the device, with the path trace of IEEE 802.1AS under profile 0. -/
def State.annBody (s : State) : Bytes :=
  let a := s.ownAnn
  List.replicate 10 0 ++ toBe 2 0 ++ toBe 1 0 ++ toBe 1 a.prio1 ++ toBe 2 a.gmQuality ++ toBe 2 a.gmVariance ++ toBe 1 a.prio2 ++ toBe 8 a.gmId
    ++ toBe 2 0 ++ toBe 1 0xA0 ++ (if s.force R.PTP_CFG_PROFILE = 1 then [] else toBe 2 8 ++ toBe 2 8 ++ toBe 8 a.gmId)

/-- Whether a master-capable port has waited the Announce timeout without hearing a master. -/
def State.annWaited (s : State) : Bool :=
  s.enabled Pg.PTP && s.ptpRole == 2 && (s.ptpState == 1 || s.ptpState == 5) && decide (s.ptp.since + s.annTmo ≤ s.clk)
    && s.ptp.foreign.all fun f => decide (f.last + s.annTmo ≤ s.clk)

/-- ANNOUNCE_SEND (R260): as grandmaster, with the output quality; a master-capable port that has heard no master for the Announce timeout becomes
master first. -/
def doAnnounceSend (s : State) : State :=
  let k := s.rd R.PTP_INTV_ANN
  let s := if s.annWaited then { s with ptp := { s.ptp with foreign := [], parent := none } }.bmca true else s
  if s.serves && s.ptpDue 6 k then
    ((s.ptpGone 6).showGm s.ownAnn).toPorts fun s p => s.sendPtp p 11 (s.ptpMsg 11 0x0008 0 1 s.ptp.seqNo (logMsgInterval k) s.annBody)
  else s

/-- DELAY_REQ_SEND (R253, R254): at the interval PTP_INTV.DLY, Pdelay_Req on a port whose link is up, or Delay_Req to the master. -/
def doDelayReqSend (port : Nat) (s : State) : State :=
  let k := s.rd R.PTP_INTV_DLY
  let new : State → Option DelayReq := fun s => some ⟨s.ptp.seqNo, none, none, 0⟩
  if s.on R.PTP_TC_CFG_P2P then
    if s.heard port && s.ptpDue port k then
      let s := s.ptpGone port
      let s := { s with ptp := { s.ptp with pdly := tset noDly s.ptp.pdly port (new s) } }
      s.sendPtp port 2 (s.ptpMsg 2 0x0008 0 (port + 1) s.ptp.seqNo (logMsgInterval k) (List.replicate 20 0))
    else s
  else if s.heard port && s.enabled Pg.PTP && s.ptpState == 3 && s.rd R.PTP_STAT_PORT == port && s.ptpDue 4 k then
    let s := s.ptpGone 4
    let s := { s with ptp := { s.ptp with dly := new s } }
    s.sendPtp port 1 (s.ptpMsg 1 0x0008 0 1 s.ptp.seqNo 0x7F (List.replicate 10 0))
  else s

/-- DELAY_REQ (R253): answered as master. -/
def doDelayReq (port : Nat) (m : DelayMsg) (s : State) : State :=
  if s.heard port && s.serves && !s.on R.PTP_TC_CFG_P2P && m.domain == s.force R.PTP_CFG_DOMAIN && s.transport m.udp then
    s.sendPtp port 9 (s.ptpMsg 9 0x0008 0 1 m.seq (logMsgInterval (s.rd R.PTP_INTV_DLY)) (ptpStamp m.localTs ++ toBe 10 m.source))
  else s

/-- PDELAY_REQ (R254): answered whatever ROLE holds; Pdelay_Resp_Follow_Up follows when the answer has left (R255). -/
def doPdelayReq (port : Nat) (m : DelayMsg) (s : State) : State :=
  if s.heard port && s.on R.PTP_TC_CFG_P2P && !m.udp then
    s.sendPtp port 3 (s.ptpMsg 3 0x0208 0 (port + 1) m.seq 0x7F (ptpStamp m.localTs ++ toBe 10 m.source))
  else s

/-! Transmission. -/

/-- The information TLV of a Follow_Up of IEEE 802.1AS, of a grandmaster. -/
def followUpTlv : Bytes := toBe 2 3 ++ toBe 2 28 ++ toBe 3 0x0080C2 ++ toBe 3 1 ++ List.replicate 22 0

/-- An event message of the device as it leaves a port at a time in 0.25 ns: a one-step Sync carries that time. -/
def stampOwn (b : Bytes) (t : Nat) : Bytes :=
  let h := parseFrame b
  match ptpAt h with
  | none => b
  | some (o, _) =>
    if (nth 0 h.payload o).toNat % 16 = 0 ∧ bitN (be2 h.payload (o + 6)) 9 = 0 then
      let pl := putAt h.payload (o + 8) (toBe 8 (t % 4 * 16384))
      buildFrame { h with payload := putAt pl (o + 34) (ptpStamp (t / 4 : Nat)) } h.tag
    else b

/-- What the egress timestamp of an event message of the device does (R255): a Follow_Up for a two-step message, or the start of a delay
measurement. -/
def State.ownSent (s : State) (p : Nat) (b : Bytes) (t : Nat) : State :=
  let h := parseFrame b
  match ptpAt h with
  | none => s
  | some (o, _) =>
    let seq := be2 h.payload (o + 30)
    let note (q : Option DelayReq) : Option DelayReq := q.map fun q => if q.seq = seq then { q with sent := some (t : Int) } else q
    match (nth 0 h.payload o).toNat % 16 with
    | 0 =>
      if bitN (be2 h.payload (o + 6)) 9 = 1 then
        s.sendPtp p 8 (s.ptpMsg 8 0x0008 (t % 4 * 16384) 1 seq (nth 0 h.payload (o + 33)).toNat (ptpStamp (t / 4 : Nat) ++ followUpTlv))
      else s
    | 1 => { s with ptp := { s.ptp with dly := note s.ptp.dly } }
    | 2 => { s with ptp := { s.ptp with pdly := tset noDly s.ptp.pdly p (note (tget noDly s.ptp.pdly p)) } }
    | 3 => s.sendPtp p 10 (s.ptpMsg 10 0x0008 (t % 4 * 16384) (p + 1) seq 0x7F (ptpStamp (t / 4 : Nat) ++ (h.payload.drop (o + 44)).take 10))
    | _ => s

/-- FRAME_TRANSMIT (R215): a stored frame leaves its port at a time in 0.25 ns of the PTP clock, corrected by the transparent clock where it came in
from outside, timestamped where the device sends it. -/
def doFrameTransmit (p ts : Nat) (s : State) : State :=
  if p < 4 && !s.canSend p then s
  else match nextFrame (s.port p).frames with
    | none => s
    | some f =>
      let v := s.port p
      let s := s.setPort p { v with frames := v.frames.erase f }
      let b := match f.inTs with
        | some t =>
          let link : Int := if s.on R.PTP_TC_CFG_P2P && f.inPort < 4 && s.on (R.PTP_LINK_DLY_VALID f.inPort) then
            s.rd (R.PTP_LINK_DLY_NS f.inPort) * 65536 else 0
          if p < 4 then correct f.bytes (((ts : Int) - t) * 16384 + link) else f.bytes
        | none => stampOwn f.bytes ts
      let s := s.emit (.frame p (b ++ fcsOf b))
      let s := if p < 4 then s.inc (R.ETH_TX_OK_COUNT p) else s
      if f.inTs.isNone && decide (p < 4) then s.ownSent p f.bytes ts else s

end Sys2Proof.Machine
end

