-- ==== Sys2Proof/Machine/EthCmds.lean ====
section
/-! DEFINITION. The commands of chapter 08: Ethernet ports, the bridge, the rings and the MDIO master. -/

namespace Sys2Proof.Machine

/-- The word of BR_MDIO_CMD that starts an operation. -/
def mdioWord (op : Nat) (cl45 : Bool) (phy reg : Nat) : Word :=
  BitVec.ofNat 32 (op + 4 * b2n cl45 + phy * 2 ^ 8 + reg * 2 ^ 16 + 2 ^ 31)

/-! Ports. -/

/-- LINK_UP (R201, R202): `full` is whether the link partner offers full duplex. -/
def execLinkUp (port : Fin 4) (full : Bool) (s : State) : Host.Outcome State Fault Refusal := done s (doLinkUp port.val full s)

/-- LINK_DOWN (R202). -/
def execLinkDown (port : Fin 4) (s : State) : Host.Outcome State Fault Refusal := done s (doLinkDown port.val s)

/-- AN_FAIL (R201). -/
def execAnFail (port : Fin 4) (s : State) : Host.Outcome State Fault Refusal := done s (doAnFail port.val s)

/-- ETH_ENABLE_WRITE (R203): a write of ETH CTRL. -/
def execEthEnableWrite (path : Path) (port : Fin 4) (value : Word) (s : State) : Host.Outcome State Fault Refusal :=
  done s (s.hostReg (onPath path.code) (Pg.ETH port.val) 0x008 value)

/-- FRAME_RECEIVE (R205). -/
def execFrameReceive (port : Fin 4) (frame : Bytes) (ts : Nat) (s : State) : Host.Outcome State Fault Refusal :=
  done s (doFrameReceive port.val frame ts s)

/-- FRAME_TRANSMIT (R215). -/
def execFrameTransmit (port : Fin 5) (ts : Nat) (s : State) : Host.Outcome State Fault Refusal := done s (doFrameTransmit port.val ts s)

/-- PAUSE_RECEIVE (R221). -/
def execPauseReceive (port : Fin 4) (quanta : Fin 65536) (s : State) : Host.Outcome State Fault Refusal :=
  done s (doPauseReceive port.val quanta.val s)

/-- PAUSE_END (R221). -/
def execPauseEnd (port : Fin 4) (s : State) : Host.Outcome State Fault Refusal := done s (doPauseEnd port.val s)

/-- PAUSE_BROKEN (R223). -/
def execPauseBroken (port : Fin 4) (s : State) : Host.Outcome State Fault Refusal := done s (doPauseBroken port.val s)

/-- HOLD_END (R223). -/
def execHoldEnd (port : Fin 4) (s : State) : Host.Outcome State Fault Refusal := done s (doHoldEnd port.val s)

/-! The address table (R211 to R214). -/

/-- ADDRESS_AGE_OUT (R211). -/
def execAddressAgeOut (index : Fin 4096) (s : State) : Host.Outcome State Fault Refusal := done s (doAddressAgeOut index.val s)

/-- ATU_READ_INDEX (R211): BR_ATU_CMD with OP 1 and GO. -/
def execAtuReadIndex (path : Path) (s : State) : Host.Outcome State Fault Refusal := done s (s.hostReg (onPath path.code) Pg.BR 0x070 0x11)

/-- ATU_WRITE_STATIC (R211): BR_ATU_CMD with OP 2 and GO. -/
def execAtuWriteStatic (path : Path) (s : State) : Host.Outcome State Fault Refusal := done s (s.hostReg (onPath path.code) Pg.BR 0x070 0x12)

/-- ATU_DELETE_KEY (R211): BR_ATU_CMD with OP 3 and GO. -/
def execAtuDeleteKey (path : Path) (s : State) : Host.Outcome State Fault Refusal := done s (s.hostReg (onPath path.code) Pg.BR 0x070 0x13)

/-- ATU_LOOKUP_KEY (R211): BR_ATU_CMD with OP 4 and GO. -/
def execAtuLookupKey (path : Path) (s : State) : Host.Outcome State Fault Refusal := done s (s.hostReg (onPath path.code) Pg.BR 0x070 0x14)

/-- ATU_FLUSH_DYNAMIC (R211): BR_ATU_CMD with OP 5, GO and a port mask. -/
def execAtuFlushDynamic (path : Path) (ports : BitVec 5) (s : State) : Host.Outcome State Fault Refusal :=
  done s (s.hostReg (onPath path.code) Pg.BR 0x070 (BitVec.ofNat 32 (0x15 + 256 * ports.toNat)))

/-! Rings (R216 to R220). -/

/-- RING_CHECK_RECEIVE (R218). -/
def execRingCheckReceive (port : Fin 4) (mac : Nat) (seq : Word) (s : State) : Host.Outcome State Fault Refusal :=
  done s (doRingCheckReceive port.val mac seq s)

/-- RING_OPEN (R218). -/
def execRingOpen (net : Fin 2) (s : State) : Host.Outcome State Fault Refusal := done s (doRingOpen net.val s)

/-- RING_CHANGE_RECEIVE (R219). -/
def execRingChangeReceive (port : Fin 4) (mac : Nat) (seq : Word) (s : State) : Host.Outcome State Fault Refusal :=
  done s (doRingChangeReceive port.val mac seq s)

/-! MDIO (R229). -/

/-- MDIO_ADDRESS (R229): BR_MDIO_CMD with OP 0, CL45 and GO. -/
def execMdioAddress (path : Path) (phy dev : Fin 32) (s : State) : Host.Outcome State Fault Refusal :=
  done s (s.hostReg (onPath path.code) Pg.BR 0x094 (mdioWord 0 true phy.val dev.val))

/-- MDIO_WRITE (R229): BR_MDIO_CMD with OP 1 and GO. -/
def execMdioWrite (path : Path) (cl45 : Bool) (phy reg : Fin 32) (s : State) : Host.Outcome State Fault Refusal :=
  done s (s.hostReg (onPath path.code) Pg.BR 0x094 (mdioWord 1 cl45 phy.val reg.val))

/-- MDIO_READ (R229): BR_MDIO_CMD with OP 2 and GO. -/
def execMdioRead (path : Path) (cl45 : Bool) (phy reg : Fin 32) (s : State) : Host.Outcome State Fault Refusal :=
  done s (s.hostReg (onPath path.code) Pg.BR 0x094 (mdioWord 2 cl45 phy.val reg.val))

/-- MDIO_READ_INC (R229): BR_MDIO_CMD with OP 3, CL45 and GO. -/
def execMdioReadInc (path : Path) (phy dev : Fin 32) (s : State) : Host.Outcome State Fault Refusal :=
  done s (s.hostReg (onPath path.code) Pg.BR 0x094 (mdioWord 3 true phy.val dev.val))

/-- MDIO_DONE (R229). -/
def execMdioDone (answer : Option (BitVec 16)) (s : State) : Host.Outcome State Fault Refusal := done s (doMdioDone answer s)

end Sys2Proof.Machine
end

