-- ==== Sys2Proof/Machine/JobCmds.lean ====
section
/-! DEFINITION. The commands of chapters 04 and 05: jobs, flocks and the words of a hen. -/

namespace Sys2Proof.Machine

/-! Jobs (R89 to R98). -/

/-- JOB_RELEASE (R89). -/
def execJobRelease (job : JobRef) (s : State) : Host.Outcome State Fault Refusal := done s (doJobRelease (jobKey job.old job.j.val) s)

/-- RUN_AHEAD (R96). -/
def execRunAhead (job : JobRef) (s : State) : Host.Outcome State Fault Refusal := done s (doRunAhead (jobKey job.old job.j.val) s)

/-- JOB_START (R90). -/
def execJobStart (hen : Fin 256) (s : State) : Host.Outcome State Fault Refusal := done s (doJobStart hen.val s)

/-- STEAL (R91). -/
def execSteal (hen : Fin 256) (s : State) : Host.Outcome State Fault Refusal := done s (doSteal hen.val s)

/-- RUN_END (R128). -/
def execRunEnd (hen : Fin 256) (s : State) : Host.Outcome State Fault Refusal := done s (doRunEnd hen.val s)

/-- LATE (R93); a late instance of a copied slice restarts the copy (R306). -/
def execLate (job : JobRef) (s : State) : Host.Outcome State Fault Refusal := done s ((doLate (jobKey job.old job.j.val) s).sliceCheck)

/-- HEN_ECC_ERROR (R94). -/
def execHenEccError (hen : Fin 256) (s : State) : Host.Outcome State Fault Refusal := done s ((doHenEcc hen.val s).sliceCheck)

/-- ABANDON (R98). -/
def execAbandon (job : JobRef) (s : State) : Host.Outcome State Fault Refusal := done s (doAbandon (jobKey job.old job.j.val) s)

/-! Flocks and the scheduler page (R102, R103). -/

/-- FLOCK_GATE_REQUEST (R102): a write of 0 to FLf_CTRL.ENABLE. -/
def execFlockGateRequest (path : Path) (flock : Fin 16) (s : State) : Host.Outcome State Fault Refusal :=
  done s (s.hostReg (onPath path.code) (Pg.FL flock.val) 0x008 (BitVec.ofNat 32 (setBitsN (s.ctrlWord (Pg.FL flock.val)) 0 1 0)))

/-- FLOCK_UNGATE (R103): a write of 1 to FLf_CTRL.ENABLE. -/
def execFlockUngate (path : Path) (flock : Fin 16) (s : State) : Host.Outcome State Fault Refusal :=
  done s (s.hostReg (onPath path.code) (Pg.FL flock.val) 0x008 (BitVec.ofNat 32 (setBitsN (s.ctrlWord (Pg.FL flock.val)) 0 1 1)))

/-- UNGATED (R103). -/
def execUngated (flock : Fin 16) (s : State) : Host.Outcome State Fault Refusal := done s (doFlockReady flock.val s)

/-- SCH_ENABLE_WRITE (R368): a write of SCH CTRL. -/
def execSchEnableWrite (path : Path) (value : Word) (s : State) : Host.Outcome State Fault Refusal :=
  done s (s.hostReg (onPath path.code) Pg.SCH 0x008 value)

/-! The words of a hen (R112, R130 to R136). -/

/-- WORD_ISSUE (R112). -/
def execWordIssue (hen : Fin 256) (s : State) : Host.Outcome State Fault Refusal := done s ((doWordIssue hen.val s).sliceCheck)

/-- DEADLINE_ALARM (R136). -/
def execDeadlineAlarm (hen : Fin 256) (s : State) : Host.Outcome State Fault Refusal := done s ((doDeadlineAlarm hen.val s).sliceCheck)

/-- DOORBELL (R131). -/
def execDoorbell (hen : Fin 256) (debug : Bool) (s : State) : Host.Outcome State Fault Refusal := done s (doDoorbell hen.val debug s)

/-- INTERRUPT_ENTRY (R132). -/
def execInterruptEntry (hen : Fin 256) (s : State) : Host.Outcome State Fault Refusal := done s (doInterruptEntry hen.val s)

end Sys2Proof.Machine
end

