-- ==== Sys2Proof/Machine/LoupeCmds.lean ====
section
/-! DEFINITION. The commands of chapter 15: the Loupe island, its UART and its interval log. -/

namespace Sys2Proof.Machine

/-! Power, frames and intervals. -/

/-- LP_POWER_ON (R390). -/
def execLpPowerOn (jedec : Option (Fin 256)) (calEn : Bool) (s : State) : Host.Outcome State Fault Refusal := done s (doLpPowerOn jedec calEn s)

/-- LP_VDD_LOSS (R387). -/
def execLpVddLoss (s : State) : Host.Outcome State Fault Refusal := done s (doLpVddLoss s)

/-- LP_VBAT_LOSS (R387). -/
def execLpVbatLoss (s : State) : Host.Outcome State Fault Refusal := done s (doLpVbatLoss s)

/-- LP_RESET (R388). -/
def execLpReset (s : State) : Host.Outcome State Fault Refusal := done s (doLpReset s)

/-- LP_FRAME (R394). -/
def execLpFrame (x0 x1 : BitVec 24) (s : State) : Host.Outcome State Fault Refusal := done s (doLpFrame x0 x1 s)

/-- LAF_UPDATE (R395). -/
def execLafUpdate (s : State) : Host.Outcome State Fault Refusal := done s (doLafUpdate s)

/-- INTERVAL_END (R396, R397). -/
def execIntervalEnd (badProgram : Fin 5) (s : State) : Host.Outcome State Fault Refusal := done s (doIntervalEnd badProgram.val s)

/-! The UART (R405). -/

/-- ID (R405). -/
def execLpId (s : State) : Host.Outcome State Fault Refusal := done s (doLpId s)

/-- TIME (R405). -/
def execLpTime (s : State) : Host.Outcome State Fault Refusal := done s (doLpTime s)

/-- HEAD (R405). -/
def execLpHead (s : State) : Host.Outcome State Fault Refusal := done s (doLpHead s)

/-- READ (R405). -/
def execLpRead (a n : Nat) (s : State) : Host.Outcome State Fault Refusal := done s (doLpRead a n s)

/-- LIVE (R405). -/
def execLpLive (s : State) : Host.Outcome State Fault Refusal := done s (doLpLive s)

/-- SETTIME (R393). -/
def execSetTime (calEn : Bool) (y mo d h mi sec : Nat) (s : State) : Host.Outcome State Fault Refusal := done s (doSetTime calEn y mo d h mi sec s)

/-- TRIM (R392). -/
def execLpTrim (calEn : Bool) (v : Int) (s : State) : Host.Outcome State Fault Refusal := done s (doLpTrim calEn v s)

/-- CAL (R401). -/
def execLpCal (calEn : Bool) (k : Fin 2) (level : Int) (vddLow : Bool) (s : State) : Host.Outcome State Fault Refusal :=
  done s (doLpCal calEn k level vddLow s)

/-- CAL_DONE (R401). -/
def execCalDone (vddLow : Bool) (s : State) : Host.Outcome State Fault Refusal := done s (doCalDone vddLow s)

/-- CAL_EN_FALL (R402). -/
def execCalEnFall (s : State) : Host.Outcome State Fault Refusal := done s (doCalEnFall s)

/-- OFFSET (R401). -/
def execLpOffset (calEn : Bool) (k : Fin 2) (v : Int) (vddLow : Bool) (s : State) : Host.Outcome State Fault Refusal :=
  done s (doLpOffset calEn k v vddLow s)

/-- ALERT (R404). -/
def execLpAlert (calEn : Bool) (q l h : Nat) (s : State) : Host.Outcome State Fault Refusal := done s (doLpAlert calEn q l h s)

/-- LOGSEC (R399). -/
def execLogSec (calEn on : Bool) (s : State) : Host.Outcome State Fault Refusal := done s (doLogSec calEn on s)

/-- KEY (R400). -/
def execLpKey (calEn : Bool) (words : List Word) (vddLow : Bool) (s : State) : Host.Outcome State Fault Refusal :=
  done s (doLpKey calEn words vddLow s)

/-! The LPM page (R409). -/

/-- LPM_REQ_GO (R409): a write of LPM_REQ with GO. -/
def execLpmReqGo (path : Path) (value : Word) (s : State) : Host.Outcome State Fault Refusal :=
  done s (s.hostReg (onPath path.code) Pg.LPM 0x068 (value ||| 1))

/-- REQ_DONE (R409). -/
def execReqDone (s : State) : Host.Outcome State Fault Refusal := done s (doReqDone s)

end Sys2Proof.Machine
end

