-- ==== Sys2Proof/Machine/PowerCmds.lean ====
section
/-! DEFINITION. The commands of chapter 12: the power stage controllers. -/

namespace Sys2Proof.Machine

/-- SAMPLE_FEED (R331). -/
def execSampleFeed (s : State) : Host.Outcome State Fault Refusal := done s (doSampleFeed s)

/-- PERIOD_BOUNDARY (R332). -/
def execPeriodBoundary (ch : Fin 32) (psocA psocB : Bool) (s : State) : Host.Outcome State Fault Refusal :=
  done s (doPeriodBoundary ch.val psocA psocB s)

/-- TRIP (R346). -/
def execTrip (ch : Fin 32) (s : State) : Host.Outcome State Fault Refusal := done s (doTrip ch.val s)

/-- PSOC_RISE (R345). -/
def execPsocRise (ch : Fin 32) (legB : Bool) (s : State) : Host.Outcome State Fault Refusal := done s (doPsocRise ch.val legB s)

/-- CHANNEL_START (R339). -/
def execChannelStart (ch : Fin 32) (s : State) : Host.Outcome State Fault Refusal := done s (doChannelStart ch.val s)

/-- DIAG_STEP (R342). -/
def execDiagStep (ch : Fin 32) (psocA psocB : Bool) (sense : BitVec 12) (s : State) : Host.Outcome State Fault Refusal :=
  done s (doDiagStep ch.val psocA psocB sense.toNat s)

/-- RAMP_START (R339). -/
def execRampStart (ch : Fin 32) (s : State) : Host.Outcome State Fault Refusal := done s (doRampStart ch.val s)

/-- RAMP_END (R339). -/
def execRampEnd (ch : Fin 32) (s : State) : Host.Outcome State Fault Refusal := done s (doRampEnd ch.val s)

/-- CHANNEL_STOP (R340). -/
def execChannelStop (ch : Fin 32) (s : State) : Host.Outcome State Fault Refusal := done s (doChannelStop ch.val s)

/-- STOP_END (R340). -/
def execStopEnd (ch : Fin 32) (s : State) : Host.Outcome State Fault Refusal := done s (doStopEnd ch.val s)

/-- FEED_STALL (R348). -/
def execFeedStall (s : State) : Host.Outcome State Fault Refusal := done s (doFeedStall s)

/-- UNMUTE (R348). -/
def execUnmute (s : State) : Host.Outcome State Fault Refusal := done s (doUnmute s)

/-- RESTART (R346): a write of PS_CH_CMD with RESTART. -/
def execRestart (path : Path) (ch : Fin 32) (s : State) : Host.Outcome State Fault Refusal :=
  done s (s.hostReg (onPath path.code) (Pg.PS (ch.val / 8)) (0x110 + 32 * (ch.val % 8)) 1)

/-- DIAG (R343): a write of PS_CH_CMD with DIAG. -/
def execDiag (path : Path) (ch : Fin 32) (s : State) : Host.Outcome State Fault Refusal :=
  done s (s.hostReg (onPath path.code) (Pg.PS (ch.val / 8)) (0x110 + 32 * (ch.val % 8)) 2)

/-- PS_ENABLE_WRITE (R340): a write of PS CTRL. -/
def execPsEnableWrite (path : Path) (ctl : Fin 4) (value : Word) (s : State) : Host.Outcome State Fault Refusal :=
  done s (s.hostReg (onPath path.code) (Pg.PS ctl.val) 0x008 value)

/-- PSM_BAND_WRITE (R337): a write of a band word. -/
def execPsmBandWrite (path : Path) (band : Fin 4) (second : Bool) (value : Word) (s : State) : Host.Outcome State Fault Refusal :=
  done s (s.hostReg (onPath path.code) Pg.PSM (0x090 + 8 * band.val + (if second then 4 else 0)) value)

/-- RAIL_CONVERSION (R330). -/
def execRailConversion (rail : Fin 8) (code : BitVec 12) (s : State) : Host.Outcome State Fault Refusal :=
  done s (doRailConversion rail.val code.toNat s)

end Sys2Proof.Machine
end

