-- ==== Sys2Proof/Machine/StreamCmds.lean ====
section
/-! DEFINITION. The commands of chapter 09: stream copies, underruns, packets and applies. -/

namespace Sys2Proof.Machine

/-- COPY_RECEIVE (R243, R244). -/
def execCopyReceive (port : Fin 4) (frame : Bytes) (s : State) : Host.Outcome State Fault Refusal := done s (doCopyReceive port.val frame s)

/-- UNDERRUN (R246). -/
def execUnderrun (stream : Fin 256) (s : State) : Host.Outcome State Fault Refusal := done s (doUnderrun stream.val s)

/-- PLAYOUT_DEADLINE (R243). -/
def execPlayoutDeadline (s : State) : Host.Outcome State Fault Refusal := done s (doPlayoutDeadline s)

/-- SRC_LOST (R247). -/
def execSrcLost (stream : Fin 256) (s : State) : Host.Outcome State Fault Refusal := done s (doSrcLost stream.val s)

/-- STREAM_PACKET_QUEUE (R237). -/
def execStreamPacketQueue (stream : Fin 128) (s : State) : Host.Outcome State Fault Refusal := done s (doStreamPacketQueue stream.val s)

/-- STRX_APPLY (R242): a write of 1 to STRX_APPLY.NEXT. -/
def execStrxApply (path : Path) (s : State) : Host.Outcome State Fault Refusal := done s (s.hostReg (onPath path.code) Pg.STRX 0x044 1)

/-- STTX_APPLY (R242): a write of 1 to STTX_APPLY.NEXT. -/
def execSttxApply (path : Path) (s : State) : Host.Outcome State Fault Refusal := done s (s.hostReg (onPath path.code) Pg.STTX 0x048 1)

/-- STREAM_APPLIED (R242). -/
def execStreamApplied (transmit : Bool) (s : State) : Host.Outcome State Fault Refusal := done s (doStreamApplied transmit s)

end Sys2Proof.Machine
end

