-- ==== Sys2Proof/Machine/SupplyCmds.lean ====
section
/-! DEFINITION. The commands of chapter 16: resets, dips, boot, modes, DARK and fuses. -/

namespace Sys2Proof.Machine

/-- One section of a boot image loaded (Table 16.4): register writes made by the device itself under no page key, or bytes in a memory. -/
def State.loadSection (s : State) (b : Bytes) (x : Section) : State :=
  if x.type = 3 then
    (List.range (x.len / 8)).foldl (fun s i =>
      let a := imgNat b (x.off + 8 * i) 4
      s.wordWrite (onPath 0) ((a - 0x40000000) / 0x1000) (a % 0x1000) (BitVec.ofNat 32 (imgNat b (x.off + 8 * i + 4) 4))) s
  else
    let d := ((b.drop x.off).take x.len).map some
    if 0x51000000 ≤ x.dest then (s.latentPut 22 (x.dest - 0x51000000) d []).1 else (s.memWrite 22 x.dest d []).1

/-- BOOT_COMPLETE (R422): the verified image's sections are loaded in table order, REMAP is set, the device-owned mules start and the device
enters COMMISSION, where TL counts from 0 (R58). The sections' register writes are judged as in COMMISSION (log entry 31). -/
def doBootComplete (s : State) : State :=
  match s.pwr.image with
  | none => s
  | some b =>
    if s.mode.cur == .boot then
      let s := { s with clk := (s.clk + 127) / 128 * 128, tl := 0, smp := 0, bndDue := true, mode := { s.mode with cur := .commission } }
      let s := (imgSections b).foldl (fun s x => s.loadSection b x) s
      let s := s.wrB R.FAB_CFG_REMAP true
      let s := (List.range 88).foldl State.muleDevStart s
      let s := { s with pwr := { s.pwr with image := none }, mode := { s.mode with cur := .boot, audioReady := true } }
      s.setMode .commission
    else s

/-! Resets (R416 to R418). -/

/-- POWER_ON_RESET (R417). -/
def execPowerOnReset (posA ioa3v3 : Bool) (s : State) : Host.Outcome State Fault Refusal := done s (doPowerOnReset posA ioa3v3 s)

/-- BROWN_OUT (R415). -/
def execBrownOut (rail : Rail) (mv : Nat) (s : State) : Host.Outcome State Fault Refusal := done s (doBrownOut rail mv s)

/-- RESET_N (R416). -/
def execResetN (low100ns : Nat) (posA : Bool) (s : State) : Host.Outcome State Fault Refusal := done s (doResetN low100ns posA s)

/-- DEVICE (R416): a write of 1 to PWR_RST.DEVICE. -/
def execDevice (path : Path) (s : State) : Host.Outcome State Fault Refusal := done s (s.hostReg (onPath path.code) Pg.PWR 0x058 1)

/-- FUNCTION_LEVEL_RESET (R416). -/
def execFunctionLevelReset (s : State) : Host.Outcome State Fault Refusal := done s (doFlr s)

/-! Dips (R413, R414, R424). -/

/-- RAIL_BELOW_WARNING (R413). -/
def execRailBelowWarning (rail : Rail) (mv : Nat) (s : State) : Host.Outcome State Fault Refusal := done s (doRailBelow rail mv s)

/-- BO_WARN (R414). -/
def execBoWarn (rail : Rail) (mv least samples : Nat) (s : State) : Host.Outcome State Fault Refusal := done s (doBoWarn rail mv least samples s)

/-- DIP_SCRUB (R414). -/
def execDipScrub (s : State) : Host.Outcome State Fault Refusal := done s (doDipScrub s)

/-- DIP_RELINQUISH (R319). -/
def execDipRelinquish (s : State) : Host.Outcome State Fault Refusal := done s (doDipRelinquish s)

/-- DIP_QUIESCE (R414, R424). -/
def execDipQuiesce (s : State) : Host.Outcome State Fault Refusal := done s (doDipQuiesce s)

/-! Boot (R419 to R422). -/

/-- BOOT_SEARCH (R419). -/
def execBootSearch (flash0 flash1 : Option Bytes) (s : State) : Host.Outcome State Fault Refusal := done s (doBootSearch flash0 flash1 s)

/-- PUSH (R419): a write of 1 to PWR_BOOT_CTRL.PUSH. -/
def execPush (path : Path) (s : State) : Host.Outcome State Fault Refusal := done s (s.hostReg (onPath path.code) Pg.PWR 0x060 1)

/-- BOOT_COMPLETE (R422). -/
def execBootComplete (s : State) : Host.Outcome State Fault Refusal := done s (doBootComplete s)

/-! Modes (R423). -/

/-- MODE_REQ_STANDALONE (R423): a request with GO. -/
def execModeReqStandalone (path : Path) (s : State) : Host.Outcome State Fault Refusal := done s (s.hostReg (onPath path.code) Pg.MODE 0x044 0x12)

/-- MODE_REQ_LEADER (R423). -/
def execModeReqLeader (path : Path) (s : State) : Host.Outcome State Fault Refusal := done s (s.hostReg (onPath path.code) Pg.MODE 0x044 0x13)

/-- MODE_REQ_FOLLOWER (R326). -/
def execModeReqFollower (path : Path) (s : State) : Host.Outcome State Fault Refusal := done s (s.hostReg (onPath path.code) Pg.MODE 0x044 0x14)

/-- MODE_REQ_QUIESCE (R423). -/
def execModeReqQuiesce (path : Path) (s : State) : Host.Outcome State Fault Refusal := done s (s.hostReg (onPath path.code) Pg.MODE 0x044 0x16)

/-- MODE_REQ_RETURN (R423): a request from QUIESCE. -/
def execModeReqReturn (path : Path) (target : Fin 8) (s : State) : Host.Outcome State Fault Refusal :=
  done s (s.hostReg (onPath path.code) Pg.MODE 0x044 (BitVec.ofNat 32 (0x10 + target.val)))

/-- MODE_REQ_DARK, with the level of the WAKE pin (R425). -/
def execModeReqDark (path : Path) (wakePin : Bool) (s : State) : Host.Outcome State Fault Refusal :=
  done s (s.hostReg { onPath path.code with wakePin := wakePin } Pg.MODE 0x044 0x17)

/-- MODE_REQ_COMMISSION (R427). -/
def execModeReqCommission (path : Path) (s : State) : Host.Outcome State Fault Refusal := done s (s.hostReg (onPath path.code) Pg.MODE 0x044 0x11)

/-- CHANGED (R423): a pending transition takes effect. -/
def execChanged (s : State) : Host.Outcome State Fault Refusal := done s (doChanged s)

/-! DARK (R425 to R427). -/

/-- DARK_ENTRY (R425). -/
def execDarkEntry (s : State) : Host.Outcome State Fault Refusal := done s (doDarkEntry s)

/-- WAKE_PIN (R427). -/
def execWakePin (s : State) : Host.Outcome State Fault Refusal := done s (doWakePin s)

/-- LOUPE_ALARM (R408, R427). -/
def execLoupeAlarm (s : State) : Host.Outcome State Fault Refusal := done s (doLoupeAlarm s)

/-- AUDIO_READY (R427). -/
def execAudioReady (s : State) : Host.Outcome State Fault Refusal := done s (doAudioReady s)

/-! Fuses and the twin link domain (R424, R428). -/

/-- PROG (R424): a write of 1 to PWR_FUSE.PROG. -/
def execProg (path : Path) (s : State) : Host.Outcome State Fault Refusal := done s (s.hostReg (onPath path.code) Pg.PWR 0x074 1)

/-- FUSE_DONE (R424). -/
def execFuseDone (s : State) : Host.Outcome State Fault Refusal := done s (doFuseDone s)

/-- FUSE_HOLD_TIMEOUT (R424). -/
def execFuseHoldTimeout (s : State) : Host.Outcome State Fault Refusal := done s (doFuseHoldTimeout s)

/-- TWL_OFF (R428): a write of PWR_DOM_CTRL. -/
def execTwlOff (path : Path) (value : Word) (s : State) : Host.Outcome State Fault Refusal := done s (s.hostReg (onPath path.code) Pg.PWR 0x070 value)

end Sys2Proof.Machine
end

