-- ==== Sys2Proof/Machine/TimeCmds.lean ====
section
/-! DEFINITION. The commands of chapter 10: PTP, references, holdover and the audio PLL. -/

namespace Sys2Proof.Machine

/-! PTP (R253 to R261). -/

/-- SYNC (R257). -/
def execSync (port : Fin 4) (m : SyncMsg) (s : State) : Host.Outcome State Fault Refusal := done s (doSync port.val m s)

/-- FOLLOW_UP (R257). -/
def execFollowUp (port : Fin 4) (m : SyncMsg) (s : State) : Host.Outcome State Fault Refusal := done s (doFollowUp port.val m s)

/-- ANNOUNCE (R253). -/
def execAnnounce (port : Fin 4) (m : AnnounceMsg) (s : State) : Host.Outcome State Fault Refusal := done s (doAnnounce port.val m s)

/-- DELAY_REQ (R253). -/
def execDelayReq (port : Fin 4) (m : DelayMsg) (s : State) : Host.Outcome State Fault Refusal := done s (doDelayReq port.val m s)

/-- DELAY_RESP (R257). -/
def execDelayResp (port : Fin 4) (m : DelayMsg) (s : State) : Host.Outcome State Fault Refusal := done s (doDelayResp port.val m s)

/-- PDELAY_REQ (R254). -/
def execPdelayReq (port : Fin 4) (m : DelayMsg) (s : State) : Host.Outcome State Fault Refusal := done s (doPdelayReq port.val m s)

/-- PDELAY_RESP (R254). -/
def execPdelayResp (port : Fin 4) (m : DelayMsg) (s : State) : Host.Outcome State Fault Refusal := done s (doPdelayResp port.val m s)

/-- PDELAY_RESP_FOLLOW_UP (R254). -/
def execPdelayRespFollowUp (port : Fin 4) (m : DelayMsg) (s : State) : Host.Outcome State Fault Refusal := done s (doPdelayRespFollowUp port.val m s)

/-- SYNC_SEND (R253). -/
def execSyncSend (s : State) : Host.Outcome State Fault Refusal := done s (doSyncSend s)

/-- ANNOUNCE_SEND (R260). -/
def execAnnounceSend (s : State) : Host.Outcome State Fault Refusal := done s (doAnnounceSend s)

/-- DELAY_REQ_SEND (R253). -/
def execDelayReqSend (port : Fin 4) (s : State) : Host.Outcome State Fault Refusal := done s (doDelayReqSend port.val s)

/-- PTP_LOCKED (R258). -/
def execPtpLocked (s : State) : Host.Outcome State Fault Refusal := done s (doPtpLocked s)

/-- MASTER_LOST (R259). -/
def execMasterLost (s : State) : Host.Outcome State Fault Refusal := done s (doMasterLost s)

/-- PTP_TOD_WRITE (R261): a write of PTP_TOD_HI. -/
def execPtpTodWrite (path : Path) (value : Word) (s : State) : Host.Outcome State Fault Refusal :=
  done s (s.hostReg (onPath path.code) Pg.PTP 0x094 value)

/-- TOD_APPLY (R261). -/
def execTodApply (s : State) : Host.Outcome State Fault Refusal := done s (doTodApply s)

/-- PTP_CONFIG_APPLY (R256). -/
def execPtpConfigApply (s : State) : Host.Outcome State Fault Refusal := done s (doPtpConfigApply s)

/-! References and holdover (R262 to R288). -/

/-- CAND_CHANGE (R262). -/
def execCandChange (cand : Fin 8) (present : Bool) (s : State) : Host.Outcome State Fault Refusal := done s (doCandChange cand.val present s)

/-- SWITCH_DONE (R272). -/
def execSwitchDone (s : State) : Host.Outcome State Fault Refusal := done s (doSwitchDone s)

/-- SWITCH_FAIL (R272). -/
def execSwitchFail (s : State) : Host.Outcome State Fault Refusal := done s (doSwitchFail s)

/-- WTR_END (R267). -/
def execWtrEnd (cand : Fin 8) (s : State) : Host.Outcome State Fault Refusal := done s (doWtrEnd cand.val s)

/-- FREQ_MEASURE (R276). -/
def execFreqMeasure (averages : List Int) (temperature : Int) (s : State) : Host.Outcome State Fault Refusal :=
  done s (doFreqMeasure averages temperature s)

/-- HOLDOVER_UPDATE (R280). -/
def execHoldoverUpdate (temperature : Int) (s : State) : Host.Outcome State Fault Refusal := done s (doHoldoverUpdate temperature s)

/-- AGE_UPD (R282). -/
def execAgeUpd (s : State) : Host.Outcome State Fault Refusal := done s (doAgeUpd s)

/-- SPEC_END (R284). -/
def execSpecEnd (s : State) : Host.Outcome State Fault Refusal := done s (doSpecEnd s)

/-- SERVICE_CHANGE (R265). -/
def execServiceChange (s : State) : Host.Outcome State Fault Refusal := done s (doServiceChange s)

/-- APLL_LOST (R252). -/
def execApllLost (s : State) : Host.Outcome State Fault Refusal := done s (doApllLost s)

/-- APLL_RELOCK (R252). -/
def execApllRelock (s : State) : Host.Outcome State Fault Refusal := done s (doApllRelock s)

end Sys2Proof.Machine
end

