-- ==== Sys2Proof/Machine/TwinCmds.lean ====
section
/-! DEFINITION. The commands of chapter 11: the twin link, mirroring, resynchronisation, drive and leadership. -/

namespace Sys2Proof.Machine

/-- MIRRORED_WRITE (R297, R298): carried out with path code 0x4, under the boundary that travels with it. -/
def doMirroredWrite (seq : Nat) (req : WriteReq) (boundary : Nat) (s : State) : State :=
  if s.twUp && s.on R.TW_CFG_EN then
    let s := s.setTwin { s.twin with seqIn := seq }
    s.access (.req { onPath 4 with bnd := some (s.smpOf (8 * boundary) / 8) } req false)
  else s

/-- MIRROR_WRITE_RELEASE (R297): the writes held since tick 992 are held no longer; each is carried out in its turn, as its chip takes it now. -/
def doMirrorRelease (s : State) : State :=
  if s.tick < 992 ∧ !s.bndDue then s.setWait (s.fab.hostWait.map fun x => (false, x.2)) else s

/-! The link and its heartbeats. -/

/-- TWIN_LINK_UP (R293). -/
def execTwinLinkUp (peer : PeerId) (s : State) : Host.Outcome State Fault Refusal := done s (doTwinLinkUp peer s)

/-- TWIN_LINK_DOWN (R292). -/
def execTwinLinkDown (s : State) : Host.Outcome State Fault Refusal := done s (doTwinLinkDown s)

/-- LANE_FAIL (R292). -/
def execLaneFail (s : State) : Host.Outcome State Fault Refusal := done s (doLaneFail s)

/-- LANE_RETURN (R292). -/
def execLaneReturn (s : State) : Host.Outcome State Fault Refusal := done s (doLaneReturn s)

/-- HEARTBEAT_SEND (R310). -/
def execHeartbeatSend (s : State) : Host.Outcome State Fault Refusal := done s (doHeartbeatSend s)

/-- TWIN_HEARTBEAT (R310). -/
def execTwinHeartbeat (hb : Heartbeat) (s : State) : Host.Outcome State Fault Refusal := done s (doTwinHeartbeat hb s)

/-- HB_SILENCE (R310). -/
def execHbSilence (s : State) : Host.Outcome State Fault Refusal := done s (doHbSilence s)

/-- HB_STALL (R310). -/
def execHbStall (s : State) : Host.Outcome State Fault Refusal := done s (doHbStall s)

/-- NET_HEARTBEAT (R312). -/
def execNetHeartbeat (port : Fin 4) (payload : Bytes) (s : State) : Host.Outcome State Fault Refusal := done s (doNetHeartbeat port.val payload s)

/-- NHB_MISS (R312). -/
def execNhbMiss (s : State) : Host.Outcome State Fault Refusal := done s (doNhbMiss s)

/-! Block messages, mirroring and copies. -/

/-- BLOCK_MESSAGE_SEND (R296). -/
def execBlockMessageSend (s : State) : Host.Outcome State Fault Refusal := done s (doBlockMessageSend s)

/-- BLOCK_MESSAGE (R296). -/
def execBlockMessage (m : BlockMsg) (s : State) : Host.Outcome State Fault Refusal := done s (doBlockMessage m s)

/-- BLOCK_MESSAGE_MISSED (R296). -/
def execBlockMessageMissed (s : State) : Host.Outcome State Fault Refusal := done s (doBlockMessageMissed s)

/-- MIRRORED_WRITE (R297). -/
def execMirroredWrite (seq : Nat) (req : WriteReq) (boundary : Nat) (s : State) : Host.Outcome State Fault Refusal :=
  done s (doMirroredWrite seq req boundary s)

/-- MIRROR_WRITE_RELEASE (R297). -/
def execMirrorWriteRelease (s : State) : Host.Outcome State Fault Refusal := done s (doMirrorRelease s)

/-- MIRROR_BLOCK (R295). -/
def execMirrorBlock (block : Nat) (samples : List Word) (concealed taint : List Bool) (s : State) : Host.Outcome State Fault Refusal :=
  done s (doMirrorBlock block samples concealed taint s)

/-- MIRROR_BLOCK_MISSED (R295). -/
def execMirrorBlockMissed (s : State) : Host.Outcome State Fault Refusal := done s (doMirrorBlockMissed s)

/-- DIGEST_RECEIVE (R301, R303). -/
def execDigestReceive (block : Nat) (taint : Option (List Bool)) (digest : Option (BitVec 64)) (s : State) : Host.Outcome State Fault Refusal :=
  done s (doDigestReceive block taint digest s)

/-- RESYNC (R304): a write of TW_CTRL with RESYNC. -/
def execResync (path : Path) (value : Word) (s : State) : Host.Outcome State Fault Refusal :=
  done s (s.hostReg (onPath path.code) Pg.TW 0x050 (value ||| 2))

/-- BANK_COPY_DONE (R305). -/
def execBankCopyDone (latent : Bool) (bytes : Mem) (boundary : Nat) (s : State) : Host.Outcome State Fault Refusal :=
  done s (doBankCopyDone latent bytes boundary s)

/-- SLICE_INSTALL (R306). -/
def execSliceInstall (convs : List ConvCopy) (insts : List InstCopy) (last : Bool) (s : State) : Host.Outcome State Fault Refusal :=
  done s (doSliceInstall convs insts last s)

/-- RESYNC_DONE (R308, R341). -/
def execResyncDone (channels : List ChanCopy) (s : State) : Host.Outcome State Fault Refusal := done s (doResyncDone channels s)

/-! Drive and leadership (R314 to R326). -/

/-- DRIVE_BOUNDARY (R313). -/
def execDriveBoundary (s : State) : Host.Outcome State Fault Refusal := done s (doDriveBoundary s)

/-- DRIVE_IN_CHANGE (R290). -/
def execDriveInChange (level : Bool) (s : State) : Host.Outcome State Fault Refusal := done s (doDriveInChange level s)

/-- FEED_LOST (R315). -/
def execFeedLost (s : State) : Host.Outcome State Fault Refusal := done s (doFeedLost s)

/-- RELINQUISH (R319): a write of TW_CTRL with RELINQUISH. -/
def execRelinquish (path : Path) (value : Word) (s : State) : Host.Outcome State Fault Refusal :=
  done s (s.hostReg (onPath path.code) Pg.TW 0x050 (value ||| 1))

/-- RELINQUISH_TO_FOLLOWER (R319). -/
def execRelinquishToFollower (s : State) : Host.Outcome State Fault Refusal := done s (doRelinquishToFollower s)

/-- RELINQUISH_WITNESS_EXPIRE (R317). -/
def execRelinquishWitnessExpire (s : State) : Host.Outcome State Fault Refusal := done s (doRelinquishWitnessExpire s)

/-- LEADERSHIP (R320). -/
def execLeadership (s : State) : Host.Outcome State Fault Refusal := done s (doLeadership s)

/-- ORPHAN (R325). -/
def execOrphan (s : State) : Host.Outcome State Fault Refusal := done s (doOrphan s)

/-- JOIN_TAKEOVER (R326). -/
def execJoinTakeover (tl : Nat) (ofs : Int) (slots : List SlotCopy) (s : State) : Host.Outcome State Fault Refusal :=
  done s (doJoinTakeover tl ofs slots s)

end Sys2Proof.Machine
end

