-- ==== Sys2Proof/Machine/Dispatch.lean ====
section
/-! DEFINITION. The effect of every command on everything but the queue: one arm per row of the spec's table. -/

namespace Sys2Proof.Machine

def exec (i : Instr) (s : State) : Host.Outcome State Fault Refusal :=
  match i with
  | .registerWrite path addr size value => Sys2Proof.Machine.execRegisterWrite path addr size value s
  | .loReadCapture path addr size => Sys2Proof.Machine.execLoReadCapture path addr size s
  | .hiWriteApply path addr value => Sys2Proof.Machine.execHiWriteApply path addr value s
  | .contactSheetRead path whole => Sys2Proof.Machine.execContactSheetRead path whole s
  | .latentWindowWrite path off data => Sys2Proof.Machine.execLatentWindowWrite path off data s
  | .directClassWrite path off data => Sys2Proof.Machine.execDirectClassWrite path off data s
  | .direct => Sys2Proof.Machine.execDirect s
  | .writeWords addr words cutBits => Sys2Proof.Machine.execWriteWords addr words cutBits s
  | .readWords addr late => Sys2Proof.Machine.execReadWords addr late s
  | .quadWriteWords addr words cutBits => Sys2Proof.Machine.execQuadWriteWords addr words cutBits s
  | .quadReadWords addr late => Sys2Proof.Machine.execQuadReadWords addr late s
  | .readSlaveStatus => Sys2Proof.Machine.execReadSlaveStatus s
  | .chipSelectRise => Sys2Proof.Machine.execChipSelectRise s
  | .mgmtRequest mac vid payload => Sys2Proof.Machine.execMgmtRequest mac vid payload s
  | .hstNkey0Write path value => Sys2Proof.Machine.execHstNkey0Write path value s
  | .hstNkey7Write path value => Sys2Proof.Machine.execHstNkey7Write path value s
  | .pageKeyWrite path page value => Sys2Proof.Machine.execPageKeyWrite path page value s
  | .pageKeyTimeout page => Sys2Proof.Machine.execPageKeyTimeout page s
  | .softReset path page => Sys2Proof.Machine.execSoftReset path page s
  | .freeze path page on => Sys2Proof.Machine.execFreeze path page on s
  | .evtPendClear path page value fresh => Sys2Proof.Machine.execEvtPendClear path page value fresh s
  | .msixUnmask vector => Sys2Proof.Machine.execMsixUnmask vector s
  | .devWdtCtrlWrite path value => Sys2Proof.Machine.execDevWdtCtrlWrite path value s
  | .wdtKick path value => Sys2Proof.Machine.execWdtKick path value s
  | .wdtWarn => Sys2Proof.Machine.execWdtWarn s
  | .wdtExpire => Sys2Proof.Machine.execWdtExpire s
  | .samplePeriod ptpAdvance => Sys2Proof.Machine.execSamplePeriod ptpAdvance s
  | .blockBoundary => Sys2Proof.Machine.execBlockBoundary s
  | .actArm path slot value => Sys2Proof.Machine.execActArm path slot value s
  | .actCancel path slot value => Sys2Proof.Machine.execActCancel path slot value s
  | .developCheckDone => Sys2Proof.Machine.execDevelopCheckDone s
  | .develop => Sys2Proof.Machine.execDevelop s
  | .timedWrite slot => Sys2Proof.Machine.execTimedWrite slot s
  | .timer slot => Sys2Proof.Machine.execTimer slot s
  | .stageSwitch stage => Sys2Proof.Machine.execStageSwitch stage s
  | .drainEnd => Sys2Proof.Machine.execDrainEnd s
  | .refill path value => Sys2Proof.Machine.execRefill path value s
  | .refillDone => Sys2Proof.Machine.execRefillDone s
  | .jobRelease job => Sys2Proof.Machine.execJobRelease job s
  | .runAhead job => Sys2Proof.Machine.execRunAhead job s
  | .jobStart hen => Sys2Proof.Machine.execJobStart hen s
  | .steal hen => Sys2Proof.Machine.execSteal hen s
  | .runEnd hen => Sys2Proof.Machine.execRunEnd hen s
  | .late job => Sys2Proof.Machine.execLate job s
  | .henEccError hen => Sys2Proof.Machine.execHenEccError hen s
  | .abandon job => Sys2Proof.Machine.execAbandon job s
  | .flockGateRequest path flock => Sys2Proof.Machine.execFlockGateRequest path flock s
  | .flockUngate path flock => Sys2Proof.Machine.execFlockUngate path flock s
  | .ungated flock => Sys2Proof.Machine.execUngated flock s
  | .schEnableWrite path value => Sys2Proof.Machine.execSchEnableWrite path value s
  | .wordIssue hen => Sys2Proof.Machine.execWordIssue hen s
  | .deadlineAlarm hen => Sys2Proof.Machine.execDeadlineAlarm hen s
  | .doorbell hen debug => Sys2Proof.Machine.execDoorbell hen debug s
  | .interruptEntry hen => Sys2Proof.Machine.execInterruptEntry hen s
  | .crossfadeEnd bus => Sys2Proof.Machine.execCrossfadeEnd bus s
  | .mixMtrClr path value => Sys2Proof.Machine.execMixMtrClr path value s
  | .locked conv ratio => Sys2Proof.Machine.execLocked conv ratio s
  | .lockLost conv outOfRange => Sys2Proof.Machine.execLockLost conv outOfRange s
  | .serialFrame group bits bclks => Sys2Proof.Machine.execSerialFrame group bits bclks s
  | .biphaseFrame group lane sub1 sub2 => Sys2Proof.Machine.execBiphaseFrame group lane sub1 sub2 s
  | .laneLock group lane => Sys2Proof.Machine.execLaneLock group lane s
  | .csNew group lane => Sys2Proof.Machine.execCsNew group lane s
  | .fwinWindowEnd group mediaCycles => Sys2Proof.Machine.execFwinWindowEnd group mediaCycles s
  | .clkLost group => Sys2Proof.Machine.execClkLost group s
  | .clkOk group => Sys2Proof.Machine.execClkOk group s
  | .sapgApply path group => Sys2Proof.Machine.execSapgApply path group s
  | .applied group => Sys2Proof.Machine.execApplied group s
  | .slip group => Sys2Proof.Machine.execSlip group s
  | .sapgEnableWrite path group value => Sys2Proof.Machine.execSapgEnableWrite path group value s
  | .linkUp port full => Sys2Proof.Machine.execLinkUp port full s
  | .linkDown port => Sys2Proof.Machine.execLinkDown port s
  | .ethEnableWrite path port value => Sys2Proof.Machine.execEthEnableWrite path port value s
  | .frameReceive port frame ts => Sys2Proof.Machine.execFrameReceive port frame ts s
  | .frameTransmit port ts => Sys2Proof.Machine.execFrameTransmit port ts s
  | .addressAgeOut index => Sys2Proof.Machine.execAddressAgeOut index s
  | .atuReadIndex path => Sys2Proof.Machine.execAtuReadIndex path s
  | .atuWriteStatic path => Sys2Proof.Machine.execAtuWriteStatic path s
  | .atuDeleteKey path => Sys2Proof.Machine.execAtuDeleteKey path s
  | .atuLookupKey path => Sys2Proof.Machine.execAtuLookupKey path s
  | .atuFlushDynamic path ports => Sys2Proof.Machine.execAtuFlushDynamic path ports s
  | .ringCheckReceive port mac seq => Sys2Proof.Machine.execRingCheckReceive port mac seq s
  | .ringOpen net => Sys2Proof.Machine.execRingOpen net s
  | .ringChangeReceive port mac seq => Sys2Proof.Machine.execRingChangeReceive port mac seq s
  | .pauseReceive port quanta => Sys2Proof.Machine.execPauseReceive port quanta s
  | .pauseEnd port => Sys2Proof.Machine.execPauseEnd port s
  | .pauseBroken port => Sys2Proof.Machine.execPauseBroken port s
  | .holdEnd port => Sys2Proof.Machine.execHoldEnd port s
  | .mdioAddress path phy dev => Sys2Proof.Machine.execMdioAddress path phy dev s
  | .mdioWrite path cl45 phy reg => Sys2Proof.Machine.execMdioWrite path cl45 phy reg s
  | .mdioRead path cl45 phy reg => Sys2Proof.Machine.execMdioRead path cl45 phy reg s
  | .mdioReadInc path phy dev => Sys2Proof.Machine.execMdioReadInc path phy dev s
  | .mdioDone answer => Sys2Proof.Machine.execMdioDone answer s
  | .copyReceive port frame => Sys2Proof.Machine.execCopyReceive port frame s
  | .underrun stream => Sys2Proof.Machine.execUnderrun stream s
  | .playoutDeadline => Sys2Proof.Machine.execPlayoutDeadline s
  | .srcLost stream => Sys2Proof.Machine.execSrcLost stream s
  | .streamPacketQueue stream => Sys2Proof.Machine.execStreamPacketQueue stream s
  | .strxApply path => Sys2Proof.Machine.execStrxApply path s
  | .sttxApply path => Sys2Proof.Machine.execSttxApply path s
  | .streamApplied transmit => Sys2Proof.Machine.execStreamApplied transmit s
  | .sync port m => Sys2Proof.Machine.execSync port m s
  | .followUp port m => Sys2Proof.Machine.execFollowUp port m s
  | .announce port m => Sys2Proof.Machine.execAnnounce port m s
  | .delayReq port m => Sys2Proof.Machine.execDelayReq port m s
  | .delayResp port m => Sys2Proof.Machine.execDelayResp port m s
  | .pdelayReq port m => Sys2Proof.Machine.execPdelayReq port m s
  | .pdelayResp port m => Sys2Proof.Machine.execPdelayResp port m s
  | .pdelayRespFollowUp port m => Sys2Proof.Machine.execPdelayRespFollowUp port m s
  | .syncSend => Sys2Proof.Machine.execSyncSend s
  | .announceSend => Sys2Proof.Machine.execAnnounceSend s
  | .delayReqSend port => Sys2Proof.Machine.execDelayReqSend port s
  | .ptpLocked => Sys2Proof.Machine.execPtpLocked s
  | .masterLost => Sys2Proof.Machine.execMasterLost s
  | .ptpTodWrite path value => Sys2Proof.Machine.execPtpTodWrite path value s
  | .todApply => Sys2Proof.Machine.execTodApply s
  | .ptpConfigApply => Sys2Proof.Machine.execPtpConfigApply s
  | .candChange cand present => Sys2Proof.Machine.execCandChange cand present s
  | .switchDone => Sys2Proof.Machine.execSwitchDone s
  | .switchFail => Sys2Proof.Machine.execSwitchFail s
  | .wtrEnd cand => Sys2Proof.Machine.execWtrEnd cand s
  | .freqMeasure averages temperature => Sys2Proof.Machine.execFreqMeasure averages temperature s
  | .holdoverUpdate temperature => Sys2Proof.Machine.execHoldoverUpdate temperature s
  | .ageUpd => Sys2Proof.Machine.execAgeUpd s
  | .specEnd => Sys2Proof.Machine.execSpecEnd s
  | .serviceChange => Sys2Proof.Machine.execServiceChange s
  | .apllLost => Sys2Proof.Machine.execApllLost s
  | .apllRelock => Sys2Proof.Machine.execApllRelock s
  | .twinLinkUp peer => Sys2Proof.Machine.execTwinLinkUp peer s
  | .twinLinkDown => Sys2Proof.Machine.execTwinLinkDown s
  | .laneFail => Sys2Proof.Machine.execLaneFail s
  | .heartbeatSend => Sys2Proof.Machine.execHeartbeatSend s
  | .twinHeartbeat hb => Sys2Proof.Machine.execTwinHeartbeat hb s
  | .hbSilence => Sys2Proof.Machine.execHbSilence s
  | .hbStall => Sys2Proof.Machine.execHbStall s
  | .netHeartbeat port payload => Sys2Proof.Machine.execNetHeartbeat port payload s
  | .nhbMiss => Sys2Proof.Machine.execNhbMiss s
  | .blockMessageSend => Sys2Proof.Machine.execBlockMessageSend s
  | .blockMessage m => Sys2Proof.Machine.execBlockMessage m s
  | .blockMessageMissed => Sys2Proof.Machine.execBlockMessageMissed s
  | .mirroredWrite seq req boundary => Sys2Proof.Machine.execMirroredWrite seq req boundary s
  | .mirrorWriteRelease => Sys2Proof.Machine.execMirrorWriteRelease s
  | .mirrorBlock block samples concealed taint => Sys2Proof.Machine.execMirrorBlock block samples concealed taint s
  | .mirrorBlockMissed => Sys2Proof.Machine.execMirrorBlockMissed s
  | .digestReceive block taint digest => Sys2Proof.Machine.execDigestReceive block taint digest s
  | .resync path value => Sys2Proof.Machine.execResync path value s
  | .bankCopyDone latent bytes boundary => Sys2Proof.Machine.execBankCopyDone latent bytes boundary s
  | .sliceInstall convs insts last => Sys2Proof.Machine.execSliceInstall convs insts last s
  | .resyncDone channels => Sys2Proof.Machine.execResyncDone channels s
  | .driveBoundary => Sys2Proof.Machine.execDriveBoundary s
  | .driveInChange level => Sys2Proof.Machine.execDriveInChange level s
  | .feedLost => Sys2Proof.Machine.execFeedLost s
  | .relinquish path value => Sys2Proof.Machine.execRelinquish path value s
  | .relinquishToFollower => Sys2Proof.Machine.execRelinquishToFollower s
  | .relinquishWitnessExpire => Sys2Proof.Machine.execRelinquishWitnessExpire s
  | .leadership => Sys2Proof.Machine.execLeadership s
  | .orphan => Sys2Proof.Machine.execOrphan s
  | .joinTakeover tl ofs slots => Sys2Proof.Machine.execJoinTakeover tl ofs slots s
  | .sampleFeed => Sys2Proof.Machine.execSampleFeed s
  | .periodBoundary ch psocA psocB => Sys2Proof.Machine.execPeriodBoundary ch psocA psocB s
  | .trip ch => Sys2Proof.Machine.execTrip ch s
  | .psocRise ch legB => Sys2Proof.Machine.execPsocRise ch legB s
  | .channelStart ch => Sys2Proof.Machine.execChannelStart ch s
  | .diagStep ch psocA psocB sense => Sys2Proof.Machine.execDiagStep ch psocA psocB sense s
  | .rampStart ch => Sys2Proof.Machine.execRampStart ch s
  | .rampEnd ch => Sys2Proof.Machine.execRampEnd ch s
  | .channelStop ch => Sys2Proof.Machine.execChannelStop ch s
  | .stopEnd ch => Sys2Proof.Machine.execStopEnd ch s
  | .feedStall => Sys2Proof.Machine.execFeedStall s
  | .unmute => Sys2Proof.Machine.execUnmute s
  | .restart path ch => Sys2Proof.Machine.execRestart path ch s
  | .diag path ch => Sys2Proof.Machine.execDiag path ch s
  | .psEnableWrite path ctl value => Sys2Proof.Machine.execPsEnableWrite path ctl value s
  | .psmBandWrite path band second value => Sys2Proof.Machine.execPsmBandWrite path band second value s
  | .railConversion rail code => Sys2Proof.Machine.execRailConversion rail code s
  | .muleStart path mule => Sys2Proof.Machine.execMuleStart path mule s
  | .muleStop path mule => Sys2Proof.Machine.execMuleStop path mule s
  | .moveLinear mule => Sys2Proof.Machine.execMoveLinear mule s
  | .moveI2p mule => Sys2Proof.Machine.execMoveI2p mule s
  | .moveP2i mule => Sys2Proof.Machine.execMoveP2i mule s
  | .moveTranspose mule => Sys2Proof.Machine.execMoveTranspose mule s
  | .muleLoop mule => Sys2Proof.Machine.execMuleLoop mule s
  | .waitBlock mule => Sys2Proof.Machine.execWaitBlock mule s
  | .waitTl mule => Sys2Proof.Machine.execWaitTl mule s
  | .waitFlag mule => Sys2Proof.Machine.execWaitFlag mule s
  | .signalFlag mule => Sys2Proof.Machine.execSignalFlag mule s
  | .signalEvent mule => Sys2Proof.Machine.execSignalEvent mule s
  | .signalRelease mule => Sys2Proof.Machine.execSignalRelease mule s
  | .muleJump mule => Sys2Proof.Machine.execMuleJump mule s
  | .muleEnd mule => Sys2Proof.Machine.execMuleEnd mule s
  | .muleIllegal mule served => Sys2Proof.Machine.execMuleIllegal mule served s
  | .runaway mule served => Sys2Proof.Machine.execRunaway mule served s
  | .muleTimeout mule addr acked tail served => Sys2Proof.Machine.execMuleTimeout mule addr acked tail served s
  | .busErr mule addr acked tail served => Sys2Proof.Machine.execBusErr mule addr acked tail served s
  | .muleRestart mule => Sys2Proof.Machine.execMuleRestart mule s
  | .mulHflagSet path page value => Sys2Proof.Machine.execMulHflagSet path page value s
  | .mulHflagClr path page value signalled => Sys2Proof.Machine.execMulHflagClr path page value signalled s
  | .fenceTimeout domain => Sys2Proof.Machine.execFenceTimeout domain s
  | .domainPowerDown domain => Sys2Proof.Machine.execDomainPowerDown domain s
  | .beatGrant target now beats => Sys2Proof.Machine.execBeatGrant target now beats s
  | .lockBreak bank held => Sys2Proof.Machine.execLockBreak bank held s
  | .ceWriteback addr => Sys2Proof.Machine.execCeWriteback addr s
  | .scrubLine mem addr found => Sys2Proof.Machine.execScrubLine mem addr found s
  | .prio path value => Sys2Proof.Machine.execPrio path value s
  | .prioDone ce ue => Sys2Proof.Machine.execPrioDone ce ue s
  | .lpPowerOn jedec calEn => Sys2Proof.Machine.execLpPowerOn jedec calEn s
  | .lpVddLoss => Sys2Proof.Machine.execLpVddLoss s
  | .lpReset => Sys2Proof.Machine.execLpReset s
  | .lpFrame x0 x1 => Sys2Proof.Machine.execLpFrame x0 x1 s
  | .lafUpdate => Sys2Proof.Machine.execLafUpdate s
  | .intervalEnd badProgram => Sys2Proof.Machine.execIntervalEnd badProgram s
  | .lpId => Sys2Proof.Machine.execLpId s
  | .lpTime => Sys2Proof.Machine.execLpTime s
  | .lpHead => Sys2Proof.Machine.execLpHead s
  | .lpRead a n => Sys2Proof.Machine.execLpRead a n s
  | .lpLive => Sys2Proof.Machine.execLpLive s
  | .setTime calEn y mo d h mi sec => Sys2Proof.Machine.execSetTime calEn y mo d h mi sec s
  | .lpTrim calEn v => Sys2Proof.Machine.execLpTrim calEn v s
  | .lpCal calEn k level vddLow => Sys2Proof.Machine.execLpCal calEn k level vddLow s
  | .calDone vddLow => Sys2Proof.Machine.execCalDone vddLow s
  | .calEnFall => Sys2Proof.Machine.execCalEnFall s
  | .lpOffset calEn k v vddLow => Sys2Proof.Machine.execLpOffset calEn k v vddLow s
  | .lpAlert calEn q l h => Sys2Proof.Machine.execLpAlert calEn q l h s
  | .logSec calEn on => Sys2Proof.Machine.execLogSec calEn on s
  | .lpKey calEn words vddLow => Sys2Proof.Machine.execLpKey calEn words vddLow s
  | .lpmReqGo path value => Sys2Proof.Machine.execLpmReqGo path value s
  | .reqDone => Sys2Proof.Machine.execReqDone s
  | .powerOnReset posA ioa3v3 => Sys2Proof.Machine.execPowerOnReset posA ioa3v3 s
  | .brownOut rail mv => Sys2Proof.Machine.execBrownOut rail mv s
  | .resetN low100ns posA => Sys2Proof.Machine.execResetN low100ns posA s
  | .device path => Sys2Proof.Machine.execDevice path s
  | .functionLevelReset => Sys2Proof.Machine.execFunctionLevelReset s
  | .railBelowWarning rail mv => Sys2Proof.Machine.execRailBelowWarning rail mv s
  | .boWarn rail mv least samples => Sys2Proof.Machine.execBoWarn rail mv least samples s
  | .dipScrub => Sys2Proof.Machine.execDipScrub s
  | .dipRelinquish => Sys2Proof.Machine.execDipRelinquish s
  | .dipQuiesce => Sys2Proof.Machine.execDipQuiesce s
  | .bootSearch flash0 flash1 => Sys2Proof.Machine.execBootSearch flash0 flash1 s
  | .push path => Sys2Proof.Machine.execPush path s
  | .bootComplete => Sys2Proof.Machine.execBootComplete s
  | .modeReqStandalone path => Sys2Proof.Machine.execModeReqStandalone path s
  | .modeReqLeader path => Sys2Proof.Machine.execModeReqLeader path s
  | .modeReqFollower path => Sys2Proof.Machine.execModeReqFollower path s
  | .modeReqQuiesce path => Sys2Proof.Machine.execModeReqQuiesce path s
  | .modeReqReturn path target => Sys2Proof.Machine.execModeReqReturn path target s
  | .modeReqDark path wakePin => Sys2Proof.Machine.execModeReqDark path wakePin s
  | .modeReqCommission path => Sys2Proof.Machine.execModeReqCommission path s
  | .changed => Sys2Proof.Machine.execChanged s
  | .darkEntry => Sys2Proof.Machine.execDarkEntry s
  | .wakePin => Sys2Proof.Machine.execWakePin s
  | .loupeAlarm => Sys2Proof.Machine.execLoupeAlarm s
  | .audioReady => Sys2Proof.Machine.execAudioReady s
  | .prog path => Sys2Proof.Machine.execProg path s
  | .fuseDone => Sys2Proof.Machine.execFuseDone s
  | .fuseHoldTimeout => Sys2Proof.Machine.execFuseHoldTimeout s
  | .twlOff path value => Sys2Proof.Machine.execTwlOff path value s
  | .hotReset lanes gen => Sys2Proof.Machine.execHotReset lanes gen s
  | .pcieLinkDown => Sys2Proof.Machine.execPcieLinkDown s
  | .laneReturn => Sys2Proof.Machine.execLaneReturn s
  | .lpVbatLoss => Sys2Proof.Machine.execLpVbatLoss s
  | .anFail port => Sys2Proof.Machine.execAnFail port s
  | .biphaseOutputFrame group lane => Sys2Proof.Machine.execBiphaseOutputFrame group lane s

end Sys2Proof.Machine
end

