-- ==== Sys2Proof/Safety.lean ====
section
/-! DEFINITION. The terms that statements about the machine are made of: which parts of the state two states share, what
follows a command in the same cycle, what it is for a command to complete, an error recorded, and the canonical form of the memories. -/

namespace Sys2Proof.Machine

/-- The parts of the state. -/
inductive Part where
  | pending | outs | free | clk | tl | smp | tlOfs | due | mode | regs | inForce | host | elog | slots | dev | active | latent | shm | hens
  | jobs | audio | ptp | ref | eth | str | psm | twin | fab | rails | pwr | lp
  deriving DecidableEq, Repr

/-- Two states agree in a part. -/
def Part.same : Part → State → State → Prop
  | .pending, s, t => t.pending = s.pending
  | .outs, s, t => t.outs = s.outs
  | .free, s, t => t.freeCtr = s.freeCtr
  | .clk, s, t => t.clk = s.clk
  | .tl, s, t => t.tl = s.tl
  | .smp, s, t => t.smp = s.smp
  | .tlOfs, s, t => t.tlOfs = s.tlOfs
  | .due, s, t => t.bndDue = s.bndDue
  | .mode, s, t => t.mode = s.mode
  | .regs, s, t => t.regs = s.regs
  | .inForce, s, t => t.inForce = s.inForce
  | .host, s, t => t.host = s.host
  | .elog, s, t => t.elog = s.elog ∧ t.elogSeq = s.elogSeq
  | .slots, s, t => t.slots = s.slots
  | .dev, s, t => t.dev = s.dev
  | .active, s, t => t.active = s.active
  | .latent, s, t => t.latent = s.latent
  | .shm, s, t => t.shm = s.shm
  | .hens, s, t => t.hens = s.hens
  | .jobs, s, t => t.jobs = s.jobs
  | .audio, s, t => t.audio = s.audio
  | .ptp, s, t => t.ptp = s.ptp
  | .ref, s, t => t.ref = s.ref
  | .eth, s, t => t.eth = s.eth
  | .str, s, t => t.str = s.str
  | .psm, s, t => t.psm = s.psm
  | .twin, s, t => t.twin = s.twin
  | .fab, s, t => t.fab = s.fab
  | .rails, s, t => t.rails = s.rails
  | .pwr, s, t => t.pwr = s.pwr
  | .lp, s, t => t.lp = s.lp

/-- Nothing outside the parts named has changed from the first state to the second. -/
def Only (parts : List Part) (s t : State) : Prop := ∀ p, p ∉ parts → p.same s t

/-- No stored register outside the addresses named has changed. -/
def RegsOnly (addrs : List Nat) (s t : State) : Prop := ∀ a, a ∉ addrs → t.getW a = s.getW a

/-- The address of a page's EVT_PEND. -/
def evtAddr (page : Nat) : Nat := pageAddr page 0x018

/-- A bit of a page's EVT_PEND. -/
def State.pend (s : State) (page bit : Nat) : Bool := bitN (s.getW (evtAddr page)).toNat bit == 1

/-- A counter field has advanced by one; it holds at its greatest value. -/
def Counted (s t : State) (f : RField) : Prop := t.rd f = min (s.rd f + 1) (2 ^ f.w - 1)

/-- The register words of a page that an error record writes (R50). -/
def errAddrs (page : Nat) : List Nat :=
  [pageAddr page 0x018, pageAddr page 0x020, pageAddr page 0x024, pageAddr page 0x028, pageAddr page 0x02C]

/-- What leaves in the cycle of a command because of what it changed: a message of an MSI-X vector, or a pin's new level. -/
def Emit.follows : Emit → Bool
  | .msix _ _ _ => true | .pin _ _ => true | _ => false

/-- What follows a command in the same cycle (R48, R49): EVT_PEND bits 1 and 2 of some pages rise, MSI-X messages leave or are left
pending, and pins change. Nothing else changes. -/
def Settled (t u : State) : Prop :=
  Only [.regs, .outs, .host] t u ∧
  u.host = { t.host with msixPend := u.host.msixPend } ∧
  RegsOnly (allPages.map evtAddr) t u ∧
  (∀ page bit, bit ≠ 1 → bit ≠ 2 → u.pend page bit = t.pend page bit) ∧
  (∀ page bit, t.pend page bit = true → u.pend page bit = true) ∧
  ∃ es : List Emit, u.outs = es ++ t.outs ∧ es.all Emit.follows = true

/-- A command completes: it answers a next state, which is a state of which `P` holds with what follows in the same cycle. -/
def Completes (c : Instr) (s : State) (P : State → Prop) : Prop := ∃ t u, exec c s = .next u ∧ Settled t u ∧ P t

/-- No access of a host path waits (R34, R297, R372, R378). -/
abbrev Quiet (s : State) : Prop := s.fab.hostWait = []

/-- The newest record of the error log, over the state before (R50, R53). -/
def Logged (s t : State) (page off code path : Nat) (data : Word) : Prop :=
  t.elogSeq = s.elogSeq + 1 ∧ t.elog = (⟨s.elogSeq + 1, s.tl, s.calStamp, page, code, off, path, data⟩ :: s.elog).take 64

/-- A path's register write at an address is taken by this chip at once (R297, R299, R43): it is local or not of a host path, or the chip is
neither FOLLOWER nor LEADER nor QUIESCE; and it is no write of network management to the HST page. -/
abbrev Taken (s : State) (path : Path) (addr : Nat) (value : Word) : Prop :=
  (path = .nmgt → addr / 0x1000 ≠ 0x40001) ∧
  (hostPath path.code = false ∨ s.localReg addr value = true ∨
    (s.mode.cur ≠ .follower ∧ s.mode.cur ≠ .leader ∧ s.mode.cur ≠ .quiesce))

/-- A path may write a protected register of a page: it holds the key, or is the twin's (R51, R298). -/
abbrev Unlocked (s : State) (path : Path) (page : Nat) : Prop := path = .twin ∨ s.holdsKey page path.code = true

/-- A write of any kind by a path is taken by this chip at once. -/
abbrev TakenAny (s : State) (path : Path) : Prop :=
  hostPath path.code = false ∨ (s.mode.cur ≠ .follower ∧ s.mode.cur ≠ .leader ∧ s.mode.cur ≠ .quiesce)

/-- A path's access is answered, and nothing else leaves the device. -/
def Answered (s t : State) (path : Path) (ok : Bool) (words : List Word) : Prop := t.outs = .response path.code ok words :: s.outs

/-- Of the host interfaces nothing but page keys has changed. -/
def KeysOnly (s t : State) : Prop := t.host = { s.host with keys := t.host.keys }

/-- A write of a path to a page: the key that the path held is released, every other key stands (R51). -/
def KeyUsed (s t : State) (path : Path) (page : Nat) : Prop :=
  (∀ p, p ≠ page → t.keyOf p = s.keyOf p) ∧ t.keyOf page = if s.holdsKey page path.code then none else s.keyOf page

/-- A record that the Loupe has logged since `l` (R398, R399): the next sequence number, in the slot that was next, with the fields of Table
15.4; the slot that follows is next, its sector is erased where it begins one, and no other slot has changed. LPM event RECORD is set. -/
def Recorded (l : LpSt) (t : State) (type flags time : Nat) (payload : Bytes) : Prop :=
  t.lp.seqNew = l.seqNew + 1 ∧ t.lp.slot = (if l.slot + 1 < l.nslots then l.slot + 1 else 0) ∧
  tget erased t.lp.flash l.slot = t.lp.mkRecord (l.seqNew + 1) type flags time payload ∧
  (∀ k, k ≠ l.slot → (t.lp.slot % 64 ≠ 0 ∨ k / 64 ≠ t.lp.slot / 64) → tget erased t.lp.flash k = tget erased l.flash k) ∧
  (t.lp.slot % 64 = 0 → ∀ k, k / 64 = t.lp.slot / 64 → tget erased t.lp.flash k = []) ∧
  t.pend Pg.LPM 9 = true

/-- The flags of an event record (Table 15.4): those of the moment, and LP_CAL_EN. -/
def LpSt.eventFlags (l : LpSt) : Nat := l.stdFlags + if l.calEn then 16 else 0

/-- The memories are in canonical form: addresses rising, no byte equal to what an unlisted byte reads as. -/
def MemoryWf (s : State) : Prop :=
  twf bankD s.active = true ∧ twf bankD s.latent = true ∧ twf zeroByte s.shm = true ∧ twf zeroByte s.fab.pbuf = true ∧
  ∀ h, twf zeroByte (s.hen h).imem = true ∧ twf zeroByte (s.hen h).dmem = true

end Sys2Proof.Machine
end

