-- ==== Sys2Proof/Certificates/Slice0/Obligations.lean ====
section
/-! DEFINITION. The statements about the machine, each a `Prop`, in the order of the spec's chapters. A statement says of a command under
which conditions on the state and the operands alone it completes, what the state it completes with holds, and what it leaves alone. -/

open Sys2Proof
open Sys2Proof.Machine

/-! The machine as a whole. -/

/-- A step takes the command at the front of the queue and is `exec` of it on the state with the queue's rest. -/
def Obligations.StepRunsFront : Prop :=
  ∀ (c : Instr) (rest : List Instr) (s : State), s.pending = c :: rest → step s = exec c { s with pending := rest }

/-- With no command waiting one tick passes, up to the last tick of the sample (the model's choice, log entry 1).
SAMPLE_PERIOD. Where TL counts and no work of the present TL is left, TL and the running count advance by exactly one, the tick count
goes to the next sample, PTP time advances by what its oscillator counts with adj applied, and a boundary is due where the new count is a multiple of 8; while work is left nothing
changes; in BOOT and DARK TL stands.
BLOCK_BOUNDARY does the work of a boundary once: with none due nothing changes; else none is due after it, the counts of time stand, and
the default crossfade length and step in force are those that MIX_STEP holds; in DARK the ring managers alone act.
Each of these commands is shown to complete: samplePeriod, blockBoundary. -/
def Obligations.TicksSamplesAndBlocks : Prop :=
  (∀ s : State, s.pending = [] →
     (s.clk % 128 ≠ 127 → step s = .next { s with clk := s.clk + 1 }) ∧ (s.clk % 128 = 127 → step s = .next s)) ∧
  (∀ (s : State) (adv : Nat), Quiet s →
     (s.mode.cur.counts = true → s.workDue = false →
       Completes (.samplePeriod adv) s (fun t =>
         t.tl = s.tl + 1 ∧ t.smp = s.smp + 1 ∧ t.clk = (s.clk / 128 + 1) * 128 ∧ (t.bndDue = true ↔ (s.smp + 1) % 8 = 0) ∧
         t.ptp = { s.ptp with time := s.ptp.time + adv + adv * s.ptp.adjNow / (65536 * 1000000000) } ∧ Only [.clk, .tl, .smp, .due, .ptp, .regs, .jobs, .audio, .psm] s t)) ∧
     (s.mode.cur.counts = true → s.workDue = true → Completes (.samplePeriod adv) s (fun t => Only [] s t)) ∧
     (s.mode.cur.counts = false →
       Completes (.samplePeriod adv) s (fun t =>
         t.clk = (s.clk / 128 + 1) * 128 ∧ t.ptp = { s.ptp with time := s.ptp.time + adv + adv * s.ptp.adjNow / (65536 * 1000000000) } ∧ Only [.clk, .due, .ptp] s t))) ∧
  (∀ s : State, Quiet s →
     (s.bndDue = false → Completes .blockBoundary s (fun t => Only [] s t)) ∧
     (s.bndDue = true → s.mode.cur ≠ .dark →
       Completes .blockBoundary s (fun t =>
         t.bndDue = false ∧ t.clk = s.clk ∧ t.smp = s.smp ∧ tget resetWord t.inForce A.MIX_STEP = s.getW A.MIX_STEP)) ∧
     (s.bndDue = true → s.mode.cur = .dark →
       Completes .blockBoundary s (fun t => t.bndDue = false ∧ Only [.due, .regs, .eth] s t)))

/-- Every command answers a next state; where no host write waits after it, that state is followed by nothing but the events FAULT and
DEGRADED and MSI-X messages. -/
def Obligations.EveryCommandAnswers : Prop :=
  ∀ (c : Instr) (s : State), ∃ t, exec c s = .next (finish s t) ∧ (t.fab.hostWait = [] → Settled t (finish s t))

/-- The machine right after power-on reset: BOOT, TL and TL_OFS 0, no error recorded, no key loaded, every action slot empty, DEVELOP_STATE
IDLE, the banks at their reset contents, every mule and channel at rest, and DEV_ID as R1 gives it. -/
def Obligations.ResetState : Prop :=
  State.reset.mode.cur = .boot ∧ State.reset.tl = 0 ∧ State.reset.tlOfs = 0 ∧ State.reset.elogSeq = 0 ∧ State.reset.host.keyValid = false ∧
  State.reset.host.seq = 0 ∧ (∀ n, State.reset.slot n = slot0 n) ∧ State.reset.dev.state = .idle ∧
  (∀ a, tget bankD State.reset.active a = bankD a ∧ tget bankD State.reset.latent a = bankD a) ∧
  (∀ m, (State.reset.mule m).st = .idle) ∧ (∀ c, (State.reset.ps c).st = .off) ∧
  (∀ a, State.reset.getW a = resetWord a) ∧ (State.reset.readWord Pg.DEV 0x040).1 = 0x4B5A2048

/-- The memories keep their canonical form over every step. -/
def Obligations.StepKeepsMemoryWf : Prop :=
  ∀ s t : State, MemoryWf s → step s = .next t → MemoryWf t

/-- The memories are in canonical form after reset. -/
def Obligations.ResetMemoryWf : Prop := MemoryWf State.reset

/-! Chapter 02: host accesses. -/

/-- REGISTER_WRITE of a page's EVT_EN, EVT_ROUTE or PAGE_KEY-free header: a word write that its chip takes is answered without error; EVT_EN
takes every bit that names an event and EVT_ROUTE its route and vector, and no other register changes.
EVT_PEND_CLEAR: a bit written 1 is cleared, unless its event occurs in the same cycle. MSIX_UNMASK clears the mask bit of its vector; while the link is up,
MSI-X is on and the function is not masked it sends the vector's pending message, with the address and data of its table entry, and clears its
pending bit; no other vector changes.
Each of these commands is shown to complete: registerWrite, evtPendClear, msixUnmask. -/
def Obligations.PageHeaderAndEvents : Prop :=
  (∀ (s : State) (path : Path) (page : Nat) (v : Word), isPage page = true → Quiet s → (path = .nmgt → page ≠ Pg.HST) →
     Completes (.registerWrite path (.fabric (pageAddr page 0x014)) 4 v) s (fun t =>
       t.getW (pageAddr page 0x014) = v &&& 0xFFFFFF0F ∧ RegsOnly [pageAddr page 0x014] s t ∧ Only [.regs, .host, .outs] s t ∧
       KeysOnly s t ∧ KeyUsed s t path page ∧ Answered s t path true []) ∧
     Completes (.registerWrite path (.fabric (pageAddr page 0x01C)) 4 v) s (fun t =>
       t.getW (pageAddr page 0x01C) = v &&& 0x00001F03 ∧ RegsOnly [pageAddr page 0x01C] s t ∧ Only [.regs, .host, .outs] s t ∧
       KeysOnly s t ∧ KeyUsed s t path page ∧ Answered s t path true [])) ∧
  (∀ (s : State), Quiet s →
     (∀ (path : Path) (page : Fin 128) (v fresh : Word), isPage page.val = true → (path = .nmgt → page.val ≠ Pg.HST) →
       Completes (.evtPendClear path page v fresh) s (fun t =>
         t.getW (evtAddr page.val) = fresh ||| (s.getW (evtAddr page.val) &&& ~~~ v) ∧ RegsOnly [evtAddr page.val] s t ∧
         Only [.regs, .host, .outs] s t ∧ KeysOnly s t ∧ KeyUsed s t path page.val ∧ Answered s t path true [])) ∧
     (∀ v : Fin 32,
       let sends := s.host.msixPend.getLsbD v.val && s.host.pcieUp && s.host.msixOn && !s.host.msixFmask
       Completes (.msixUnmask v) s (fun t =>
         t.host.msixMask.getLsbD v.val = false ∧ t.host.msixPend.getLsbD v.val = (s.host.msixPend.getLsbD v.val && !sends) ∧
         t.outs = (if sends then [s.msixMsg v.val] else []) ++ s.outs ∧
         (∀ w : Fin 32, w ≠ v → t.host.msixMask.getLsbD w.val = s.host.msixMask.getLsbD w.val ∧
           t.host.msixPend.getLsbD w.val = s.host.msixPend.getLsbD w.val) ∧ Only [.host, .outs] s t)))

/-- REGISTER_WRITE of another width or alignment to a register page returns an error response and changes nothing but what records it: PCIe
on the HST page with code 0x40, any other path on the page itself with code 0x03; it counts as the key holder's write. A read of such a width or alignment
(LO_READ_CAPTURE), but of the contact sheet whole, is answered and recorded so too.
REGISTER_WRITE to the default target gets an error response; FAB records address, master 21, the path and that it was a write, and PCIe
records code 0x40 on the HST page. A register page is reached at its offset in BAR0 as at its fabric address, and an offset of BAR0 that stands for nothing is the
default target.
Each of these commands is shown to complete: loReadCapture, registerWrite. -/
def Obligations.FailedWrites : Prop :=
  (∀ (s : State) (path : Path) (page off size : Nat) (v : Word), isPage page = true → off < 0x1000 → Quiet s →
     (size ≠ 4 ∨ off % 4 ≠ 0) →
     (¬(page = Pg.DEV ∧ off = 0x080 ∧ size = 64) →
      Completes (.loReadCapture path (.fabric (pageAddr page off)) size) s (fun t =>
       Answered s t path false [] ∧ Only [.regs, .elog, .outs] s t ∧
       (path = .pcie → RegsOnly (A.HST_WERR_ADDR :: errAddrs Pg.HST) s t ∧ Logged s t Pg.HST 0 0x40 1 (BitVec.ofNat 32 (pageAddr page off))) ∧
       (path ≠ .pcie → RegsOnly (errAddrs page) s t ∧ Logged s t page off 0x03 path.code 0))) ∧
     Completes (.registerWrite path (.fabric (pageAddr page off)) size v) s (fun t =>
       Answered s t path false [] ∧ Only [.regs, .elog, .host, .outs] s t ∧ KeysOnly s t ∧ KeyUsed s t path page ∧
       (path = .pcie → RegsOnly (A.HST_WERR_ADDR :: errAddrs Pg.HST) s t ∧ t.getW A.HST_WERR_ADDR = BitVec.ofNat 32 (pageAddr page off) ∧
         Logged s t Pg.HST 0 0x40 1 (BitVec.ofNat 32 (pageAddr page off))) ∧
       (path ≠ .pcie → RegsOnly (errAddrs page) s t ∧ Logged s t page off 0x03 path.code 0))) ∧
  (∀ (s : State) (path : Path) (a : Nat) (v : Word), s.target a = 63 → Quiet s →
     Completes (.registerWrite path (.fabric a) 4 v) s (fun t =>
       Answered s t path false [] ∧ Only [.regs, .elog, .outs] s t ∧ t.getW A.FAB_DERR_ADDR = BitVec.ofNat 32 a ∧
       t.getW A.FAB_DERR_INFO = BitVec.ofNat 32 (21 + 256 + 4096 * path.code) ∧ t.pend Pg.FAB 8 = true ∧
       (path = .pcie → Logged s t Pg.HST 0 0x40 1 (BitVec.ofNat 32 a) ∧ t.getW A.HST_WERR_ADDR = BitVec.ofNat 32 a) ∧
       (path ≠ .pcie → t.elog = s.elog ∧ t.elogSeq = s.elogSeq)) ∧
     (∀ o : Nat, o < 0x100000 → exec (.registerWrite path (.bar0 o) 4 v) s = exec (.registerWrite path (.fabric (0x40000000 + o)) 4 v) s ∧
       exec (.loReadCapture path (.bar0 o) 4) s = exec (.loReadCapture path (.fabric (0x40000000 + o)) 4) s) ∧
     (∀ o : Nat, 0x2800000 ≤ o →
       Completes (.registerWrite path (.bar0 o) 4 v) s (fun t => Answered s t path false [] ∧ t.pend Pg.FAB 8 = true ∧
         Only [.regs, .elog, .free, .outs] s t ∧ (path = .pcie → ∃ w, Logged s t Pg.HST 0 0x40 1 w))))

/-- A 64-bit quantity. LO_READ_CAPTURE of TL_NOW_LO returns the low word and captures the high word for the reading path, whatever TL becomes.
REGISTER_WRITE of an action slot's TL_LO leaves the slot and waits; HI_WRITE_APPLY then takes both words.
CONTACT_SHEET_READ of all 16 words in one beat returns them from one instant: word p / 8 holds the four bits of page p; of DEV_CS0 alone
it returns that word and keeps the 15 words that follow for the same path.
Each of these commands is shown to complete: loReadCapture, registerWrite, hiWriteApply, contactSheetRead. -/
def Obligations.WideReads : Prop :=
  (∀ (s : State) (path : Path), Quiet s →
     (s.frozen Pg.TL = false → s.host.hiCap = [] → s.host.wideCap = [] →
       Completes (.loReadCapture path (.fabric (pageAddr Pg.TL 0x040)) 4) s (fun t =>
         Answered s t path true [BitVec.ofNat 32 (s.tl % 2 ^ 32)] ∧ Only [.host, .outs] s t ∧
         ∀ n : Nat, ({ t with tl := n }.regRead path.code Pg.TL 0x044).1 = BitVec.ofNat 32 (s.tl / 2 ^ 32 % 2 ^ 32))) ∧
     (∀ (slot : Fin 32) (v : Word), (s.slot slot.val).state ≠ .armed → Taken s path (A.TL_ACT_TL_LO slot.val) v →
       Completes (.registerWrite path (.fabric (A.TL_ACT_TL_LO slot.val)) 4 v) s (fun t =>
         Answered s t path true [] ∧ Only [.host, .outs] s t ∧
         tget noWord t.host.loStage (stageKey path.code (A.TL_ACT_TL_LO slot.val)) = some v)) ∧
     (∀ (slot : Fin 32) (v w : Word), (s.slot slot.val).state ≠ .armed → Taken s path (A.TL_ACT_TL_HI slot.val) v →
       tget noWord s.host.loStage (stageKey path.code (A.TL_ACT_TL_LO slot.val)) = some w →
       Completes (.hiWriteApply path (.fabric (A.TL_ACT_TL_HI slot.val)) v) s (fun t =>
         Answered s t path true [] ∧ Only [.slots, .host, .outs] s t ∧
         t.slot slot.val = { s.slot slot.val with tl := v.toNat * 2 ^ 32 + w.toNat } ∧ ∀ n, n ≠ slot.val → t.slot n = s.slot n))) ∧
  (∀ (s : State) (path : Path), Quiet s → s.frozen Pg.DEV = false →
     Completes (.contactSheetRead path true) s (fun t =>
       Answered s t path true ((List.range 16).map fun i => BitVec.ofNat 32 (s.sheetWord i)) ∧ Only [.outs] s t) ∧
     (s.host.hiCap = [] → s.host.wideCap = [] →
       Completes (.contactSheetRead path false) s (fun t =>
         Answered s t path true [BitVec.ofNat 32 (s.sheetWord 0)] ∧ Only [.host, .outs] s t ∧
         ∀ (u : State) (i : Nat), u.host = t.host → 1 ≤ i → i < 16 →
           (u.regRead path.code Pg.DEV (0x080 + 4 * i)).1 = BitVec.ofNat 32 (s.sheetWord i))))

/-- The QSPI and SPI slave. WRITE_WORDS and QUAD_WRITE_WORDS carry out each whole word at an address that advances by 4; READ_WORDS and
QUAD_READ_WORDS answer the register word that stands, an EVT_EN word as it was written, and send a word that comes late as 0 and set LATE; READ_SLAVE_STATUS returns ERR, LATE and WR_PEND and clears the first two;
CHIP_SELECT_RISE ends the transaction, and the bits of a word cut short are never written.
Each of these commands is shown to complete: writeWords, quadWriteWords, readWords, quadReadWords, readSlaveStatus, chipSelectRise. -/
def Obligations.SlaveTransactions : Prop :=
  ∀ (s : State) (a : Nat), Quiet s →
    (∀ cut : Fin 32,
      let opened (t : State) : Prop := t.host = { s.host with slave := some ⟨true, a % 2 ^ 32, cut.val⟩ } ∧ Only [.host] s t
      Completes (.writeWords a [] cut) s opened ∧ Completes (.quadWriteWords a [] cut) s opened) ∧
    (∀ (page : Nat) (v w : Word) (cut : Fin 32), isPage page = true →
      let sent (t : State) : Prop := t.getW (pageAddr page 0x014) = v &&& 0xFFFFFF0F ∧ RegsOnly [pageAddr page 0x014, evtAddr page] s t ∧
        Only [.regs, .host] s t ∧ t.host = { s.host with keys := t.host.keys, slave := some ⟨true, pageAddr page 0x01C, cut.val⟩ } ∧
        t.getW (evtAddr page) = s.getW (evtAddr page) &&& ~~~ w
      Completes (.writeWords (pageAddr page 0x014) [v, w] cut) s sent ∧ Completes (.quadWriteWords (pageAddr page 0x014) [v, w] cut) s sent) ∧
    (∀ (page off : Nat), isPage page = true → off < 0x1000 → off % 4 = 0 →
      let r := s.regRead 2 page off
      let read (t : State) : Prop := Answered r.2 t .spi true [r.1] ∧
        t.host = { r.2.host with slave := some ⟨false, (pageAddr page off + 4) % 2 ^ 32, 0⟩ } ∧ Only [.host, .outs] r.2 t
      Completes (.readWords (pageAddr page off) [false]) s read ∧ Completes (.quadReadWords (pageAddr page off) [false]) s read) ∧
    (∀ (page : Nat), isPage page = true → s.frozen page = false → s.host.hiCap = [] → s.host.wideCap = [] →
      let read (t : State) : Prop := Answered s t .spi true [s.getW (pageAddr page 0x014)] ∧ Only [.host, .outs] s t ∧
        t.host.spiErr = s.host.spiErr ∧ t.host.spiLate = s.host.spiLate
      Completes (.readWords (pageAddr page 0x014) [false]) s read ∧ Completes (.quadReadWords (pageAddr page 0x014) [false]) s read) ∧
    (s.target a = 32 → a % 4 = 0 →
      let late (t : State) : Prop := Answered s t .spi true [0] ∧ t.host.spiLate = true ∧ t.host.slave = some ⟨false, (a + 4) % 2 ^ 32, 0⟩ ∧
        Only [.free, .host, .outs] s t
      Completes (.readWords a [true]) s late ∧ Completes (.quadReadWords a [true]) s late) ∧
    Completes .readSlaveStatus s (fun t =>
      Answered s t .spi true [BitVec.ofNat 32 (b2n s.host.spiErr + 2 * b2n s.host.spiLate + 4 * b2n s.wrPend)] ∧
      t.host = { s.host with spiErr := false, spiLate := false, slave := none } ∧ Only [.host, .outs] s t) ∧
    Completes .chipSelectRise s (fun t => t.host = { s.host with slave := none } ∧ Only [.host] s t)

/-- LATENT_WINDOW_WRITE of whole 16-bit fields outside ARMED and REFILLING, by a path whose write the chip takes, stores the bytes that it
enables, gains above +24 dB clamped, and no other byte; in UNDO_HELD and CHECK_FAILED it moves DEVELOP_STATE to IDLE. In ARMED and REFILLING it is refused with TL code 0x41 and stores nothing.
DIRECT_CLASS_WRITE with the MIX key, of direct-capable fields in a mode that allows it, leaves the active bank as it is and waits for the
second boundary; DIRECT then applies it at its boundary, in order, and counts it: to the active bank, or to the bank that was active when it was carried out
where a develop has become live since.
Each of these commands is shown to complete: latentWindowWrite, directClassWrite, direct. -/
def Obligations.BankWindows : Prop :=
  (∀ (s : State) (path : Path) (o : Nat) (d : List (Option Byte)), Quiet s → TakenAny s path → wholeFields o d = true →
     (s.bankLocked = true →
       Completes (.latentWindowWrite path o d) s (fun t =>
         (∃ w, Logged s t Pg.TL 0 0x41 path.code w) ∧ Only [.elog, .regs, .outs] s t ∧ RegsOnly (errAddrs Pg.TL) s t ∧ Answered s t path false [])) ∧
     (s.bankLocked = false → s.fab.bad = [] →
     Completes (.latentWindowWrite path o d) s (fun t =>
       (∀ i, i < d.length → tget bankD t.latent (o + i) = (((clampReq o d).1[i]?).join).getD (tget bankD s.latent (o + i))) ∧
       (∀ a, a < o ∨ o + d.length ≤ a → tget bankD t.latent a = tget bankD s.latent a) ∧
       Only [.latent, .dev, .fab, .regs, .outs] s t ∧ RegsOnly [A.MIX_CLAMP, evtAddr Pg.MIX] s t ∧ Answered s t path true [] ∧
       t.dev = { s.dev with state := if s.dev.state = .undoHeld ∨ s.dev.state = .checkFailed then .idle else s.dev.state }))) ∧
  ((∀ (s : State) (path : Path) (o : Nat) (d : List (Option Byte)), Quiet s → TakenAny s path → wholeFields o d = true →
     s.on R.MIX_DIRECT_EN_EN = true → Unlocked s path Pg.MIX → directOk s.active o d = true → s.mode.cur.directs = true →
     s.on R.MIX_DIRECT_THRU_EN = false → s.fab.bad = [] →
     Completes (.directClassWrite path o d) s (fun t =>
       (∃ x, t.audio = { s.audio with direct := s.audio.direct ++ [⟨o / 8 * 8, x, s.block + 2, false⟩] } ∧ x.drop (o % 8) = (clampReq o d).1 ++ x.drop (o % 8 + d.length)) ∧
       Only [.audio, .fab, .regs, .host, .outs] s t ∧ RegsOnly [A.MIX_CLAMP, evtAddr Pg.MIX] s t ∧ KeyUsed s t path Pg.MIX ∧ Answered s t path true [])) ∧
   (∀ (s : State) (q : DirectReq) (rest : List DirectReq), Quiet s → s.audio.direct = q :: rest → q.blk ≤ s.block → s.bndDue = false →
     Completes .direct s (fun t =>
       (q.old = false → t.active = mPut bankD s.active q.off (maskReq s.active q.off q.data) ∧ t.latent = s.latent) ∧
       (q.old = true → t.latent = mPut bankD s.latent q.off (maskReq s.latent q.off q.data) ∧ t.active = s.active) ∧
       t.audio = { s.audio with direct := rest } ∧ Counted s t R.MIX_DIRECT_CNT_COUNT ∧
       t.pend Pg.MIX 9 = true ∧ Only [.active, .latent, .shm, .audio, .jobs, .regs] s t ∧ RegsOnly [A.MIX_DIRECT_CNT, evtAddr Pg.MIX] s t)))

/-- Gain fields (R141). A write of two neighbouring fields through either parameter window, by a path whose write the chip takes: a gain field
above 0xD800 stores 0xD800, counts once in MIX_CLAMP and raises MIX event 8; every other field takes what is written.
Each of these commands is shown to complete: latentWindowWrite, directClassWrite. -/
def Obligations.GainsClamped : Prop :=
  ∀ (s : State) (path : Path) (o : Nat) (f g : BitVec 16), Quiet s → TakenAny s path → s.fab.bad = [] → o % 2 = 0 → o + 4 ≤ 0x800000 →
    let high (a : Nat) (x : BitVec 16) : Bool := gainField a && decide (0xD800 < x.toNat)
    let kept (a : Nat) (x : BitVec 16) : Bytes := toLe 2 (if high a x then 0xD800 else x.toNat)
    let d : List (Option Byte) := (toLe 2 f.toNat ++ toLe 2 g.toNat).map some
    let clamps : Nat := b2n (high o f) + b2n (high (o + 2) g)
    let counted (t : State) : Prop := t.rd R.MIX_CLAMP_COUNT = min (s.rd R.MIX_CLAMP_COUNT + clamps) (2 ^ R.MIX_CLAMP_COUNT.w - 1) ∧
      (clamps ≠ 0 → t.pend Pg.MIX 8 = true) ∧ (clamps = 0 → t.regs = s.regs)
    (s.bankLocked = false →
      Completes (.latentWindowWrite path o d) s (fun t =>
        (List.range 4).map (fun i => tget bankD t.latent (o + i)) = kept o f ++ kept (o + 2) g ∧
        (∀ a, a < o ∨ o + 4 ≤ a → tget bankD t.latent a = tget bankD s.latent a) ∧ counted t ∧ Answered s t path true [])) ∧
    (s.on R.MIX_DIRECT_EN_EN = true → Unlocked s path Pg.MIX → directOk s.active o d = true → s.mode.cur.directs = true →
      s.on R.MIX_DIRECT_THRU_EN = false →
      Completes (.directClassWrite path o d) s (fun t =>
        (∃ x, t.audio.direct = s.audio.direct ++ [⟨o / 8 * 8, x, s.block + 2, false⟩] ∧
          ∃ rest, x.drop (o % 8) = (kept o f ++ kept (o + 2) g).map some ++ rest) ∧
        counted t ∧ Answered s t path true []))

/-- Network management. A request on the management VLAN that R41 faults is dropped, counted and changes nothing else; an accepted one leaves
its sequence number in HST_NMGT_SEQ and is not accepted again.
The management key. HST_NKEY0_WRITE takes word 0 and clears KEY_VALID but keeps HST_NMGT_SEQ; HST_NKEY7_WRITE after words 0 to 6 takes
word 7 and loads the key.
Each of these commands is shown to complete: mgmtRequest, hstNkey0Write, hstNkey7Write. -/
def Obligations.Management : Prop :=
  (∀ (s : State) (mac : Nat) (b : Bytes), Quiet s → s.on R.HST_NMGT_CFG_EN = true → s.mode.cur ≠ .dark → nth 0 b 0 = 1 →
     (s.mgmtOk b = false →
       Completes (.mgmtRequest mac (s.rd R.HST_NMGT_CFG_VID) b) s (fun t =>
         t.getW A.HST_NMGT_DROP = (if (s.getW A.HST_NMGT_DROP).toNat + 1 < 2 ^ 32 then s.getW A.HST_NMGT_DROP + 1 else 0xFFFFFFFF) ∧
         RegsOnly [A.HST_NMGT_DROP] s t ∧ Only [.regs] s t)) ∧
     (s.mgmtOk b = true → ∃ t, exec (.mgmtRequest mac (s.rd R.HST_NMGT_CFG_VID) b) s = .next (finish s t) ∧
       t.host.seq = beNat ((b.drop 4).take 8) ∧ s.host.seq < t.host.seq ∧ t.mgmtOk b = false)) ∧
  (∀ (s : State) (path : Path) (v : Word), Quiet s → path ≠ .nmgt →
     Completes (.hstNkey0Write path v) s (fun t =>
       t.host = { s.host with nkeyNew := setNth s.host.nkeyNew 0 v, nkeySet := 1, keyValid := false, keys := t.host.keys } ∧
       Only [.host, .outs] s t ∧ KeyUsed s t path Pg.HST ∧ Answered s t path true []) ∧
     (s.host.nkeySet = 127 →
       Completes (.hstNkey7Write path v) s (fun t =>
         t.host = { s.host with nkey := setNth s.host.nkeyNew 7 v, nkeyNew := setNth s.host.nkeyNew 7 v, nkeySet := 255, keyValid := true, keys := t.host.keys } ∧
         Only [.host, .outs] s t ∧ KeyUsed s t path Pg.HST ∧ Answered s t path true [])))

/-- A page key (R51). A write of 0xA5A5_0000 + page takes a free key and starts its holder's count again; one from another path records code
0x02 and leaves it; any other value releases it and records code 0x06. PAGE_KEY_TIMEOUT one block after the holder's last counted write
releases it.
FREEZE sets CTRL.FREEZE, and while it is set STATUS and the error count read as they stood; cleared, reads are live again. SOFT_RESET from
the path that holds the key is refused with code 0x05 where R418 says so, and elsewhere clears ERR_COUNT, keeps EVT_EN and EVT_ROUTE, and
releases the page's key.
Each of these commands is shown to complete: pageKeyWrite, pageKeyTimeout, freeze, softReset. -/
def Obligations.PageKeysFreezeAndReset : Prop :=
  (∀ (s : State) (path : Path) (page : Fin 128) (v : Word), Quiet s → isPage page.val = true →
     (Taken s path (pageAddr page.val 0x034) v →
       (v = BitVec.ofNat 32 (0xA5A50000 + page.val) → (s.keyOf page.val = none ∨ s.holdsKey page.val path.code = true) →
         Completes (.pageKeyWrite path page v) s (fun t =>
           t.keyOf page.val = some ⟨path.code, s.clk⟩ ∧ (∀ p, p ≠ page.val → t.keyOf p = s.keyOf p) ∧ KeysOnly s t ∧ Only [.host, .outs] s t)) ∧
       (v = BitVec.ofNat 32 (0xA5A50000 + page.val) → s.keyOf page.val ≠ none → s.holdsKey page.val path.code = false →
         Completes (.pageKeyWrite path page v) s (fun t =>
           (∀ p, t.keyOf p = s.keyOf p) ∧ Logged s t page.val 0x034 0x02 path.code v ∧ Only [.regs, .elog, .outs] s t)) ∧
       (v ≠ BitVec.ofNat 32 (0xA5A50000 + page.val) →
         Completes (.pageKeyWrite path page v) s (fun t =>
           t.keyOf page.val = none ∧ (∀ p, p ≠ page.val → t.keyOf p = s.keyOf p) ∧ Logged s t page.val 0x034 0x06 path.code v ∧
           Only [.regs, .elog, .host, .outs] s t))) ∧
     (∀ k, tget noKey s.host.keys page.val = some k → k.since + 1024 ≤ s.clk →
       Completes (.pageKeyTimeout page) s (fun t =>
         tget noKey t.host.keys page.val = none ∧ (∀ p, p ≠ page.val → tget noKey t.host.keys p = tget noKey s.host.keys p) ∧
         KeysOnly s t ∧ Only [.host] s t))) ∧
  (∀ (s : State) (path : Path) (page : Fin 128), Quiet s → isPage page.val = true → (path = .nmgt → page.val ≠ Pg.HST) → path ≠ .twin →
     (TakenAny s path → s.frozen page.val = false → s.needsKey page.val 0x008 (BitVec.ofNat 32 (setBitsN (s.ctrlWord page.val) 4 1 1)) = false →
       Completes (.freeze path page true) s (fun t =>
         t.frozen page.val = true ∧ Only [.regs, .host, .free, .outs] s t ∧ RegsOnly [pageAddr page.val 0x008] s t ∧
         ∀ u : State, u.host.snap = t.host.snap → u.frozen page.val = true →
           (u.readWord page.val 0x00C).1 = BitVec.ofNat 32 (s.status page.val).word ∧
           (u.readWord page.val 0x020).1 = s.getW (pageAddr page.val 0x020))) ∧
     (TakenAny s path → s.frozen page.val = true → s.needsKey page.val 0x008 (BitVec.ofNat 32 (setBitsN (s.ctrlWord page.val) 4 1 0)) = false →
       Completes (.freeze path page false) s (fun t =>
         t.frozen page.val = false ∧ Only [.regs, .host, .outs] s t ∧ RegsOnly [pageAddr page.val 0x008] s t ∧
         ∀ off, (t.readWord page.val off).1 = (t.rawRead page.val off).1)) ∧
     (TakenAny s path → s.holdsKey page.val path.code = true → s.softRefused page.val path.code = true →
       Completes (.softReset path page) s (fun t =>
         t.elogSeq = s.elogSeq + 1 ∧ (∃ d, t.elog.head? = some ⟨s.elogSeq + 1, s.tl, s.calStamp, page.val, 0x05, 0x008, path.code, d⟩) ∧
         Only [.regs, .elog, .host, .outs] s t ∧ RegsOnly (errAddrs page.val) s t)) ∧
     (TakenAny s path → s.holdsKey page.val path.code = true → s.softRefused page.val path.code = false →
       Completes (.softReset path page) s (fun t =>
         t.getW (pageAddr page.val 0x020) = 0 ∧ t.getW (pageAddr page.val 0x014) = s.getW (pageAddr page.val 0x014) ∧
         t.getW (pageAddr page.val 0x01C) = s.getW (pageAddr page.val 0x01C) ∧ t.keyOf page.val = none)))

/-- The device watchdog. DEV_WDT_CTRL_WRITE under the key takes its fields and starts a full period. WDT_KICK with the value of its turn starts
the period again and changes the turn; with another value it is ignored and recorded with code 0x06. WDT_WARN after one period without a kick
sets event 8; WDT_EXPIRE after the second sets event 9 and, with ACTION 0, does nothing else but start again.
Each of these commands is shown to complete: devWdtCtrlWrite, wdtKick, wdtWarn, wdtExpire. -/
def Obligations.Watchdog : Prop :=
  ∀ (s : State) (path : Path) (v : Word), Quiet s →
    (Unlocked s path Pg.DEV → (v.toNat / 2 % 8 ≤ 3) → (12 ≤ v.toNat / 256) → (v.toNat / 256 ≤ 1200000) →
      Completes (.devWdtCtrlWrite path v) s (fun t =>
        t.rd R.DEV_WDT_CTRL_EN = v.toNat % 2 ∧ t.rd R.DEV_WDT_CTRL_ACTION = v.toNat / 2 % 8 ∧ t.rd R.DEV_WDT_CTRL_PERIOD = v.toNat / 256 ∧
        t.host.wdtSince = s.smp ∧ t.host.wdtWarned = false ∧ Only [.regs, .host, .outs] s t ∧ RegsOnly [A.DEV_WDT_CTRL] s t)) ∧
    (s.on R.DEV_WDT_CTRL_EN = true → v = (if s.host.wdtNext then 0x5AA5 else 0xA55A) →
      Completes (.wdtKick path v) s (fun t =>
        t.host = { s.host with wdtNext := !s.host.wdtNext, wdtSince := s.smp, wdtWarned := false, keys := t.host.keys } ∧
        Only [.host, .outs] s t)) ∧
    (s.on R.DEV_WDT_CTRL_EN = true → v ≠ (if s.host.wdtNext then 0x5AA5 else 0xA55A) →
      Completes (.wdtKick path v) s (fun t => Logged s t Pg.DEV 0x0C4 0x06 path.code v ∧ KeysOnly s t ∧ Only [.regs, .elog, .host, .outs] s t)) ∧
    (s.wdtRuns = true → s.host.wdtWarned = false → s.rd R.DEV_WDT_CTRL_PERIOD ≤ (s.smp - s.host.wdtSince) / 8 →
      Completes .wdtWarn s (fun t =>
        t.host = { s.host with wdtWarned := true } ∧ t.pend Pg.DEV 8 = true ∧ Only [.regs, .host] s t ∧ RegsOnly [evtAddr Pg.DEV] s t)) ∧
    (s.wdtRuns = true → s.host.wdtWarned = true → 2 * s.rd R.DEV_WDT_CTRL_PERIOD ≤ (s.smp - s.host.wdtSince) / 8 → s.rd R.DEV_WDT_CTRL_ACTION = 0 →
      Completes .wdtExpire s (fun t =>
        t.host = { s.host with wdtWarned := false, wdtSince := s.smp } ∧ t.pend Pg.DEV 9 = true ∧ Only [.regs, .host] s t ∧
        RegsOnly [evtAddr Pg.DEV] s t))

/-! Chapter 03: the timeline, action slots and develop. -/

/-- ACT_ARM of an EVENT slot. In time, the slot is ARMED under the arming path; after its latest arm TL it goes to LATE with ACT_REJECT and
code 0x04; a slot that is ARMED already keeps its operands and records code 0x42.
ACT_ARM of a DEVELOP slot, in time, at a block boundary and with no develop armed or refill under way: the slot is ARMED, DEVELOP_STATE is
ARMED for the slot's TL, unchecked, and the latent bank is locked; off a block boundary the slot is REFUSED with code 0x40, and while the bank
is locked with code 0x44.
Each of these commands is shown to complete: actArm. -/
def Obligations.Arming : Prop :=
  (∀ (s : State) (path : Path) (n : Fin 32) (v : Word), Quiet s → TakenAny s path → bitsN v.toNat 0 4 = 3 → bitN v.toNat 5 = 0 →
     ((s.slot n.val).state ≠ .armed → s.inTime 3 (s.slot n.val).tl path.code = true →
       Completes (.actArm path n v) s (fun t =>
         t.slot n.val = { s.slot n.val with type := 3, state := .armed, path := path.code } ∧ (∀ k, k ≠ n.val → t.slot k = s.slot k) ∧
         Only [.slots, .host, .outs] s t ∧ KeyUsed s t path Pg.TL ∧ Answered s t path true [])) ∧
     ((s.slot n.val).state ≠ .armed → s.inTime 3 (s.slot n.val).tl path.code = false →
       Completes (.actArm path n v) s (fun t =>
         t.slot n.val = { s.slot n.val with type := 3, state := .late, path := path.code } ∧ (∀ k, k ≠ n.val → t.slot k = s.slot k) ∧
         t.pend Pg.TL 9 = true ∧ Logged s t Pg.TL (actOff n.val) 0x04 path.code (BitVec.ofNat 32 n.val) ∧
         Only [.slots, .regs, .elog, .host, .outs] s t)) ∧
     ((s.slot n.val).state = .armed →
       Completes (.actArm path n v) s (fun t =>
         Logged s t Pg.TL (actOff n.val) 0x42 path.code (BitVec.ofNat 32 n.val) ∧ Only [.regs, .elog, .host, .outs] s t))) ∧
  (∀ (s : State) (path : Path) (n : Fin 32) (v : Word), Quiet s → TakenAny s path → bitsN v.toNat 0 4 = 1 → bitN v.toNat 5 = 0 →
     (s.slot n.val).state ≠ .armed → s.inTime 1 (s.slot n.val).tl path.code = true →
     ((s.slot n.val).tl % 8 = 0 → s.bankLocked = false →
       Completes (.actArm path n v) s (fun t =>
         (t.slot n.val).state = .armed ∧ t.dev.state = .armed ∧ t.dev.slot = n.val ∧ t.dev.t = (s.slot n.val).tl ∧ t.dev.checked = false ∧
         t.dev.draining = false ∧ t.dev.back = s.dev.state ∧ t.bankLocked = true ∧ Only [.slots, .dev, .host, .outs] s t)) ∧
     ((s.slot n.val).tl % 8 ≠ 0 →
       Completes (.actArm path n v) s (fun t =>
         (t.slot n.val).state = .refused ∧ t.pend Pg.TL 9 = true ∧ Logged s t Pg.TL (actOff n.val) 0x40 path.code (BitVec.ofNat 32 n.val) ∧
         Only [.slots, .regs, .elog, .host, .outs] s t)) ∧
     ((s.slot n.val).tl % 8 = 0 → s.bankLocked = true →
       Completes (.actArm path n v) s (fun t =>
         (t.slot n.val).state = .refused ∧ t.pend Pg.TL 9 = true ∧ Logged s t Pg.TL (actOff n.val) 0x44 path.code (BitVec.ofNat 32 n.val) ∧
         Only [.slots, .regs, .elog, .host, .outs] s t)))

/-- ACT_CANCEL of an ARMED slot up to its latest arm TL leaves it CANCELLED, and a DEVELOP's DEVELOP_STATE as before its arming; later it is
refused with code 0x04 and the action stands. TIMER at its TL, after the DEVELOP and the TIMED_WRITEs of the same TL, leaves an armed EVENT
DONE and sets event 12.
TIMED_WRITE to STRX_CFG (the spec's own example): UND_TICK, which is schedulable, takes its value from the slot's data, AHEAD keeps its
value whatever the data holds there, and the slot goes to DONE; a reserved value is recorded on the target page under the arming path, and the
slot still goes to DONE.
Each of these commands is shown to complete: actCancel, timer, timedWrite. -/
def Obligations.SlotActions : Prop :=
  ((∀ (s : State) (path : Path) (n : Fin 32) (v : Word), Quiet s → TakenAny s path → bitsN v.toNat 0 4 ≤ 3 → bitN v.toNat 4 = 0 →
     (s.slot n.val).state = .armed →
     (s.inTime (s.slot n.val).type (s.slot n.val).tl path.code = true →
       Completes (.actCancel path n v) s (fun t =>
         t.slot n.val = { s.slot n.val with type := bitsN v.toNat 0 4, state := .cancelled } ∧ (∀ k, k ≠ n.val → t.slot k = s.slot k) ∧
         ((s.slot n.val).type = 1 → s.dev.state = .armed → s.dev.draining = false → t.dev = { s.dev with state := s.dev.back, checked := false }) ∧
         ((s.slot n.val).type ≠ 1 → t.dev = s.dev) ∧ Only [.slots, .dev, .host, .outs] s t)) ∧
     (s.inTime (s.slot n.val).type (s.slot n.val).tl path.code = false →
       Completes (.actCancel path n v) s (fun t =>
         Logged s t Pg.TL (actOff n.val) 0x04 path.code (BitVec.ofNat 32 n.val) ∧ Only [.regs, .elog, .host, .outs] s t))) ∧
   (∀ (s : State) (n : Fin 32), Quiet s → (s.slot n.val).state = .armed → (s.slot n.val).type = 3 → (s.slot n.val).tl ≤ s.tl → s.bndDue = false →
     s.developDue = false → s.writeDue 32 = false →
     Completes (.timer n) s (fun t =>
       t.slot n.val = { s.slot n.val with state := .done } ∧ (∀ k, k ≠ n.val → t.slot k = s.slot k) ∧ t.pend Pg.TL 12 = true ∧
       Only [.slots, .regs] s t ∧ RegsOnly [evtAddr Pg.TL] s t))) ∧
  (∀ (s : State) (n : Fin 32), Quiet s → s.slotDue 2 n.val = true → s.bndDue = false → s.developDue = false → s.writeDue n.val = false →
     (s.slot n.val).addr.toNat = A.STRX_CFG →
     (1 ≤ (s.slot n.val).data.toNat % 1024 → (s.slot n.val).data.toNat % 1024 ≤ 1007 →
       Completes (.timedWrite n) s (fun t =>
         t.slot n.val = { s.slot n.val with state := .done } ∧ t.rd R.STRX_CFG_UND_TICK = (s.slot n.val).data.toNat % 1024 ∧
         t.rd R.STRX_CFG_AHEAD = s.rd R.STRX_CFG_AHEAD ∧ t.pend Pg.TL 8 = true ∧ Only [.slots, .regs, .elog] s t ∧
         RegsOnly ([A.STRX_CFG, evtAddr Pg.TL] ++ errAddrs Pg.STRX) s t)) ∧
     ((s.slot n.val).data.toNat % 1024 = 0 →
       Completes (.timedWrite n) s (fun t =>
         t.slot n.val = { s.slot n.val with state := .done } ∧ t.rd R.STRX_CFG_UND_TICK = s.rd R.STRX_CFG_UND_TICK ∧
         ∃ d, Logged s t Pg.STRX 0x040 0x01 (s.slot n.val).path d)))

/-- DEVELOP_CHECK_DONE: an armed develop whose bank has no flaw is checked; one with a flaw goes to CHECK_FAILED with its slot, TL_DEV_CHK holds
the first flaw, and the TL page records code 0x45; the active bank is not touched. DEVELOP at its TL exchanges the banks and starts the drain.
STAGE_SWITCH takes the next stage of its kind at its switch point, jobs of depth n at t + 8(1 + n) and egress at t + 8(2 + n), and no bank
changes. DRAIN_END, after the last, counts the develop, and leaves the old bank under KEEP or starts a refill of 48 blocks.
REFILL outside ARMED and REFILLING starts a refill, and in them is ignored but for KEEP; REFILL_DONE at its end leaves the latent bank an
exact copy of the active one and DEVELOP_STATE IDLE.
Each of these commands is shown to complete: developCheckDone, develop, stageSwitch, drainEnd, refill, refillDone. -/
def Obligations.Develop : Prop :=
  ((∀ s : State, Quiet s → s.dev.state = .armed → s.dev.checked = false → s.dev.draining = false →
     Completes .developCheckDone s (fun t => t.active = s.active ∧ t.latent = s.latent ∧
       match s.developFlaw with
       | none => t.dev = { s.dev with checked := true, chkCode := 0, chkOfs := 0 } ∧ Only [.dev] s t
       | some (o, code) =>
         t.dev = { s.dev with state := .checkFailed, chkCode := code, chkOfs := o } ∧ (t.slot s.dev.slot).state = .checkFailed ∧ t.bankLocked = false ∧
         t.pend Pg.TL 9 = true ∧ Logged s t Pg.TL (actOff s.dev.slot) 0x45 0 (BitVec.ofNat 32 (code + 2 ^ 8 * o)) ∧
         Only [.dev, .slots, .regs, .elog] s t)) ∧
   (∀ s : State, Quiet s → s.dev.state = .armed → s.dev.checked = true → s.dev.draining = false → s.dev.t ≤ s.tl → s.bndDue = false →
     Completes .develop s (fun t =>
       t.active = s.latent ∧ t.latent = s.active ∧ t.dev.state = .armed ∧ t.dev.draining = true ∧ t.dev.keep = s.on R.TL_DEV_CTRL_KEEP ∧
       t.dev.depth = max (maxDepth s.active) (maxDepth s.latent) ∧ t.dev.jobsDone = 0 ∧ t.dev.egressDone = 0 ∧
       t.pend Pg.SRC 3 = true ∧ t.pend Pg.STRX 3 = true ∧ t.pend Pg.HRD 3 = true ∧
       Only [.regs, .dev, .active, .latent, .jobs, .audio, .str, .fab] s t))) ∧
  ((∀ (s : State) (n : Fin 16), Quiet s → s.dev.draining = true → s.bndDue = false → n.val ≤ s.dev.depth →
     (n.val = s.dev.jobsDone → s.dev.t + 8 * (1 + n.val) ≤ s.tl →
       Completes (.stageSwitch (.jobs n)) s (fun t =>
         t.dev = { s.dev with jobsDone := n.val + 1 } ∧ (n.val = s.dev.depth → t.pend Pg.SCH 3 = true ∧ t.pend Pg.MIX 3 = true) ∧
         Only [.regs, .dev, .shm, .jobs] s t)) ∧
     (n.val = s.dev.egressDone → s.dev.t + 8 * (2 + n.val) ≤ s.tl →
       Completes (.stageSwitch (.egress n)) s (fun t =>
         t.dev = { s.dev with egressDone := n.val + 1 } ∧ Only [.regs, .dev, .audio, .str] s t)) ∧
     (s.tl < s.dev.t + 8 * (1 + n.val) → Completes (.stageSwitch (.jobs n)) s (fun t => Only [] s t))) ∧
   (∀ s : State, Quiet s → s.dev.draining = true → s.bndDue = false → s.dev.depth < s.dev.jobsDone → s.dev.depth < s.dev.egressDone →
     s.dev.t + 8 * (2 + s.dev.depth) ≤ s.tl →
     Completes .drainEnd s (fun t =>
       t.dev.draining = false ∧ t.dev.count = (s.dev.count + 1) % 65536 ∧ t.pend Pg.TL 8 = true ∧
       (s.dev.keep = true → t.dev.state = .undoHeld) ∧ (s.dev.keep = false → t.dev.state = .refilling ∧ t.dev.refillEnd = s.block + 48) ∧
       (∀ f : Fin 8, t.pend (Pg.SAPG f.val) 3 = true) ∧ Only [.regs, .slots, .dev, .jobs] s t))) ∧
  ((∀ (s : State) (path : Path) (v : Word), Quiet s → TakenAny s path →
     (s.bankLocked = false →
       Completes (.refill path v) s (fun t =>
         t.dev = { s.dev with state := .refilling, refillEnd := s.block + 48 } ∧ t.rd R.TL_DEV_CTRL_KEEP = v.toNat % 2 ∧
         Only [.dev, .regs, .host, .outs] s t ∧ RegsOnly [A.TL_DEV_CTRL] s t)) ∧
     (s.bankLocked = true →
       Completes (.refill path v) s (fun t => t.rd R.TL_DEV_CTRL_KEEP = v.toNat % 2 ∧ Only [.regs, .host, .outs] s t ∧ RegsOnly [A.TL_DEV_CTRL] s t))) ∧
   (∀ s : State, Quiet s → s.dev.state = .refilling → s.bndDue = false → s.dev.refillEnd ≤ s.block →
     Completes .refillDone s (fun t =>
       t.latent = s.active ∧ t.dev = { s.dev with state := .idle } ∧ t.active = s.active ∧ Only [.latent, .dev, .fab] s t)))

/-! Chapters 04 and 05: jobs, flocks and hens. -/

/-- JOB_RELEASE of an instance that may be released puts it in its home flock's queue, in the order of deadline and then instance number; one
that may not be released stays. RUN_AHEAD at its point supplies the missing blocks of a waiting instance.
JOB_START gives the head of a flock's own queue to an idle hen: the hen runs it from its program's entry with cleared registers and
accumulators, and the instance is running. STEAL gives an idle hen of a flock with an empty queue the last unpinned entry of its victim, and
counts it on both flocks.
Each of these commands is shown to complete: jobRelease, runAhead, jobStart, steal. -/
def Obligations.ReleasesAndStarts : Prop :=
  (∀ (s : State) (j : JobRef), Quiet s →
     let k := jobKey j.old j.j.val
     (s.releasable k = true → (s.job k).supplied = false →
       Completes (.jobRelease j) s (fun t =>
         t.job k = { s.job k with phase := .queued, hold := false } ∧ (∀ i, i ≠ k → t.job i = s.job i) ∧ k ∈ t.queue (s.inst k).home ∧
         (∀ i, i ∈ t.queue (s.inst k).home ↔ i = k ∨ i ∈ s.queue (s.inst k).home) ∧ (∀ f, f ≠ (s.inst k).home → t.queue f = s.queue f) ∧
         Only [.jobs] s t)) ∧
     (s.releasable k = false → Completes (.jobRelease j) s (fun t => Only [] s t)) ∧
     (s.processes = true → s.takesPart k = true → (s.inst k).raEn = true → s.on R.SCH_CFG_RA_EN = true → (s.job k).phase = .waiting →
       (s.job k).supplied = false → (s.inst k).raTick ≤ s.tick → s.tick < (s.inst k).deadline → s.anyMissing k = true →
       Completes (.runAhead j) s (fun t =>
         (t.job k).supplied = true ∧ ((t.job k).phase = .queued ↔ s.depsDone k = true ∧ s.switchDue = false ∧ s.awaitsState k = false) ∧ Only [.regs, .jobs] s t ∧
         RegsOnly [A.SCH_RA, evtAddr Pg.SCH] s t))) ∧
  (∀ (s : State) (h : Fin 256), Quiet s → s.idleHen h.val = true →
     (∀ (k : Nat) (rest : List Nat), s.queue (flockOf h.val) = k :: rest →
       Completes (.jobStart h) s (fun t =>
         t.queue (flockOf h.val) = rest ∧ (t.job k).phase = .running ∧ (t.hen h.val).pc = (s.prog k).entry ∧
         (∀ n, (t.hen h.val).getD n = 0) ∧ (∀ n, tget acc0 (t.hen h.val).accM n = acc0 n) ∧ (t.hen h.val).ovf = (s.inst k).ovf ∧
         (∃ r, (t.hen h.val).run = some r ∧ r.j = keyNum k ∧ r.old = keyOld k ∧ r.start = s.clk) ∧ (∀ g, g ≠ h.val → t.hen g = s.hen g) ∧
         Only [.hens, .jobs] s t)) ∧
     (∀ v k : Nat, s.queue (flockOf h.val) = [] → s.on R.SCH_CFG_STEAL_EN = true → s.victim (flockOf h.val) = some v →
       (s.unpinned v).getLast? = some k →
       Completes (.steal h) s (fun t =>
         t.queue v = (s.queue v).filter (fun x => x != k) ∧ (t.job k).phase = .running ∧ (t.hen h.val).pc = (s.prog k).entry ∧
         (∃ r, (t.hen h.val).run = some r ∧ r.j = keyNum k ∧ r.old = keyOld k) ∧ (∀ g, g ≠ h.val → t.hen g = s.hen g) ∧
         Only [.regs, .hens, .jobs] s t ∧ RegsOnly [A.FL_STEAL_IN (flockOf h.val), A.FL_STEAL_OUT v] s t)))

/-- RUN_END by the deadline tick, of a run that read no tainted input and is no re-run: the instance has ended on time, the hen is idle and
every other hen as it was. LATE at the deadline tick withdraws a job that has not ended, with LATE counted and SCH_LATE_LAST naming it.
HEN_ECC_ERROR and DEADLINE_ALARM withdraw the job that the hen runs, which is no re-run, as late; ABANDON at the deadline tick of a re-run
ends it with its first results standing and counts it.
Each of these commands is shown to complete: runEnd, late, henEccError, deadlineAlarm, abandon. -/
def Obligations.EndsAndWithdrawals : Prop :=
  ((∀ (s : State) (h : Fin 256) (r : RunSt), Quiet s → (s.hen h.val).run = some r → (r.cls ≠ 0 ∨ (s.hen h.val).ended = true) →
     let k := jobKey r.old r.j
     s.mode.cur.counts = true → s.tick ≤ (s.inst k).deadline → r.taint = false → (s.job k).rerun = false → (s.job k).again = false →
     Completes (.runEnd h) s (fun t =>
       (t.job k).phase = .ended ∧ (t.job k).onTime = true ∧ (t.hen h.val).run = none ∧ (∀ g, g ≠ h.val → t.hen g = s.hen g) ∧
       (∀ i, i ≠ k → t.job i = s.job i) ∧ Only [.regs, .shm, .free, .hens, .jobs] s t)) ∧
   (∀ (s : State) (j : JobRef), Quiet s → s.twin.copy = .none →
     let k := jobKey j.old j.j.val
     s.takesPart k = true → (s.inst k).deadline ≤ s.tick → (s.job k).rerun = false →
     ((s.job k).phase = .waiting ∨ (s.job k).phase = .queued ∨ (s.job k).phase = .running) →
     Completes (.late j) s (fun t =>
       (t.job k).phase = .late ∧ (t.job k).onTime = false ∧ k ∉ t.queue (s.inst k).home ∧ (∀ i, i ≠ k → t.job i = s.job i) ∧
       t.pend Pg.SCH 8 = true ∧ t.pend (Pg.FL (s.inst k).home) 8 = true ∧
       bitsN (t.getW A.SCH_LATE_LAST).toNat 0 16 = keyNum k % 65536 ∧ Only [.regs, .hens, .jobs] s t))) ∧
  ((∀ (s : State) (h : Fin 256) (r : RunSt), Quiet s → s.twin.copy = .none → (s.hen h.val).run = some r →
     let k := jobKey r.old r.j
     (s.job k).rerun = false →
     Completes (.henEccError h) s (fun t =>
       (t.job k).phase = .late ∧ t.pend Pg.SCH 8 = true ∧
       Counted s t (R.FL_ECC_COUNT (flockOf h.val)) ∧
       Only [.regs, .hens, .jobs] s t) ∧
     ((s.inst k).deadline ≤ s.tick →
       Completes (.deadlineAlarm h) s (fun t => (t.job k).phase = .late ∧ t.pend Pg.SCH 8 = true ∧ Only [.regs, .hens, .jobs] s t)) ∧
     (s.tick < (s.inst k).deadline → Completes (.deadlineAlarm h) s (fun t => Only [] s t))) ∧
   (∀ (s : State) (j : JobRef), Quiet s →
     let k := jobKey j.old j.j.val
     s.takesPart k = true → (s.inst k).deadline ≤ s.tick → (s.job k).rerun = true →
     Completes (.abandon j) s (fun t =>
       (t.job k).phase = .ended ∧ (t.job k).rerun = false ∧ t.pend Pg.SCH 10 = true ∧ Only [.regs, .hens, .jobs] s t)))

/-- FLOCK_GATE_REQUEST under the key: refused with code 0x40 and event 11 for a flock with home jobs, else asked for. FLOCK_UNGATE of a gated flock powers
it and makes it READY 12 blocks later; UNGATED then lets it take jobs and sets event 10. SCH_ENABLE_WRITE in COMMISSION takes ENABLE, and
turning SCH on forgets every hen's program image.
Each of these commands is shown to complete: flockGateRequest, flockUngate, ungated, schEnableWrite. -/
def Obligations.FlockGating : Prop :=
  ∀ (s : State) (path : Path), Quiet s →
    (∀ f : Fin 16, TakenAny s path → s.enabled (Pg.FL f.val) = true → Unlocked s path (Pg.FL f.val) → bitN (s.ctrlWord (Pg.FL f.val)) 1 = 0 →
      path ≠ .twin →
      (s.flockHasHome f.val = true →
        Completes (.flockGateRequest path f) s (fun t =>
          Logged s t (Pg.FL f.val) 0x008 0x40 path.code 0 ∧ t.pend (Pg.FL f.val) 11 = true ∧ t.flock f.val = s.flock f.val ∧ Only [.regs, .elog, .host, .outs] s t)) ∧
      (s.flockHasHome f.val = false →
        Completes (.flockGateRequest path f) s (fun t =>
          t.enabled (Pg.FL f.val) = false ∧ t.flock f.val = { s.flock f.val with gateReq := true, readyAt := none } ∧
          (∀ g, g ≠ f.val → t.flock g = s.flock g) ∧ Only [.regs, .jobs, .host, .outs] s t ∧ RegsOnly [pageAddr (Pg.FL f.val) 0x008] s t))) ∧
    (∀ f : Fin 16, TakenAny s path → s.enabled (Pg.FL f.val) = false → bitN (s.ctrlWord (Pg.FL f.val)) 1 = 0 → (s.flock f.val).powered = false →
      path ≠ .twin →
      Completes (.flockUngate path f) s (fun t =>
        t.enabled (Pg.FL f.val) = true ∧ (t.flock f.val).powered = true ∧ (t.flock f.val).readyAt = some (s.block + 12) ∧
        (∀ g, g ≠ f.val → t.flock g = s.flock g) ∧ Only [.regs, .jobs, .host, .outs] s t ∧ RegsOnly [pageAddr (Pg.FL f.val) 0x008] s t)) ∧
    (∀ (f : Fin 16) (b : Nat), (s.flock f.val).readyAt = some b → b ≤ s.block →
      Completes (.ungated f) s (fun t =>
        t.flock f.val = { s.flock f.val with taking := true, readyAt := none } ∧ (∀ g, g ≠ f.val → t.flock g = s.flock g) ∧
        t.pend (Pg.FL f.val) 10 = true ∧ (∀ m, m / 4 ≠ f.val → t.mule m = s.mule m) ∧ Only [.regs, .jobs, .fab] s t)) ∧
    (∀ v : Word, s.mode.cur = .commission → path ≠ .twin → bitN v.toNat 1 = 0 → bitN v.toNat 4 = 0 → s.frozen Pg.SCH = false →
      Completes (.schEnableWrite path v) s (fun t =>
        t.enabled Pg.SCH = (bitN v.toNat 0 == 1) ∧ (s.enabled Pg.SCH = false → bitN v.toNat 0 = 1 → ∀ h, (t.hen h).image = none) ∧
        Only [.regs, .hens, .host, .outs] s t ∧ RegsOnly [pageAddr Pg.SCH 0x008] s t))

/-- The words of a hen. WORD_ISSUE issues one word of a user run on that hen alone; a word that faults nothing leaves every job where it
stands. DOORBELL in COMMISSION makes its interrupt pend on a hen in a run and elsewhere does nothing; INTERRUPT_ENTRY saves pc and STAT, goes
to the handler's word, and takes the interrupt that it serves off the pending ones.
Each of these commands is shown to complete: wordIssue, doorbell, interruptEntry. -/
def Obligations.HenWordsAndInterrupts : Prop :=
  ∀ (s : State) (h : Fin 256), Quiet s →
    (∀ r : RunSt, s.twin.copy = .none → (s.hen h.val).run = some r → r.cls = 0 → (s.hen h.val).ended = false → (s.hen h.val).takes = none →
      ((s.hen h.val).step r.words).fault = false →
      Completes (.wordIssue h) s (fun t =>
        t.hen h.val = ((s.hen h.val).step r.words).h ∧ (∀ g, g ≠ h.val → t.hen g = s.hen g) ∧ Only [.regs, .hens] s t ∧
        RegsOnly [A.FL_WIN_ERR (flockOf h.val), A.FL_WIN_LAST (flockOf h.val), evtAddr Pg.SCH] s t)) ∧
    (∀ dbg : Bool, s.mode.cur = .commission → (s.hen h.val).run.isSome = true →
      Completes (.doorbell h dbg) s (fun t =>
        (dbg = true → t.hen h.val = { s.hen h.val with pendDbg := true }) ∧ (dbg = false → t.hen h.val = { s.hen h.val with pendDb := true }) ∧
        (∀ g, g ≠ h.val → t.hen g = s.hen g) ∧ Only [.hens] s t)) ∧
    (∀ dbg : Bool, s.mode.cur ≠ .commission → Completes (.doorbell h dbg) s (fun t => Only [] s t)) ∧
    (∀ (dbg : Bool) (w : Nat), (s.hen h.val).run.isSome = true → (s.hen h.val).takes = some (dbg, w) →
      Completes (.interruptEntry h) s (fun t =>
        (t.hen h.val).pc = w ∧ (t.hen h.val).hm = true ∧ (t.hen h.val).ie = false ∧ (t.hen h.val).now = (s.hen h.val).now + 1 ∧
        (t.hen h.val).getA 33 = BitVec.ofNat 32 (s.hen h.val).pc &&& 0xFFF ∧
        (dbg = true → (t.hen h.val).pendDbg = false) ∧ (dbg = false → (t.hen h.val).pendDb = false) ∧
        (∀ g, g ≠ h.val → t.hen g = s.hen g) ∧ Only [.hens] s t))

/-- The flags of a hen's additions and subtractions (R117): after ADD the carry is the 33rd bit of the unsigned sum and V says that the signed
sum does not fit; after SUB and CMP the carry is 1 exactly where no borrow occurs; ADDS saturates, and V says so.
The accumulator of a hen (R110; R109, R120). An exact result outside -2^71 to 2^71 - 1 is a guard overflow and sets GOV; one within is exact. In
SAT72 the accumulator then holds the end of the exact result's sign, and while GOV is set MAC, MSU, ADDA, SUBA and SHA leave it; a store gives full
scale of that sign. In WRAP it takes the exact result modulo 2^72, later operations go on from there, and GOV stays set. On a quad operation each
lane is judged alone. MPY takes the exact shifted product. The conversion with rounding lies within half a unit of the exact value wherever it does
not saturate. -/
def Obligations.HenArithmetic : Prop :=
  (∀ a b : Word,
     ((addFlags a b).1.toNat + 2 ^ 32 * b2n (addFlags a b).2.c = a.toNat + b.toNat ∧
       ((addFlags a b).2.v = false ↔ (addFlags a b).1.toInt = a.toInt + b.toInt) ∧
       ((addFlags a b).2.z = true ↔ (addFlags a b).1 = 0) ∧ ((addFlags a b).2.n = true ↔ (addFlags a b).1.toInt < 0)) ∧
     ((subFlags a b).1.toNat + b.toNat = a.toNat + 2 ^ 32 * b2n (!(subFlags a b).2.c) ∧
       ((subFlags a b).2.v = false ↔ (subFlags a b).1.toInt = a.toInt - b.toInt)) ∧
     ((xAlu .adds a b 0).1.toInt = max (-2147483648) (min 2147483647 (a.toInt + b.toInt)) ∧
       ∃ f, (xAlu .adds a b 0).2 = some f ∧ f.c = false ∧ (f.v = true ↔ a.toInt + b.toInt < -2147483648 ∨ 2147483647 < a.toInt + b.toInt))) ∧
  (let outside (x : Int) : Prop := x < -(2 ^ 71) ∨ 2 ^ 71 - 1 < x
   let takes (a : Accum) (x : Int) (f : Bool → Accum) : Prop :=
     (a.gov = false →
       (¬outside x → ∀ w, (f w).v.toInt = x ∧ (f w).gov = false) ∧ (2 ^ 71 - 1 < x → (f false).v.toInt = 2 ^ 71 - 1 ∧ (f false).gov = true) ∧
       (x < -(2 ^ 71) → (f false).v.toInt = -(2 ^ 71) ∧ (f false).gov = true)) ∧
     (a.gov = true → f false = a) ∧ (f true).v = BitVec.ofInt 72 x ∧ ((f true).gov = true ↔ a.gov = true ∨ outside x)
   (∀ (a : Accum) (x : Int), takes a (a.v.toInt + x) (fun w => a.plus w x) ∧ takes a (a.v.toInt + x) (fun w => macStep w .mac a x) ∧
     takes a (a.v.toInt - x) (fun w => macStep w .msu a x)) ∧
   (∀ (a : Accum) (n : Nat), takes a (a.v.toInt * 2 ^ n) (fun w => shaStep w a n)) ∧
   (∀ (a : Accum) (n : Nat), a.gov = true → shaStep false a (-n) = a) ∧
   (∀ (r h : HenSt) (d e : Nat),
     tget acc0 (r.execM h (.adda d e)).accM d = (tget acc0 r.accM d).plus r.ovf (tget acc0 r.accM e).v.toInt ∧
     tget acc0 (r.execM h (.suba d e)).accM d = (tget acc0 r.accM d).plus r.ovf (-(tget acc0 r.accM e).v.toInt)) ∧
   (∀ (r h : HenSt) (op : MacOp) (set sh qa b k : Nat) (bc : Bool), set ≤ 1 → k < 4 →
     tget acc0 (r.execM h (.quad op set sh qa bc b)).accM (2 * k + set) =
       macStep r.ovf op (tget acc0 r.accM (2 * k + set)) (product (r.getD (4 * qa + k)) (r.getD (if bc then b else 4 * b + k)) sh)) ∧
   (∀ trunc : Bool, convert (BitVec.ofInt 72 (2 ^ 71 - 1)) trunc false = 0x7FFFFFFF ∧ convert (BitVec.ofInt 72 (-(2 ^ 71))) trunc false = 0x80000000) ∧
   (∀ a b : Word, ∀ sh : Nat, sh ≤ 7 → ∀ v : BitVec 72, (macStep false .mpy ⟨v, true⟩ (product a b sh)).v.toInt = a.toInt * b.toInt * 2 ^ sh) ∧
   (∀ a : BitVec 72, -(2 ^ 63) ≤ a.toInt → a.toInt < 2 ^ 63 - 2 ^ 31 →
     2 * ((convert a false false).toInt * 2 ^ 32 - a.toInt) ≤ 2 ^ 32 ∧ -(2 ^ 32) ≤ 2 * ((convert a false false).toInt * 2 ^ 32 - a.toInt)))

/-! Chapters 06 and 07: the mixer, converters and serial ports. -/

/-- CROSSFADE_END ends, for every server of the bus whose crossfade has run out, that crossfade, and no other. MIX_MTR_CLR sets the holds of the
selected meters to 0.
LOCKED of a channel whose source is there, at a ratio from 0.44 to 2.10, sets the chip's own estimate; a chip outside a pair uses it at once: the
converter locks at that ratio with SRC event 9. LOCK_LOST of a locked one unlocks it, with concealment and SRC event 8, and records a ratio out of range.
Each of these commands is shown to complete: crossfadeEnd, mixMtrClr, locked, lockLost. -/
def Obligations.CrossfadesAndConverters : Prop :=
  (∀ s : State, Quiet s →
     (∀ bus : Fin 1024,
       let l := busServers s.active bus.val
       let ended (j : Nat) (x : XfadeSt) : Bool := decide (x.start + x.len + 8 * (1 + depthOf s.active j) ≤ s.smp)
       let len (j : Nat) := 64 * (s.prog j).stateLen
       (∀ i ∈ l, ∀ j ∈ l, i ≠ j → s.stateHalf i false + len i ≤ s.stateHalf j false ∨ s.stateHalf j false + len j ≤ s.stateHalf i false) →
       Completes (.crossfadeEnd bus) s (fun t =>
         (∀ j ∈ l, t.stockOf j =
           match (tget busSt0 (s.stockOf j).busses bus.val).xf with
           | some x => if ended j x then { s.stockOf j with busses := tmod busSt0 (s.stockOf j).busses bus.val fun b => { b with xf := none } } else s.stockOf j
           | none => s.stockOf j) ∧
         (∀ j, j ∉ l → tget stock0 t.jobs.stock j = tget stock0 s.jobs.stock j) ∧
         t.jobs = { s.jobs with stock := t.jobs.stock } ∧ Only [.shm, .jobs] s t)) ∧
     (∀ (path : Path) (v : Word), TakenAny s path →
       Completes (.mixMtrClr path v) s (fun t =>
         (∀ m, m < 32 → t.getW (A.MIX_MTR_HOLD m) = if v.getLsbD m then 0 else s.getW (A.MIX_MTR_HOLD m)) ∧
         RegsOnly ((List.range 32).map A.MIX_MTR_HOLD) s t ∧ Only [.regs, .host, .outs] s t ∧ Answered s t path true []))) ∧
  (∀ (s : State) (k : Fin 256) (ch : Nat), Quiet s → (convList s.active)[k.val]? = some ch →
     (∀ ratio : Word, (s.conv ch).ownLock = false → ratioOk ratio = true → s.convFed ch = true →
       (s.ownNow = true → (s.conv ch).lock = false →
         Completes (.locked k ratio) s (fun t =>
           t.conv ch = { s.conv ch with lock := true, ratio := ratio, since := s.smp, conceal := false, gave := [], fade := none,
                                        ownLock := true, ownRatio := ratio, range := false } ∧
           (∀ c, c ≠ ch → t.conv c = s.conv c) ∧ t.pend Pg.SRC 9 = true ∧ Only [.regs, .audio] s t ∧ RegsOnly [evtAddr Pg.SRC] s t)) ∧
       (s.ownNow = false →
         Completes (.locked k ratio) s (fun t =>
           t.conv ch = { s.conv ch with ownLock := true, ownRatio := ratio, range := false } ∧ (∀ c, c ≠ ch → t.conv c = s.conv c) ∧
           Only [.audio] s t))) ∧
     (∀ out : Bool, (s.conv ch).ownLock = true →
       (s.ownNow = true → (s.conv ch).lock = true →
         Completes (.lockLost k out) s (fun t =>
           t.conv ch = { s.conv ch with lock := false, since := s.smp, conceal := true, fade := some 0, ownLock := false, range := out } ∧
           (∀ c, c ≠ ch → t.conv c = s.conv c) ∧ t.pend Pg.SRC 8 = true ∧ Only [.regs, .audio] s t ∧
           (out = false → (∀ g, t.grp g = s.grp g) ∧ RegsOnly [evtAddr Pg.SRC] s t))) ∧
       (s.ownNow = false →
         Completes (.lockLost k out) s (fun t =>
           t.conv ch = { s.conv ch with ownLock := false, range := out } ∧ (∀ c, c ≠ ch → t.conv c = s.conv c) ∧ Only [.regs, .audio] s t ∧
           (out = false → t.regs = s.regs)))))

/-- SERIAL_FRAME of a group that frames. Its lanes are driven, each frame as a word most significant bit first in each slot with zeros after it (R175); a
wrong number of bit clocks in a slave counts a frame error; no other group is touched. Of a running group whose frame has its bit clocks, each enabled clocked
channel's word goes, left justified, to its place in the group's input ring (R176, R188), and a synchronous master sends the egress sample of two samples ago,
rounded to the word length.
A group's clock. FWIN_WINDOW_END of a slave judges the rate over 512 frames against the window: outside it a running group with a clocked lane in use
loses its clock. CLK_LOST of a running group whose clock is missing mutes it from the next sample, counts it and sets event 8; CLK_OK of a clock that is good
again makes the group run, with event 9; SLIP of a buffer-level loop more than a quarter of its ring away brings the level to zero, counts it and sets event 13.
Each of these commands is shown to complete: serialFrame, fwinWindowEnd, clkLost, clkOk, slip. -/
def Obligations.SerialFramesAndClocks : Prop :=
  (∀ (s : State) (g : Fin 8) (bits : List (List Bool)) (bclks : Nat), Quiet s → s.frameable g.val = true →
     let c := gcfg s.active g.val
     let v := s.grp g.val
     let at1 := if c.lj then 0 else 1
     Completes (.serialFrame g bits bclks) s (fun t =>
       (∀ f, f ≠ g.val → t.grp f = s.grp f) ∧ (t.grp g.val).lastEdge = s.clk ∧
       (∃ l, t.outs = l ++ s.outs ∧ ∀ e ∈ l, ∃ lane w0 w1, e = .serial g.val lane at1 (frameBits c w0 w1)) ∧
       (t.rd (R.SAPG_FRAME_ERR_COUNT g.val) =
         if c.master = false ∧ bclks ≠ 2 * c.slot then min (s.rd (R.SAPG_FRAME_ERR_COUNT g.val) + 1) 0xFFFFFFFF
         else s.rd (R.SAPG_FRAME_ERR_COUNT g.val)) ∧
       RegsOnly [A.SAPG_FRAME_ERR g.val, A.SAPG_CLKLOSS_CNT g.val, evtAddr (Pg.SAPG g.val)] s t ∧ Only [.outs, .free, .regs, .shm, .audio] s t ∧
       (v.phase = .run → c.master = true ∨ bclks = 2 * c.slot → ∀ b, s.rxTable g.val c.lead = some b →
         t.grp g.val = { v with badRun := if c.master then v.badRun else 0, noBclk := if c.master then v.noBclk else 0
                                winFrames := if c.master then v.winFrames else v.winFrames + 1, lastEdge := s.clk, wr := v.wr + 1
                                masks := ((bitsN (slotW b g.val 4) 0 16, rxClocked b g.val) :: v.masks).take (max 1 c.buf) } ∧
         (s.muleServes (64 + 2 * g.val) = true →
           s.rxRing g.val + 64 * c.buf ≤ s.txRing g.val ∨ s.txRing g.val + 64 * c.buf ≤ s.rxRing g.val →
           ∀ i, i < 16 → rxOn b g.val i = true → rxBp b g.val (i / 2) = false →
             getRing t.shm (s.rxRing g.val) c.buf v.wr (ringPos (bitsN (slotW b g.val 4) 0 16) i) =
               laneWord (gcfg b g.val) (2 * c.slot + if (gcfg b g.val).lj then 0 else 1) (nth [] bits (i / 2)) (i % 2))) ∧
       (v.phase = .run → c.master = true → c.fsCode = 3 → c.bufloop = false → s.muleServes (65 + 2 * g.val) = true → 2 ≤ s.smp →
         (s.smp - 2) / 8 ≤ s.block → s.egLive (s.smp - 2) = true →
         ∀ l, l < 8 → (∀ i, i / 2 = l → (s.txNow g.val i).1 = true ∧ (s.txNow g.val i).2.1 = false) →
           let w (i : Nat) := sendWord c.wlen (s.egSample (s.smp - 2) (1024 + 16 * g.val + i))
           .serial g.val l at1 (frameBits c (w (2 * l)) (w (2 * l + 1))) ∈ t.outs))) ∧
  (∀ (s : State) (g : Fin 8), Quiet s →
     let v := s.grp g.val
     let c := gcfg s.active g.val
     let lost (w : GrpSt) (since : Option Nat) : GrpSt := { w.mute (s.smp + 1) true with phase := .lost since, badRun := 0, noBclk := 0 }
     let loses (t : State) : Prop := (∀ f, f ≠ g.val → t.grp f = s.grp f) ∧ Counted s t (R.SAPG_CLKLOSS_CNT_COUNT g.val) ∧
       t.pend (Pg.SAPG g.val) 8 = true ∧ Only [.regs, .audio] s t ∧ RegsOnly [A.SAPG_CLKLOSS_CNT g.val, evtAddr (Pg.SAPG g.val)] s t
     (∀ n : Nat, s.grpOn g.val = true → c.master = false → 513 ≤ v.winFrames → 0 < n →
       let got : Int := n * c.hz
       let w : GrpSt := { v with winFrames := 1, offset := max (-32768) (min 32767 ((12582912000 - got) * 1000000 / got)) }
       let far : Prop := (s.rd (R.SAPG_FWIN_PPM g.val)) * (n * c.hz) < (12582912000 - got).natAbs * 1000000
       (¬far → Completes (.fwinWindowEnd g n) s (fun t => t.grp g.val = w ∧ (∀ f, f ≠ g.val → t.grp f = s.grp f) ∧ Only [.audio] s t)) ∧
       (far → v.phase = .run → clockedUse s.active g.val = true →
         Completes (.fwinWindowEnd g n) s (fun t => t.grp g.val = lost w (some s.smp) ∧ loses t))) ∧
     (s.grpOn g.val = true → clockedUse s.active g.val = true → s.clkMissing g.val = true → v.phase = .run →
       Completes (.clkLost g) s (fun t => t.grp g.val = { lost v none with winFrames := 0 } ∧ loses t)) ∧
     (s.clkGood g.val = true →
       Completes (.clkOk g) s (fun t =>
         t.grp g.val = { v.unmute (s.smp + 1) with phase := .run, winFrames := 0 } ∧ (∀ f, f ≠ g.val → t.grp f = s.grp f) ∧
         t.pend (Pg.SAPG g.val) 9 = true ∧ Only [.regs, .audio] s t ∧ RegsOnly [evtAddr (Pg.SAPG g.val)] s t)) ∧
     (s.grpOn g.val = true → c.bufloop = true → v.phase.clocked = true →
       64 * (c.buf : Int) < v.level ∨ v.level < -(64 * (c.buf : Int)) →
       Completes (.slip g) s (fun t =>
         t.grp g.val = { v with rd := v.wr - c.buf / 2, level := v.level - 256 * (((v.wr - c.buf / 2 : Nat) : Int) - v.rd), slipBlk := some s.block } ∧
         (c.buf / 2 ≤ v.wr → 0 ≤ t.bufLevel g.val ∧ t.bufLevel g.val < 256) ∧ (∀ f, f ≠ g.val → t.grp f = s.grp f) ∧
         Counted s t (R.SAPG_SLIP_COUNT g.val) ∧
         t.pend (Pg.SAPG g.val) 13 = true ∧ Only [.regs, .audio] s t ∧ RegsOnly [A.SAPG_SLIP g.val, evtAddr (Pg.SAPG g.val)] s t)))

/-- A bi-phase lane. BIPHASE_FRAME of a lane out of lock counts good frames in a row; of a locked lane it gives the 24 audio bits, left justified, to the
channels' converters and in a block gathers its C and U bits (R178, R179); LANE_LOCK locks after 64 good frames and unlocks after 2 without a valid preamble,
with event 11; BIPHASE_OUTPUT_FRAME sends one frame with V and U 0 and the channel status bit of its place, with preamble Z every 192 frames (R181).
CS_NEW of a whole block. A block for professional use whose CRCC is wrong is counted and not shown; every other is shown in the lane's
channel status and user words with event 12, byte by byte in transmission order.
Each of these commands is shown to complete: biphaseFrame, laneLock, biphaseOutputFrame, csNew. -/
def Obligations.BiphaseAndChannelStatus : Prop :=
  (∀ (s : State) (g l : Fin 8), Quiet s →
     let v := (s.grp g.val).lane l.val
     (∀ (b : Mem) (x y : Subframe), s.rxTable g.val 48 = some b → s.bpLive g.val = true → rxBp b g.val l.val = true →
       (v.lock = false →
         Completes (.biphaseFrame g l x y) s (fun t =>
           (t.grp g.val).lane l.val =
             { v with good := if (x.pre == .x || x.pre == .z) && y.pre == .y && !x.violation && !y.violation then v.good + 1 else 0
                      bad := if (x.pre == .x || x.pre == .z) && y.pre == .y then 0 else v.bad + 1 } ∧
           (∀ k, k ≠ l.val → (t.grp g.val).lane k = (s.grp g.val).lane k) ∧ (∀ f, f ≠ g.val → t.grp f = s.grp f) ∧ Only [.audio] s t)) ∧
       (∀ n : Nat, v.lock = true → v.pos = some n → n < 191 → x.pre = .x → y.pre = .y → x.violation = false → y.violation = false →
         x.v = false → y.v = false → subParityOk x = true → subParityOk y = true →
         Completes (.biphaseFrame g l x y) s (fun t =>
           (t.grp g.val).lane l.val =
             { v with good := v.good + 1, bad := 0, rxCnt := v.rxCnt + 1, pos := some (n + 1), c1 := v.c1 ++ [x.c], u1 := v.u1 ++ [x.u], diff := v.diff || x.c != y.c } ∧
           (rxOn b g.val (2 * l.val) = true → (t.conv (1024 + 16 * g.val + 2 * l.val)).fed.toNat = x.audio.toNat * 256) ∧
           (rxOn b g.val (2 * l.val + 1) = true → (t.conv (1024 + 16 * g.val + 2 * l.val + 1)).fed.toNat = y.audio.toNat * 256) ∧
           (∀ f, f ≠ g.val → t.grp f = s.grp f) ∧ Only [.shm, .audio] s t))) ∧
     (v.lock = false → 64 ≤ v.good →
       Completes (.laneLock g l) s (fun t =>
         ((t.grp g.val).lane l.val).lock = true ∧ t.pend (Pg.SAPG g.val) 11 = true ∧ (∀ f, f ≠ g.val → t.grp f = s.grp f) ∧ Only [.regs, .audio] s t ∧
         RegsOnly [evtAddr (Pg.SAPG g.val)] s t)) ∧
     (v.lock = true → 2 ≤ v.bad →
       Completes (.laneLock g l) s (fun t =>
         ((t.grp g.val).lane l.val).lock = false ∧ t.pend (Pg.SAPG g.val) 11 = true ∧ (∀ f, f ≠ g.val → t.grp f = s.grp f) ∧ Only [.regs, .audio] s t ∧
         RegsOnly [evtAddr (Pg.SAPG g.val)] s t)) ∧
     (s.bpLive g.val = true → (s.txNow g.val (2 * l.val)).2.1 = true → s.mediaEdge (gcfg s.active g.val).fsCode = true →
       Completes (.biphaseOutputFrame g l) s (fun t =>
         (t.grp g.val).lane l.val = { v with txPos := (v.txPos + 1) % 192, txCnt := v.txCnt + 1 } ∧
         (∃ a b, t.outs = .biphase g.val l.val (v.txPos == 0) a b :: s.outs ∧ a / 2 ^ 24 % 4 = 0 ∧ b / 2 ^ 24 % 4 = 0 ∧
           a / 2 ^ 26 % 2 = b2n (nth false (txStatus (s.txNow g.val (2 * l.val)).2.2) v.txPos) ∧ b / 2 ^ 26 % 2 = a / 2 ^ 26 % 2) ∧
         (∀ f, f ≠ g.val → t.grp f = s.grp f) ∧ Only [.outs, .free, .shm, .audio] s t))) ∧
  (∀ (s : State) (g l : Fin 8) (c u : List Bool) (d : Bool), Quiet s → ((s.grp g.val).lane l.val).ready = some (c, u, d) →
     (nth false c 0 = true → crcc c ≠ (nth 0 (bitsToBytes c) 23).toNat →
       Completes (.csNew g l) s (fun t =>
         Counted s t (R.SAPG_CRCC_ERR_COUNT g.val) ∧ ((t.grp g.val).lane l.val).ready = none ∧
         RegsOnly [A.SAPG_CRCC_ERR g.val, A.SAPG_AES_STAT g.val] s t ∧ Only [.regs, .audio] s t)) ∧
     (nth false c 0 = false ∨ crcc c = (nth 0 (bitsToBytes c) 23).toNat →
       Completes (.csNew g l) s (fun t =>
         (∀ i, i < 6 → t.getW (A.SAPG_CS g.val l.val i) = BitVec.ofNat 32 (leNat (((bitsToBytes c).drop (4 * i)).take 4)) ∧
           t.getW (A.SAPG_USR g.val l.val i) = BitVec.ofNat 32 (leNat (((bitsToBytes u).drop (4 * i)).take 4))) ∧
         t.pend (Pg.SAPG g.val) 12 = true ∧ ((t.grp g.val).lane l.val).ready = none ∧
         RegsOnly ([A.SAPG_AES_STAT g.val, evtAddr (Pg.SAPG g.val)] ++ (List.range 6).map (A.SAPG_CS g.val l.val) ++
           (List.range 6).map (A.SAPG_USR g.val l.val)) s t ∧
         Only [.regs, .audio] s t)))

/-- A group's settings. SAPG_APPLY takes the latent slot table for the next block boundary, and is refused with code 0x05 while a DEVELOP is
armed; APPLIED puts it into the active bank with event 10 and restarts the group where its clock or framing changes; SAPG_ENABLE_WRITE starts the group at the next block boundary, and in COMMISSION
stops it.
Each of these commands is shown to complete: sapgApply, applied, sapgEnableWrite. -/
def Obligations.SerialSettings : Prop :=
  ∀ (s : State) (path : Path) (g : Fin 8), Quiet s →
    (TakenAny s path → s.mode.cur ≠ .leader → (s.grp g.val).apply = none →
      (s.dev.state = .armed →
        Completes (.sapgApply path g) s (fun t =>
          Logged s t (Pg.SAPG g.val) 0x058 0x05 path.code 1 ∧ Only [.regs, .elog, .host, .outs] s t ∧ RegsOnly (errAddrs (Pg.SAPG g.val)) s t)) ∧
      (s.dev.state ≠ .armed →
        let bytes := mBytes bankD s.latent (0x600000 + 0x100 * g.val) 256
        let b := mPutB bankD s.active (0x600000 + 0x100 * g.val) bytes
        (convList b).length ≤ 256 → slotReserved b g.val = none → slotInvalid b g.val = none →
        Completes (.sapgApply path g) s (fun t =>
          t.grp g.val = { s.grp g.val with apply := some (8 * (s.block + 1), bytes) } ∧ (∀ f, f ≠ g.val → t.grp f = s.grp f) ∧
          t.rd (R.SAPG_APPLY_NEXT g.val) = 1 ∧ Only [.regs, .audio, .host, .outs] s t ∧ RegsOnly [A.SAPG_APPLY g.val] s t))) ∧
    (∀ (b : Nat) (bytes : Bytes), (s.grp g.val).apply = some (b, bytes) → b ≤ s.smp →
      Completes (.applied g) s (fun t =>
        t.active = mPutB bankD s.active (0x600000 + 0x100 * g.val) bytes ∧ (t.grp g.val).apply = none ∧ (∀ f, f ≠ g.val → t.grp f = s.grp f) ∧
        (restarts (slotW s.active g.val 0) (slotW t.active g.val 0) = false → (t.grp g.val).phase = (s.grp g.val).phase) ∧
        (restarts (slotW s.active g.val 0) (slotW t.active g.val 0) = true → (s.grp g.val).phase ≠ .off → (t.grp g.val).phase = .waiting s.smp) ∧
        t.rd (R.SAPG_APPLY_NEXT g.val) = 0 ∧ t.pend (Pg.SAPG g.val) 10 = true ∧ Only [.regs, .active, .audio] s t ∧
        RegsOnly [A.SAPG_APPLY g.val, evtAddr (Pg.SAPG g.val)] s t)) ∧
    (∀ v : Word, TakenAny s path → path ≠ .twin → bitN v.toNat 1 = 0 → bitN v.toNat 4 = 0 → s.frozen (Pg.SAPG g.val) = false →
      (s.enabled (Pg.SAPG g.val) = false → bitN v.toNat 0 = 1 → (s.grp g.val).phase = .off →
        Completes (.sapgEnableWrite path g v) s (fun t =>
          t.enabled (Pg.SAPG g.val) = true ∧ (t.grp g.val).phase = .waiting (8 * (s.block + 1)) ∧
          (∀ l, l < 8 → ((t.grp g.val).lane l).txPos = 0) ∧ (t.grp g.val).mutes.any (fun m => m.stop.isNone) = true ∧
          (∀ f, f ≠ g.val → t.grp f = s.grp f) ∧ Only [.regs, .audio, .host, .outs] s t ∧ RegsOnly [pageAddr (Pg.SAPG g.val) 0x008] s t)) ∧
      (s.enabled (Pg.SAPG g.val) = true → bitN v.toNat 0 = 0 → s.mode.cur = .commission →
        Completes (.sapgEnableWrite path g v) s (fun t =>
          t.enabled (Pg.SAPG g.val) = false ∧ (t.grp g.val).phase = .off ∧
          (∀ f, f ≠ g.val → t.grp f = s.grp f) ∧ Only [.regs, .audio, .host, .outs] s t ∧ RegsOnly [pageAddr (Pg.SAPG g.val) 0x008] s t)))

/-! Chapter 08: Ethernet. -/

/-- A port's link. LINK_UP of a port that looks for one brings it up with event 8, its ability sent where it negotiates; with a partner that is not full duplex
the negotiation fails (R201); LINK_DOWN discards its frames, counts them, ends a pause and removes the
dynamic addresses of the port, static ones stay, with event 9; AN_FAIL counts a failed exchange; ETH_ENABLE_WRITE enables a port, and disabling
takes its link down.
Each of these commands is shown to complete: linkUp, anFail, linkDown, ethEnableWrite. -/
def Obligations.EthernetLinks : Prop :=
  ∀ (s : State) (p : Fin 4), Quiet s →
    (∀ full : Bool, s.searches p.val = true →
      let offered := (if s.negotiates p.val then [Emit.ability p.val true false true true] else []) ++ s.outs
      let failed (t : State) : Prop := Counted s t (R.ETH_AN_FAIL_COUNT p.val) ∧ t.outs = offered ∧ Only [.regs, .outs] s t ∧ RegsOnly [A.ETH_AN_FAIL p.val] s t
      (full = true ∨ s.negotiates p.val = false →
        Completes (.linkUp p full) s (fun t =>
          t.linkUp p.val = true ∧ t.rd (R.ETH_STAT_AN_DONE p.val) = b2n (s.negotiates p.val) ∧ t.outs = offered ∧ t.pend (Pg.ETH p.val) 8 = true ∧
          Only [.regs, .outs] s t ∧ RegsOnly [A.ETH_STAT p.val, evtAddr (Pg.ETH p.val)] s t)) ∧
      (s.negotiates p.val = true → Completes (.linkUp p false) s failed ∧ Completes (.anFail p) s failed)) ∧
    (s.linkUp p.val = true →
      Completes (.linkDown p) s (fun t =>
        t.linkUp p.val = false ∧ (t.port p.val).frames = [] ∧ (t.port p.val).pauseEnd = none ∧ (∀ q, q ≠ p.val → t.port q = s.port q) ∧
        (∀ i e, t.atuAt i = some e → e.static = true ∨ bitN e.ports p.val = 0) ∧
        (∀ i e, s.atuAt i = some e → e.static = true → t.atuAt i = some e) ∧
        t.rd (R.ETH_TX_DROP_COUNT p.val) = min (s.rd (R.ETH_TX_DROP_COUNT p.val) + (s.port p.val).frames.length) 0xFFFFFFFF ∧
        Counted s t (R.ETH_LINK_DOWN_COUNT p.val) ∧ t.pend (Pg.ETH p.val) 9 = true ∧ Only [.regs, .eth] s t ∧
        RegsOnly [A.ETH_TX_DROP p.val, A.ETH_LINK_DOWN p.val, A.ETH_STAT p.val, evtAddr (Pg.ETH p.val)] s t)) ∧
    (∀ (path : Path) (v : Word), TakenAny s path → path ≠ .twin → bitN v.toNat 1 = 0 → bitN v.toNat 4 = 0 → s.frozen (Pg.ETH p.val) = false →
      (s.enabled (Pg.ETH p.val) = false → bitN v.toNat 0 = 1 →
        Completes (.ethEnableWrite path p v) s (fun t =>
          t.enabled (Pg.ETH p.val) = true ∧ Only [.regs, .host, .outs] s t ∧ RegsOnly [pageAddr (Pg.ETH p.val) 0x008] s t)) ∧
      (s.enabled (Pg.ETH p.val) = true → bitN v.toNat 0 = 0 →
        Completes (.ethEnableWrite path p v) s (fun t =>
          t.enabled (Pg.ETH p.val) = false ∧ t.linkUp p.val = false ∧ Only [.regs, .eth, .host, .outs] s t)))

/-- FRAME_RECEIVE on a port whose link is up, outside DARK. A frame shorter than 64 octets is counted and discarded; a frame in order is counted;
one of no member VLAN is discarded; an unknown unicast source is learned while LEARN is 1 and its bucket has room; a PAUSE frame is not forwarded; a unicast frame whose only egress port has room is stored there, behind what
waits; and no frame reaches a port of the other network.
FRAME_TRANSMIT of a port that may send and has frames stored takes the first of the highest queue, sends it with its FCS and counts it; a
frame that is no PTP event message leaves as it was stored. What the egress timestamp of an own two-step message gives, a Follow_Up, is stored behind (R255).
Each of these commands is shown to complete: frameReceive, frameTransmit. -/
def Obligations.Frames : Prop :=
  (∀ (s : State) (p : Fin 4) (b : Bytes) (ts : Nat), Quiet s → s.linkUp p.val = true → s.mode.cur ≠ .dark →
     let body := b.take (b.length - 4)
     let h := parseFrame body
     let v := s.frameVlan p.val h
     let ok := 64 ≤ b.length ∧ b.length ≤ s.maxLen p.val ∧ b.drop (b.length - 4) = fcsOf body
     Completes (.frameReceive p b ts) s (fun t =>
       (∀ e, e < 4 → e / 2 ≠ p.val / 2 → t.port e = s.port e) ∧ (ok → Counted s t (R.ETH_RX_OK_COUNT p.val)) ∧
       (b.length ≤ 63 → Counted s t (R.ETH_RX_RUNT_COUNT p.val) ∧ RegsOnly [A.ETH_RX_RUNT p.val] s t ∧ Only [.regs] s t) ∧
       (ok → h.etype ≠ 0x8808 → s.vlan v.2 = none →
         ringFrame h = false → Counted s t (R.ETH_RX_VLAN_COUNT p.val) ∧ t.eth = { s.eth with atu := t.eth.atu } ∧ Only [.regs, .eth] s t ∧
         RegsOnly [A.ETH_RX_OK p.val, A.ETH_RX_VLAN p.val, A.BR_LEARN_FULL, evtAddr Pg.BR] s t) ∧
       (ok → h.etype = 0x8808 → be2 h.payload 0 = 1 → t.eth = { s.eth with atu := t.eth.atu } ∧ Only [.regs, .eth] s t ∧
         RegsOnly [A.ETH_RX_OK p.val, A.BR_LEARN_FULL, evtAddr Pg.BR] s t) ∧
       (∀ i, ok → s.on R.BR_CFG_LEARN = true → bitN (h.src / 2 ^ 40) 0 = 0 → s.atuFind h.src v.2 = none → s.atuWay h.src v.2 Option.isNone = some i →
         t.atuAt i = some ⟨h.src, v.2, 2 ^ p.val, false, false, 0, s.clk⟩ ∧ ∀ k, k ≠ i → t.atuAt k = s.atuAt k) ∧
       (∀ members untag e q, ok → h.etype ≠ 0x8808 → h.etype ≠ 0x22F0 → h.etype ≠ 0x88B5 → h.dst / 16 ≠ 0x0180C200000 → s.vlan v.2 = some (members, untag) →
         bitN members p.val = 1 → s.on R.BR_CFG_LEARN = false → s.egressFor p.val h v.1 v.2 members = some ([e], q, false) → e < 4 →
         s.linkUp e = true → (s.port e).frames = [] → (egressBytes h v.1 v.2 untag e).length + 4 ≤ min 16384 (s.maxLen e) →
         (t.port e).frames = [⟨egressBytes h v.1 v.2 untag e, q, some ts, p.val⟩] ∧ (∀ g, g ≠ e → t.port g = s.port g) ∧ Only [.regs, .eth] s t))) ∧
  (∀ (s : State) (p : Fin 5) (ts : Nat) (f : QFrame), Quiet s → (p.val < 4 → s.canSend p.val = true) → nextFrame (s.port p.val).frames = some f →
     Completes (.frameTransmit p ts) s (fun t =>
       (∃ l, (t.port p.val).frames = (s.port p.val).frames.erase f ++ l ∧ (f.inTs ≠ none ∨ ptpAt (parseFrame f.bytes) = none → l = [])) ∧ (∀ g ∈ (s.port p.val).frames, g.queue ≤ f.queue) ∧
       (∀ q, q ≠ p.val → t.port q = s.port q) ∧ (∃ b, t.outs = .frame p.val (b ++ fcsOf b) :: s.outs ∧ (ptpAt (parseFrame f.bytes) = none → b = f.bytes)) ∧
       (p.val < 4 → Counted s t (R.ETH_TX_OK_COUNT p.val) ∧ RegsOnly [A.ETH_TX_OK p.val, A.ETH_TX_OVERSIZE p.val, A.ETH_TX_DROP p.val] s t) ∧
       (p.val = 4 → t.regs = s.regs) ∧ (f.inTs ≠ none ∨ ptpAt (parseFrame f.bytes) = none → t.ptp = s.ptp) ∧ Only [.outs, .regs, .eth, .ptp] s t))

/-- PAUSE. A PAUSE received outside a hold is counted and pauses the port for its quanta; with 0 quanta it ends the pause; in a hold it is
ignored and counted. PAUSE_END at its time lets the port send; PAUSE_BROKEN ends the pause, starts the hold and sets event 10; HOLD_END ends the
hold with event 11.
Each of these commands is shown to complete: pauseReceive, pauseEnd, pauseBroken, holdEnd. -/
def Obligations.PauseAndHold : Prop :=
  ∀ (s : State) (p : Fin 4), Quiet s →
    let v := s.port p.val
    (∀ q : Fin 65536, s.linkUp p.val = true →
      (v.holdEnd = none → v.pauseEnd = none → q.val ≠ 0 →
        Completes (.pauseReceive p q) s (fun t =>
          (t.port p.val).pauseEnd = some (s.clk + s.pauseTicks p.val q.val) ∧ (t.port p.val).frames = v.frames ∧ t.rd (R.ETH_STAT_PAUSED p.val) = 1 ∧
          t.canSend p.val = false ∧ Counted s t (R.ETH_RX_PAUSE_COUNT p.val) ∧ (∀ g, g ≠ p.val → t.port g = s.port g) ∧ Only [.regs, .eth] s t ∧
          RegsOnly [A.ETH_RX_PAUSE p.val, A.ETH_STAT p.val] s t)) ∧
      (v.holdEnd = none → v.pauseEnd.isSome = true → q.val = 0 →
        Completes (.pauseReceive p q) s (fun t =>
          (t.port p.val).pauseEnd = none ∧ t.rd (R.ETH_STAT_PAUSED p.val) = 0 ∧ Counted s t (R.ETH_RX_PAUSE_COUNT p.val) ∧
          (∀ g, g ≠ p.val → t.port g = s.port g) ∧ Only [.regs, .eth] s t ∧ RegsOnly [A.ETH_RX_PAUSE p.val, A.ETH_STAT p.val] s t)) ∧
      (v.holdEnd.isSome = true →
        Completes (.pauseReceive p q) s (fun t =>
          Counted s t (R.ETH_RX_PAUSE_IGN_COUNT p.val) ∧ Only [.regs] s t ∧ RegsOnly [A.ETH_RX_PAUSE_IGN p.val] s t))) ∧
    (∀ e : Nat, v.pauseEnd = some e →
      (e ≤ s.clk →
        Completes (.pauseEnd p) s (fun t =>
          (t.port p.val).pauseEnd = none ∧ (t.port p.val).frames = v.frames ∧ (∀ g, g ≠ p.val → t.port g = s.port g) ∧
          t.rd (R.ETH_STAT_PAUSED p.val) = 0 ∧ Only [.regs, .eth] s t ∧ RegsOnly [A.ETH_STAT p.val] s t)) ∧
      (s.force (R.ETH_PAUSE_WDT p.val) * 12288 ≤ (v.pauseSum + (s.clk - v.pauseFrom)) * 1000 →
        Completes (.pauseBroken p) s (fun t =>
          (t.port p.val).pauseEnd = none ∧ (t.port p.val).holdEnd = some (s.clk + 12288 * s.force (R.ETH_PAUSE_HOLD_MS p.val)) ∧
          (∀ g, g ≠ p.val → t.port g = s.port g) ∧ t.rd (R.ETH_STAT_HOLD p.val) = 1 ∧ Counted s t (R.ETH_PAUSE_BROKEN_COUNT p.val) ∧
          t.pend (Pg.ETH p.val) 10 = true ∧ Only [.regs, .eth] s t ∧
          RegsOnly [A.ETH_STAT p.val, A.ETH_PAUSE_BROKEN p.val, evtAddr (Pg.ETH p.val)] s t))) ∧
    (∀ e : Nat, v.holdEnd = some e → e ≤ s.clk →
      Completes (.holdEnd p) s (fun t =>
        t.port p.val = { v with holdEnd := none, pauseSum := 0 } ∧ (∀ g, g ≠ p.val → t.port g = s.port g) ∧ t.rd (R.ETH_STAT_HOLD p.val) = 0 ∧
        t.pend (Pg.ETH p.val) 11 = true ∧ Only [.regs, .eth] s t ∧ RegsOnly [A.ETH_STAT p.val, evtAddr (Pg.ETH p.val)] s t))

/-- The address table. A dynamic entry goes at its age; BR_ATU_CMD reads an index, writes a static entry in place of one of its key or into a free place, deletes and
looks up by key, and flushes dynamic entries, static ones staying; an operation whose key has no entry, and a write to a bucket of four static entries, records code 0x40 with the bucket.
The rings. A manager whose ring is open and which receives its own check closes it: BLOCKING, event 9; with no check for TMO blocks RING_OPEN
lifts the block: OPEN, event 8. A RING_CHANGE removes the dynamic addresses of the ring's ports. A check of another node goes on to the other port
of a node that does not manage the ring, with the manager's source address.
Each of these commands is shown to complete: addressAgeOut, atuReadIndex, atuWriteStatic, atuDeleteKey, atuLookupKey, atuFlushDynamic,
ringCheckReceive, ringOpen, ringChangeReceive. -/
def Obligations.BridgeTableAndRing : Prop :=
  (∀ s : State, Quiet s →
     (∀ (i : Fin 4096) (e : AtuE), s.atuAt i.val = some e → e.static = false → e.last + s.rd R.BR_AGE_SEC * 12288000 ≤ s.clk →
       Completes (.addressAgeOut i) s (fun t => t.atuAt i.val = none ∧ (∀ k, k ≠ i.val → t.atuAt k = s.atuAt k) ∧ Only [.eth] s t)) ∧
     (∀ path : Path, TakenAny s path →
       let key := s.atuKey
       let lost := fun t => Logged s t Pg.BR 0x070 0x40 path.code (BitVec.ofNat 32 (atuBucket key.1 key.2)) ∧ t.eth = s.eth ∧
         Only [.regs, .elog, .host, .outs] s t ∧ RegsOnly (A.BR_ATU_CMD :: errAddrs Pg.BR) s t
       let allStatic : Prop := ∀ k < 4, ∃ e, s.atuAt (4 * atuBucket key.1 key.2 + k) = some e ∧ e.static = true
       let wrote (i : Nat) (t : State) : Prop :=
         t.atuAt i = some ⟨key.1, key.2, s.rd R.BR_ATU_E2_PORTS, true, s.on R.BR_ATU_E2_STREAM, s.rd R.BR_ATU_E2_QUEUE, s.clk⟩ ∧
         (∀ k, k ≠ i → t.atuAt k = s.atuAt k) ∧ t.rd R.BR_ATU_IDX_IDX = i % 4096 ∧ Only [.regs, .eth, .host, .outs] s t ∧
         RegsOnly [A.BR_ATU_CMD, A.BR_ATU_IDX] s t
       let shown (e : AtuE) (t : State) : Prop :=
         t.getW A.BR_ATU_E0 = BitVec.ofNat 32 e.mac ∧ t.getW A.BR_ATU_E1 = BitVec.ofNat 32 (e.mac / 2 ^ 32 + e.vid * 2 ^ 16) ∧
         t.getW A.BR_ATU_E2 = BitVec.ofNat 32 (e.ports + b2n e.static * 2 ^ 8 + b2n e.stream * 2 ^ 9 + 2 ^ 10 + e.queue * 2 ^ 12)
       (∀ e : AtuE, s.atuAt (s.rd R.BR_ATU_IDX_IDX) = some e →
         Completes (.atuReadIndex path) s (fun t =>
           shown e t ∧ Only [.regs, .host, .outs] s t ∧ RegsOnly [A.BR_ATU_CMD, A.BR_ATU_E0, A.BR_ATU_E1, A.BR_ATU_E2] s t)) ∧
       (∀ i : Nat, s.atuFind key.1 key.2 = some i →
         (¬allStatic → Completes (.atuWriteStatic path) s (wrote i)) ∧
         Completes (.atuDeleteKey path) s (fun t =>
           t.atuAt i = none ∧ (∀ k, k ≠ i → t.atuAt k = s.atuAt k) ∧ Only [.regs, .eth, .host, .outs] s t ∧ RegsOnly [A.BR_ATU_CMD] s t) ∧
         Completes (.atuLookupKey path) s (fun t =>
           t.rd R.BR_ATU_IDX_IDX = i % 4096 ∧ t.eth = s.eth ∧ (∀ e, s.atuAt i = some e → shown e t) ∧ Only [.regs, .host, .outs] s t ∧
           RegsOnly [A.BR_ATU_CMD, A.BR_ATU_IDX, A.BR_ATU_E0, A.BR_ATU_E1, A.BR_ATU_E2] s t)) ∧
       (∀ i : Nat, s.atuFind key.1 key.2 = none → s.atuWay key.1 key.2 Option.isNone = some i → Completes (.atuWriteStatic path) s (wrote i)) ∧
       (allStatic → Completes (.atuWriteStatic path) s lost) ∧
       (s.atuFind key.1 key.2 = none →
         Completes (.atuDeleteKey path) s lost ∧ Completes (.atuLookupKey path) s lost) ∧
       (∀ ports : BitVec 5,
         Completes (.atuFlushDynamic path ports) s (fun t =>
           (∀ i e, t.atuAt i = some e → e.static = true ∨ (ports ≠ 0 ∧ e.ports &&& ports.toNat = 0)) ∧
           (∀ i e, s.atuAt i = some e → e.static = true → t.atuAt i = some e) ∧ Only [.regs, .eth, .host, .outs] s t ∧
           RegsOnly [A.BR_ATU_CMD] s t)))) ∧
  (∀ s : State, Quiet s →
     (∀ (p : Fin 4) (seq : Word), s.linkUp p.val = true → s.manager (p.val / 2) = true → s.on (ringBit (p.val / 2) 0) = true →
       Completes (.ringCheckReceive p s.mac seq) s (fun t =>
         t.rd (ringBit (p.val / 2) 0) = 0 ∧ t.rd (ringBit (p.val / 2) 1) = 1 ∧ t.pend Pg.BR 9 = true ∧ Counted s t R.BR_RING_CHANGE_COUNT ∧
         (tget ring0 t.eth.rings (p.val / 2)).last = s.ringBlock ∧ t.eth.atu = s.eth.atu ∧ Only [.regs, .eth] s t)) ∧
     (∀ n : Fin 2, s.manager n.val = true → s.on (ringBit n.val 1) = true → (tget ring0 s.eth.rings n.val).last + s.netTmo n.val ≤ s.ringBlock →
       Completes (.ringOpen n) s (fun t =>
         t.rd (ringBit n.val 0) = 1 ∧ t.rd (ringBit n.val 1) = 0 ∧ t.netBlocked n.val = false ∧ t.pend Pg.BR 8 = true ∧
         Counted s t R.BR_RING_CHANGE_COUNT ∧ t.eth.atu = s.eth.atu ∧ Only [.regs, .eth] s t)) ∧
     (∀ (p : Fin 4) (mac : Nat) (seq : Word), s.linkUp p.val = true → s.netRing (p.val / 2) = true →
       Completes (.ringChangeReceive p mac seq) s (fun t =>
         (∀ i e, t.atuAt i = some e → e.static = true ∨ (bitN e.ports (2 * (p.val / 2)) = 0 ∧ bitN e.ports (2 * (p.val / 2) + 1) = 0)) ∧
         (∀ i e, s.atuAt i = some e → e.static = true → t.atuAt i = some e) ∧ (∀ q, q ≠ mate p.val → t.port q = s.port q) ∧
         Only [.regs, .eth] s t) ∧
       (s.manager (p.val / 2) = false → mac ≠ s.mac →
         Completes (.ringCheckReceive p mac seq) s (fun t =>
           (∀ q, q ≠ mate p.val → t.port q = s.port q) ∧
           (∀ f ∈ (t.port (mate p.val)).frames, f ∈ (s.port (mate p.val)).frames ∨ (f.bytes.drop 6).take 6 = toBe 6 mac) ∧ t.eth.atu = s.eth.atu ∧ t.eth.rings = s.eth.rings ∧ Only [.regs, .eth] s t))))

/-- The MDIO master. An operation while BUSY is 0 goes out with the data register and makes it BUSY; while BUSY is 1 it records code 0x41 and
sends nothing. MDIO_DONE ends it with event 12: a read takes its answer, or without one 0xFFFF with NORESP and code 0x42.
Each of these commands is shown to complete: mdioAddress, mdioWrite, mdioRead, mdioReadInc, mdioDone. -/
def Obligations.MdioMaster : Prop :=
  (∀ (s : State) (path : Path) (phy reg : Fin 32) (cl45 : Bool), Quiet s → TakenAny s path →
    let went (op : Nat) (t : State) : Prop := t.rd R.BR_MDIO_CMD_BUSY = 1 ∧ t.eth = { s.eth with mdioRead := decide (2 ≤ op % 4) } ∧
      t.outs = .response path.code true [] :: .mdio op phy.val reg.val (s.rd R.BR_MDIO_DATA_DATA) :: s.outs ∧
      Only [.regs, .eth, .host, .outs] s t ∧ RegsOnly [A.BR_MDIO_CMD] s t
    let busy (w : Word) (t : State) : Prop := Logged s t Pg.BR 0x094 0x41 path.code w ∧ Answered s t path true [] ∧
      Only [.regs, .elog, .host, .outs] s t ∧ RegsOnly (errAddrs Pg.BR) s t
    (s.on R.BR_MDIO_CMD_BUSY = false →
      Completes (.mdioAddress path phy reg) s (went 4) ∧ Completes (.mdioWrite path cl45 phy reg) s (went (1 + 4 * b2n cl45)) ∧
      Completes (.mdioRead path cl45 phy reg) s (went (2 + 4 * b2n cl45)) ∧ Completes (.mdioReadInc path phy reg) s (went 7)) ∧
    (s.on R.BR_MDIO_CMD_BUSY = true →
      Completes (.mdioAddress path phy reg) s (busy (mdioWord 0 true phy.val reg.val)) ∧
      Completes (.mdioWrite path cl45 phy reg) s (busy (mdioWord 1 cl45 phy.val reg.val)) ∧
      Completes (.mdioRead path cl45 phy reg) s (busy (mdioWord 2 cl45 phy.val reg.val)) ∧
      Completes (.mdioReadInc path phy reg) s (busy (mdioWord 3 true phy.val reg.val)))) ∧
  (∀ s : State, Quiet s → s.on R.BR_MDIO_CMD_BUSY = true →
    (∀ d : BitVec 16, s.eth.mdioRead = true →
      Completes (.mdioDone (some d)) s (fun t =>
        t.rd R.BR_MDIO_CMD_BUSY = 0 ∧ t.rd R.BR_MDIO_DATA_DATA = d.toNat ∧ t.pend Pg.BR 12 = true ∧ Only [.regs] s t ∧
        RegsOnly [A.BR_MDIO_CMD, A.BR_MDIO_DATA, evtAddr Pg.BR] s t)) ∧
    (s.eth.mdioRead = true →
      Completes (.mdioDone none) s (fun t =>
        t.rd R.BR_MDIO_CMD_BUSY = 0 ∧ t.rd R.BR_MDIO_DATA_DATA = 0xFFFF ∧ t.rd R.BR_MDIO_CMD_NORESP = 1 ∧ t.pend Pg.BR 12 = true ∧
        Logged s t Pg.BR 0x094 0x42 0 (BitVec.ofNat 32 (s.rd R.BR_MDIO_CMD_PHY)) ∧ Only [.regs, .elog] s t)) ∧
    (∀ a : Option (BitVec 16), s.eth.mdioRead = false →
      Completes (.mdioDone a) s (fun t =>
        t.rd R.BR_MDIO_CMD_BUSY = 0 ∧ t.pend Pg.BR 12 = true ∧ Only [.regs] s t ∧ RegsOnly [A.BR_MDIO_CMD, evtAddr Pg.BR] s t)))

/-! Chapter 09: audio streams. -/

/-- COPY_RECEIVE. A frame of no enabled stream counts NOSTREAM; of a stream, a format error, an unknown source and a presentation too far ahead
each count alone; the first copy of an identity in time makes the stream RECEIVING, is held with its samples and counts for its source; a later
one counts as a duplicate and leaves what is held. PLAYOUT_DEADLINE releases what has passed its deadline and 128 samples, and nothing else.
Each of these commands is shown to complete: copyReceive, playoutDeadline. -/
def Obligations.StreamCopies : Prop :=
  (∀ (s : State) (port : Fin 4) (f : Bytes), Quiet s → s.heard port.val = true → s.enabled Pg.STRX = true → s.mode.cur.counts = true →
    s.switchDue = false → s.applyDue = false →
    let h := parseFrame f
    let b := s.copyTables h
    let counted (n k : Nat) (t : State) : Prop :=
      t.rx n = { s.rx n with cnt := tset zeroNat (s.rx n).cnt k (min 0xFFFFFFFF (tget zeroNat (s.rx n).cnt k + 1)) } ∧
      (∀ m, m ≠ n → t.rx m = s.rx m) ∧ Only [.str] s t
    (rxMatch b h = none →
      Completes (.copyReceive port f) s (fun t => Counted s t R.STRX_NOSTREAM_COUNT ∧ Only [.regs] s t ∧ RegsOnly [A.STRX_NOSTREAM] s t)) ∧
    (∀ n : Nat, rxMatch b h = some n →
      let w := rxW b n 0
      let got := if eRtp w then s.parseRtp w (rxW b n 2) (rxW b n 3) h.payload else s.parseAaf w h.payload
      (got = none → Completes (.copyReceive port f) s (counted n 12)) ∧
      (∀ k : RxPkt, got = some k → copySrc b n port.val h.src = none → Completes (.copyReceive port f) s (counted n 14)) ∧
      (∀ (k : RxPkt) (src : Nat), got = some k → copySrc b n port.val h.src = some src →
        let half := !e96 w
        let q := s.ingestAt ⟨k.p, half, 0, false, 0, []⟩ (herdOfs b (eHerd w))
        let len : Nat := k.frames.length * (if half then 2 else 1)
        let first := q.toNat / 8
        (8 * (s.rd R.STRX_CFG_AHEAD : Int) < q - 8 * (s.block : Int) → Completes (.copyReceive port f) s (counted n 10)) ∧
        (q - 8 * (s.block : Int) ≤ 8 * (s.rd R.STRX_CFG_AHEAD : Int) → 0 < q + len → s.played first = false →
          s.played ((q + len - 1).toNat / 8) = false → s.rxBefore first = false →
          ((∀ c ∈ (s.rx n).held, c.p ≠ k.p) →
            Completes (.copyReceive port f) s (fun t =>
              (t.rx n).state = .receiving ∧ (t.rx n).seq = some k.seq ∧
              (∃ c ∈ (t.rx n).held, c.p = k.p ∧ c.seq = k.seq ∧ c.src = src ∧ c.conc = k.conc ∧ (half = false → c.frames = k.frames)) ∧
              tget zeroNat (t.rx n).cnt src = min 0xFFFFFFFF (tget zeroNat (s.rx n).cnt src + 1) ∧ Only [.free, .regs, .jobs, .str] s t)) ∧
          (∀ c : HeldCopy, (s.rx n).held.find? (fun x => x.p == k.p) = some c → c.seq = k.seq → (c.conc = false ∨ k.conc = true) →
            Completes (.copyReceive port f) s (fun t =>
              (t.rx n).held = (s.rx n).held ∧
              tget zeroNat (t.rx n).cnt (4 + src) = min 0xFFFFFFFF (tget zeroNat (s.rx n).cnt (4 + src) + 1) ∧
              (∀ m, m ≠ n → t.rx m = s.rx m) ∧ Only [.str] s t)))))) ∧
  (∀ s : State, Quiet s →
    let keeps (n : Nat) (c : HeldCopy) : Prop :=
      let e := s.ingestAt c (herdOfs s.active (eHerd (rxW s.active n 0))) + c.frames.length
      s.played ((e - 1).toNat / 8) = false ∨ (s.smp : Int) < e + 128
    Completes .playoutDeadline s (fun t =>
      (∀ n c, c ∈ (t.rx n).held → keeps n c) ∧ (∀ n c, c ∈ (s.rx n).held → keeps n c → c ∈ (t.rx n).held) ∧
      t.str = { s.str with rx := t.str.rx, rxWas := t.str.rxWas, rxPast := t.str.rxPast } ∧ Only [.str] s t))

/-- UNDERRUN of a receiving stream whose block is not whole at UND_TICK: the stream is judged and marked, its run of underruns grows, its block is
tainted, and STRX event 8 is set. SRC_LOST after 16 underruns in a row, or 12,000 blocks of waiting, makes it IDLE with event 10.
STREAM_PACKET_QUEUE sends the packet of a transmit stream once per block, in ascending stream number, counted for both networks.
STRX_APPLY and STTX_APPLY take the latent tables of their direction for the next block boundary, and are refused with code 0x05 while a
DEVELOP is armed; STREAM_APPLIED at the boundary puts them into the active bank and clears NEXT, with event 11; a receive stream that
stays enabled with its ID and source addresses unchanged goes on, any other enabled one starts afresh (R241).
Each of these commands is shown to complete: underrun, srcLost, streamPacketQueue, strxApply, sttxApply, streamApplied. -/
def Obligations.StreamWindowsAndTables : Prop :=
  ((∀ (s : State) (n : Fin 256) (blk : Nat), Quiet s → s.block = blk + 1 → s.rxLive n.val blk = true → s.rd R.STRX_CFG_UND_TICK ≤ s.tick →
     s.played blk = false → s.rxBefore blk = false → (s.rx n.val).judged ≠ some blk → s.rxFills n.val blk = true → s.streamBlock n.val blk = none →
     let h := eHerd (rxW (s.rxBank blk) n.val 0)
     let v := s.rx n.val
     Completes (.underrun n) s (fun t =>
       (t.rx n.val).judged = some blk ∧ (t.rx n.val).under = true ∧
       (t.rx n.val).run = (if v.under = true ∧ 0 < blk ∧ v.judged = some (blk - 1) then v.run + 1 else 1) ∧
       (herdGang (s.rxBank blk) h = false ∨ (s.herd h).gang.any (fun g => g.1 == blk) = false → (t.rx n.val).taint = true) ∧
       tget zeroNat (t.rx n.val).cnt 13 = min 0xFFFFFFFF (tget zeroNat v.cnt 13 + 1) ∧ t.pend Pg.STRX 8 = true ∧
       (t.herd h).under = some blk ∧ Only [.regs, .jobs, .str] s t)) ∧
   (∀ (s : State) (n : Fin 256), Quiet s → eEn (rxW s.active n.val 0) = true → s.enabled Pg.STRX = true →
     ((s.rx n.val).state = .receiving ∧ 16 ≤ (s.rx n.val).run ∧ s.rxUnder n.val = true) ∨
       ((s.rx n.val).state = .waiting ∧ (s.rx n.val).start + 12000 ≤ s.block) →
     Completes (.srcLost n) s (fun t =>
       t.rx n.val = { s.rx n.val with state := .idle } ∧ (∀ m, m ≠ n.val → t.rx m = s.rx m) ∧ t.pend Pg.STRX 10 = true ∧
       Only [.regs, .str] s t ∧ RegsOnly [evtAddr Pg.STRX] s t)) ∧
   (∀ (s : State) (n : Fin 128), Quiet s → s.packetDue n.val = true → (∀ m, m < n.val → s.packetDue m = false) → s.switchDue = false →
     s.applyDue = false →
     Completes (.streamPacketQueue n) s (fun t =>
       (∃ b, t.outs = .packet n.val b :: s.outs) ∧ (t.tx n.val).last = some s.block ∧ t.packetDue n.val = false ∧
       (t.tx n.val).sent = min 0xFFFFFFFF ((s.tx n.val).sent + 2) ∧ (∀ m, m ≠ n.val → t.tx m = s.tx m) ∧
       (∀ m, t.rx m = s.rx m) ∧ Only [.outs, .free, .regs, .eth, .str] s t))) ∧
  ((∀ (s : State) (path : Path), Quiet s → TakenAny s path → s.mode.cur ≠ .leader →
     (s.dev.state = .armed →
       (s.str.rxApply = none →
         Completes (.strxApply path) s (fun t =>
           Logged s t Pg.STRX 0x044 0x05 path.code 1 ∧ Only [.regs, .elog, .host, .outs] s t ∧ RegsOnly (errAddrs Pg.STRX) s t)) ∧
       (s.str.txApply = none →
         Completes (.sttxApply path) s (fun t =>
           Logged s t Pg.STTX 0x048 0x05 path.code 1 ∧ Only [.regs, .elog, .host, .outs] s t ∧ RegsOnly (errAddrs Pg.STTX) s t))) ∧
     (s.dev.state ≠ .armed →
       (let b := putRegions s.active s.latent rxRegions
        s.str.rxApply = none → (rtpChans (fun n => rxW b n 0) 256 0x601000).2 = none → rxReserved b = none → rxInvalid s.active b = none →
         Completes (.strxApply path) s (fun t =>
           t.str = { s.str with rxApply := some (s.block + 1, putRegions [] s.latent rxRegions) } ∧ t.rd R.STRX_APPLY_NEXT = 1 ∧
           Only [.regs, .str, .host, .outs] s t ∧ RegsOnly [A.STRX_APPLY] s t)) ∧
       (let b := putRegions s.active s.latent txRegions
        s.str.txApply = none → (rtpChans (fun n => txW b n 0) 128 0x603000).2 = none → txReserved b = none → txInvalid b = none →
         Completes (.sttxApply path) s (fun t =>
           t.str = { s.str with txApply := some (s.block + 1, putRegions [] s.latent txRegions) } ∧ t.rd R.STTX_APPLY_NEXT = 1 ∧
           Only [.regs, .str, .host, .outs] s t ∧ RegsOnly [A.STTX_APPLY] s t)))) ∧
   (∀ (s : State) (b : Nat) (m : Mem), Quiet s → b ≤ s.block → s.bndDue = false →
     (s.str.rxApply = some (b, m) →
       Completes (.streamApplied false) s (fun t =>
         t.active = putRegions s.active m rxRegions ∧ t.str.rxApply = none ∧ t.str.txApply = s.str.txApply ∧
         t.str.rxWas = some (8 * b, putRegions [] s.active rxRegions) ∧
         (∀ n, n < 256 →
           let on (x : Mem) := eEn (rxW x n 0)
           let key (x : Mem) := [1, 2, 4, 5, 6, 7].map (rxW x n)
           (on s.active = true → on t.active = true → key s.active = key t.active → t.rx n = s.rx n) ∧
           (on t.active = true → on s.active = false ∨ key s.active ≠ key t.active → t.rx n = { rx0 n with start := b, cnt := (s.rx n).cnt })) ∧ t.rd R.STRX_APPLY_NEXT = 0 ∧
         t.pend Pg.STRX 11 = true ∧ Only [.regs, .active, .str] s t ∧ RegsOnly [A.STRX_APPLY, evtAddr Pg.STRX] s t)) ∧
     (s.str.txApply = some (b, m) →
       Completes (.streamApplied true) s (fun t =>
         t.active = putRegions s.active m txRegions ∧ t.str.txApply = none ∧ t.str.rxApply = s.str.rxApply ∧ (∀ n, t.rx n = s.rx n) ∧ t.rd R.STTX_APPLY_NEXT = 0 ∧
         t.pend Pg.STTX 11 = true ∧ Only [.regs, .active, .str] s t ∧ RegsOnly [A.STTX_APPLY, evtAddr Pg.STTX] s t))))

/-! Chapter 10: PTP, references, holdover and the audio PLL. -/

/-- The PTP servo. A one-step SYNC of the followed master, and the FOLLOW_UP of a two-step one, give the offset of R257: shown in PTP_OFFSET and
counted; beyond the step threshold with stepping enabled time is stepped, LOCK falls and event 12 is set, else the integral term takes its share
and the rate is limited to 500 ppm. A two-step SYNC only waits. PTP_LOCKED sets LOCK with event 8; MASTER_LOST clears it, forgets the master, holds the rate and
sets event 11.
Time of day and PTP settings. PTP_TOD_WRITE is refused with code 0x05 outside COMMISSION; there, in the master-capable role and no slave, it
takes both words for the next boundary; TOD_APPLY then sets TL_OFS so that the boundary falls at those seconds, with TL event 11.
PTP_CONFIG_APPLY at its boundary brings PTP_CFG into force and returns the port to LISTENING or DISABLED.
Each of these commands is shown to complete: sync, followUp, ptpLocked, masterLost, ptpTodWrite, todApply, ptpConfigApply. -/
def Obligations.PtpClock : Prop :=
  (∀ s : State, Quiet s →
     let took (o d : Int) (t : State) : Prop :=
       t.getW A.PTP_OFFSET = satWord o ∧ t.getW A.PTP_MPD = satWord d ∧ Counted s t R.PTP_RX_SYNC_COUNT ∧ t.ptp.lastSync = s.clk ∧ t.ptp.wait = none ∧
       (s.on R.PTP_CFG_STEP_EN = true → s.rd R.PTP_STEP_NS < o.natAbs →
         t.ptp.time = (if s.takesMsgs then s.ptp.time else s.ptp.time - o * 65536) ∧ t.on R.PTP_STAT_LOCK = false ∧ Counted s t R.PTP_STEPS_COUNT ∧ t.pend Pg.PTP 12 = true ∧
         t.ptp.i16 = s.ptp.i16) ∧
       (s.on R.PTP_CFG_STEP_EN = false ∨ o.natAbs ≤ s.rd R.PTP_STEP_NS →
         t.ptp.time = s.ptp.time ∧ t.ptp.i16 = s.ptp.i16 + (s.rd R.PTP_SERVO_KI : Int) * o ∧
         t.ptp.adj16 = max (-32768000000) (min 32768000000 (t.ptp.i16 + (s.rd R.PTP_SERVO_KP : Int) * o)) ∧
         t.ptp.adjNow = if s.ownNow then t.ptp.adj16 else s.ptp.adjNow) ∧
       Only [.regs, .ptp] s t
     (∀ (port : Fin 4) (m : SyncMsg), s.fromMaster port.val m = true →
       (m.twoStep = false →
         Completes (.sync port m) s (took (m.ingress - m.origin - m.correction - s.pathDelay port.val) (s.pathDelay port.val))) ∧
       (m.twoStep = true →
         Completes (.sync port m) s (fun t => t.ptp = { s.ptp with wait := some (m, port.val), lastSync := s.clk } ∧ Only [.ptp] s t)) ∧
       (∀ w : SyncMsg, s.ptp.wait = some (w, port.val) → w.source = m.source → w.seq = m.seq →
         Completes (.followUp port m) s
           (took (w.ingress - m.origin - (w.correction + m.correction) - s.pathDelay port.val) (s.pathDelay port.val)))) ∧
     (s.ptpState = 3 → s.on R.PTP_STAT_LOCK = false → s.rd R.PTP_LOCK_COUNT ≤ s.ptp.good →
       Completes .ptpLocked s (fun t =>
         t.on R.PTP_STAT_LOCK = true ∧ t.pend Pg.PTP 8 = true ∧ Only [.regs] s t ∧ RegsOnly [A.PTP_STAT, evtAddr Pg.PTP] s t)) ∧
     (s.ptpState = 3 → s.masterSilent = true →
       Completes .masterLost s (fun t =>
         t.on R.PTP_STAT_LOCK = false ∧ (s.ptpRole ≠ 2 → t.on R.PTP_STAT_HOLD = true) ∧ (∀ f ∈ t.ptp.foreign, some f.m.source ≠ s.ptp.parent) ∧ Counted s t R.PTP_SYNC_LOST_COUNT ∧ t.pend Pg.PTP 11 = true ∧
         t.ptp.adj16 = s.ptp.adj16 ∧ t.ptp.i16 = s.ptp.i16 ∧ t.ptp.wait = none ∧ Only [.regs, .ptp] s t))) ∧
  (∀ s : State, Quiet s →
     (∀ (path : Path) (v : Word), TakenAny s path →
       (s.mode.cur ≠ .commission →
         Completes (.ptpTodWrite path v) s (fun t =>
           Logged s t Pg.PTP 0x094 0x05 path.code (BitVec.ofNat 32 (bitsN v.toNat 0 16)) ∧ t.ptp = s.ptp ∧ Only [.regs, .elog, .host, .outs] s t ∧
           RegsOnly (errAddrs Pg.PTP) s t)) ∧
       (∀ w : Word, s.mode.cur = .commission → s.ptpRole = 2 → s.ptpState ≠ 3 →
         tget noWord s.host.loStage (stageKey path.code A.PTP_TOD_LO) = some w →
         Completes (.ptpTodWrite path v) s (fun t =>
           t.ptp = { s.ptp with tod := some (bitsN v.toNat 0 16 * 2 ^ 32 + w.toNat, s.block + 1) } ∧ t.tlOfs = s.tlOfs ∧
           Only [.regs, .ptp, .host, .outs] s t ∧ RegsOnly [A.PTP_TOD_LO, A.PTP_TOD_HI] s t))) ∧
     (∀ sec b : Nat, s.ptp.tod = some (sec, b) → b ≤ s.block →
       Completes .todApply s (fun t =>
         t.tlOfs = s.tlOf (8 * b) - sec * 96000 ∧ t.ptp = { s.ptp with tod := none } ∧ t.pend Pg.TL 11 = true ∧ t.tl = s.tl ∧
         Only [.tlOfs, .regs, .ptp, .str] s t ∧ RegsOnly [evtAddr Pg.TL] s t)) ∧
     (∀ b : Nat, s.ptp.cfgAt = some b → b ≤ s.block →
       Completes .ptpConfigApply s (fun t =>
         t.forceW A.PTP_CFG = s.getW A.PTP_CFG ∧ (∀ a, a ≠ A.PTP_CFG → t.forceW a = s.forceW a) ∧ t.ptpState ≤ 1 ∧ t.on R.PTP_STAT_GM = false ∧
         t.on R.PTP_STAT_LOCK = false ∧ t.ptp.cfgAt = none ∧ t.ptp.foreign = [] ∧ t.ptp.parent = none ∧ Only [.regs, .inForce, .ptp] s t ∧
         RegsOnly [A.PTP_STAT, evtAddr Pg.PTP] s t)))

/-- PTP messages. ANNOUNCE of another clock in the domain is counted and kept, and a slave-only port follows a master heard twice in its window
where no other is; a clock that serves answers DELAY_REQ and sends SYNC and ANNOUNCE at their intervals on every port whose link is up; DELAY_REQ_SEND
sends a request at its interval, and a DELAY_RESP and a PDELAY_RESP_FOLLOW_UP complete a measurement of which the mean of the last 8 is taken. Every
message sent is a stored frame of queue 7.
Each of these commands is shown to complete: announce, delayReq, delayResp, pdelayReq, pdelayResp, pdelayRespFollowUp, syncSend, announceSend,
delayReqSend. -/
def Obligations.PtpMessages : Prop :=
  ∀ s : State, Quiet s →
    let sent (p : Nat) (msg : Bytes) (t : State) : Prop := ∃ f pre, (t.port p).frames = [f] ∧ f.bytes = pre ++ msg ∧ f.queue = 7 ∧ f.inTs = none
    let room (p : Nat) : Prop := (s.port p).frames = [] ∧ 128 ≤ s.maxLen p
    let sentOn (p : Nat) (msg : Bytes) (t : State) : Prop := sent p msg t ∧ ∀ q, q ≠ p → t.port q = s.port q
    (∀ (port : Fin 4) (m : AnnounceMsg), s.heard port.val = true → s.enabled Pg.PTP = true → s.ptpRole ≠ 0 → m.domain = s.force R.PTP_CFG_DOMAIN →
      s.transport m.udp = true → s.ptpState ≠ 0 → m.source / 65536 ≠ s.clockId → m.path = false → m.steps < 255 →
      Completes (.announce port m) s (fun t =>
        Counted s t R.PTP_RX_ANN_COUNT ∧ (∃ f ∈ t.ptp.foreign, f.m = m ∧ f.port = port.val ∧ f.last = s.clk) ∧
        (s.on R.PTP_STAT_GM = false → t.ptp.time = s.ptp.time) ∧ Only [.regs, .ptp] s t ∧
        (∀ f : Foreign, s.ptpRole = 1 → s.ptp.foreign.find? (fun f => f.m.source == m.source) = some f → s.clk ≤ f.last + 4 * s.annTicks →
          (∀ g ∈ s.ptp.foreign, g.m.source ≠ m.source → s.qualified g = false) →
          t.ptpState = 3 ∧ t.on R.PTP_STAT_GM = false ∧ t.rd R.PTP_STAT_PORT = port.val ∧ t.ptp.parent = some m.source ∧
          t.rd R.PTP_GMQ_Q = m.gmQuality % 65536))) ∧
    (∀ (port : Fin 4) (m : DelayMsg), s.heard port.val = true →
      (s.serves = true → s.on R.PTP_TC_CFG_P2P = false → m.domain = s.force R.PTP_CFG_DOMAIN → s.transport m.udp = true → room port.val →
        Completes (.delayReq port m) s (fun t =>
          sentOn port.val (s.ptpMsg 9 0x0008 0 1 m.seq (logMsgInterval (s.rd R.PTP_INTV_DLY)) (ptpStamp m.localTs ++ toBe 10 m.source)) t ∧ Only [.eth] s t)) ∧
      (∀ (q : DelayReq) (left : Int), s.ptp.dly = some q → q.sent = some left → s.enabled Pg.PTP = true → s.ptpState = 3 → s.on R.PTP_TC_CFG_P2P = false →
        m.domain = s.force R.PTP_CFG_DOMAIN → s.transport m.udp = true → q.seq = m.seq → m.answers = s.ptpId 1 →
        s.ptp.parent = some m.source → s.rd R.PTP_STAT_PORT = port.val →
        Completes (.delayResp port m) s (fun t =>
          t.ptp = { s.ptp with dly := none, e2e := ((4 * (s.ptp.diff + m.remote) - left) / 8 :: s.ptp.e2e).take 8 } ∧
          t.getW A.PTP_MPD = satWord (t.pathDelay port.val) ∧ Only [.regs, .ptp] s t ∧ RegsOnly [A.PTP_MPD] s t)) ∧
      (s.on R.PTP_TC_CFG_P2P = true → m.udp = false →
        (room port.val →
          Completes (.pdelayReq port m) s (fun t =>
            sentOn port.val (s.ptpMsg 3 0x0208 0 (port.val + 1) m.seq 0x7F (ptpStamp m.localTs ++ toBe 10 m.source)) t ∧ Only [.eth] s t)) ∧
        (∀ q : DelayReq, tget noDly s.ptp.pdly port.val = some q → q.seq = m.seq → m.answers = s.ptpId (port.val + 1) →
          Completes (.pdelayResp port m) s (fun t =>
            tget noDly t.ptp.pdly port.val = some { q with t2 := some m.remote, t4 := m.localTs } ∧
            (∀ p, p ≠ port.val → tget noDly t.ptp.pdly p = tget noDly s.ptp.pdly p) ∧ Only [.ptp] s t) ∧
          (∀ t1 t2 : Int, q.sent = some t1 → q.t2 = some t2 →
            Completes (.pdelayRespFollowUp port m) s (fun t =>
              tget noP2p t.ptp.p2p port.val = ((4 * (q.t4 - (m.remote - t2)) - t1) / 8 :: tget noP2p s.ptp.p2p port.val).take 8 ∧
              tget noDly t.ptp.pdly port.val = none ∧ t.on (R.PTP_LINK_DLY_VALID port.val) = true ∧ Only [.regs, .ptp] s t ∧
              RegsOnly [A.PTP_LINK_DLY port.val] s t))))) ∧
    (s.serves = true →
      (s.ptpDue 5 (s.rd R.PTP_INTV_SYNC) = true →
        Completes .syncSend s (fun t =>
          (∀ p, p < 4 → s.linkUp p = true → room p →
            sent p (s.ptpMsg 0 (if s.force R.PTP_CFG_PROFILE = 1 then 0x0008 else 0x0208) 0 1 t.ptp.seqNo (logMsgInterval (s.rd R.PTP_INTV_SYNC))
              (List.replicate 10 0)) t) ∧
          t.ptp = { s.ptp with seqNo := (s.ptp.seqNo + 1) % 65536, sentAt := tset noSent s.ptp.sentAt 5 (some s.clk) } ∧ Only [.regs, .eth, .ptp] s t)) ∧
      (s.annWaited = false → s.ptpDue 6 (s.rd R.PTP_INTV_ANN) = true →
        Completes .announceSend s (fun t =>
          (∀ p, p < 4 → s.linkUp p = true → room p →
            sent p (t.ptpMsg 11 0x0008 0 1 t.ptp.seqNo (logMsgInterval (s.rd R.PTP_INTV_ANN)) t.annBody) t) ∧
          t.rd R.PTP_GMQ_Q = s.outQ % 65536 ∧
          t.ptp = { s.ptp with seqNo := (s.ptp.seqNo + 1) % 65536, sentAt := tset noSent s.ptp.sentAt 6 (some s.clk) } ∧ Only [.regs, .eth, .ptp] s t))) ∧
    (s.annWaited = true →
      Completes .announceSend s (fun t =>
        t.ptpState = 4 ∧ t.on R.PTP_STAT_GM = true ∧ t.ptp.parent = some (s.ptpId 1) ∧ t.ptp.foreign = [] ∧ Only [.regs, .eth, .ptp] s t)) ∧
    (∀ port : Fin 4, s.heard port.val = true → room port.val →
      (s.on R.PTP_TC_CFG_P2P = true → s.ptpDue port.val (s.rd R.PTP_INTV_DLY) = true →
        Completes (.delayReqSend port) s (fun t =>
          sentOn port.val (s.ptpMsg 2 0x0008 0 (port.val + 1) t.ptp.seqNo (logMsgInterval (s.rd R.PTP_INTV_DLY)) (List.replicate 20 0)) t ∧
          tget noDly t.ptp.pdly port.val = some ⟨t.ptp.seqNo, none, none, 0⟩ ∧ t.ptp.seqNo = (s.ptp.seqNo + 1) % 65536 ∧ Only [.eth, .ptp] s t)) ∧
      (s.on R.PTP_TC_CFG_P2P = false → s.enabled Pg.PTP = true → s.ptpState = 3 → s.rd R.PTP_STAT_PORT = port.val →
        s.ptpDue 4 (s.rd R.PTP_INTV_DLY) = true →
        Completes (.delayReqSend port) s (fun t =>
          sentOn port.val (s.ptpMsg 1 0x0008 0 1 t.ptp.seqNo 0x7F (List.replicate 10 0)) t ∧
          t.ptp.dly = some ⟨t.ptp.seqNo, none, none, 0⟩ ∧ t.ptp.seqNo = (s.ptp.seqNo + 1) % 65536 ∧ Only [.eth, .ptp] s t)))

/-- Reference selection. CAND_CHANGE shows a candidate's input; SWITCH_DONE once the phase error has stayed within its window for the lock time makes the switch LOCKED with event 9; SWITCH_FAIL
after the switch time records code 0x40 with the candidate and event 14, and chooses again; WTR_END ends a wait that has run out;
SERVICE_CHANGE takes the written service, and leaving RUN ends waits and disqualifications; APLL_LOST sets event 13 and takes the clock of every
running master group (R448), APLL_RELOCK ends the loss.
Each of these commands is shown to complete: candChange, switchDone, switchFail, wtrEnd, serviceChange, apllLost, apllRelock. -/
def Obligations.ReferenceSelection : Prop :=
  ∀ s : State, Quiet s →
    (∀ (n : Fin 8) (p : Bool),
      Completes (.candChange n p) s (fun t =>
        (t.cand n.val).input = p ∧ (∀ k, k ≠ n.val → t.cand k = s.cand k) ∧ t.ref = { s.ref with cands := t.ref.cands } ∧ Only [.ref] s t)) ∧
    (s.ref.state = .acquiring → s.ref.again = false →
      (s.ref.loop.zero.isSome = true → s.ref.loop.inSince + 12 * s.force R.REF_LOCK_MS ≤ s.block →
        Completes .switchDone s (fun t =>
          t.ref.state = .locked ∧ t.ref.act = s.ref.act ∧ t.ref.everLocked = true ∧ t.pend Pg.REF 9 = true ∧
          (∀ n, n < 8 → (t.cand n).later = false ∧ ((s.cand n).later = true → (t.cand n).wait = s.waitFor)) ∧ Only [.regs, .ref] s t ∧
          RegsOnly [evtAddr Pg.REF] s t)) ∧
      (s.ref.swAt + 12000 * s.force R.REF_SWT_S ≤ s.block →
        Completes .switchFail s (fun t =>
          t.ref.again = true ∧ t.ref.act = s.ref.act ∧ t.ref.state = .acquiring ∧ t.pend Pg.REF 14 = true ∧
          Logged s t Pg.REF 0x070 0x40 0 (BitVec.ofNat 32 s.ref.act) ∧ (s.ref.svc = 1 → (t.cand s.ref.act).wait = s.waitFor) ∧
          Only [.regs, .elog, .ref] s t ∧ RegsOnly (errAddrs Pg.REF) s t))) ∧
    (∀ n : Fin 8, (s.cand n.val).wait = some 0 →
      Completes (.wtrEnd n) s (fun t =>
        t.cand n.val = { s.cand n.val with wait := none } ∧ (∀ k, k ≠ n.val → t.cand k = s.cand k) ∧ Only [.ref] s t)) ∧
    (∀ b : Nat, s.ref.svcAt = some b → b ≤ s.block →
      Completes .serviceChange s (fun t =>
        t.ref.svc = s.rd R.REF_CFG_SVC ∧ t.ref.svcAt = none ∧ t.ref.state = s.ref.state ∧ t.ref.act = s.ref.act ∧
        (s.ref.svc = 1 → s.rd R.REF_CFG_SVC ≠ 1 → ∀ n, n < 8 → (t.cand n).wait = none ∧ (t.cand n).disq = false) ∧
        (s.ref.svc = 2 → s.rd R.REF_CFG_SVC ≠ 2 → t.on R.REF_FORCE_EN = false) ∧ Only [.regs, .ref] s t ∧ RegsOnly [A.REF_FORCE] s t)) ∧
    (s.audio.apllLost = false → s.mode.cur.counts = true →
      Completes .apllLost s (fun t =>
        t.audio = { s.audio with apllLost := true, grps := t.audio.grps } ∧ t.pend Pg.REF 13 = true ∧ Only [.outs, .regs, .audio, .psm] s t ∧
        (∀ g, (gcfg s.active g).master = false → t.grp g = s.grp g) ∧
        (∀ g, g < 8 → (gcfg s.active g).master = true → clockedUse s.active g = true → (s.grp g).phase = .run →
          (t.grp g).phase = .lost none ∧ t.pend (Pg.SAPG g) 8 = true ∧ Counted s t (R.SAPG_CLKLOSS_CNT_COUNT g)))) ∧
    (s.audio.apllLost = true → s.mode.cur ≠ .dark →
      Completes .apllRelock s (fun t => t.audio = { s.audio with apllLost := false } ∧ Only [.audio, .psm] s t))

/-- The frequency monitor and holdover. FREQ_MEASURE shows the average of each present candidate, disqualifies in RUN one outside the window with
event 11, and adds a second that was LOCKED all through to the history; HOLDOVER_UPDATE computes the control frequency of R280 and counts the second; AGE_UPD
keeps an hour's mean and fits the ageing model once it holds enough hours; SPEC_END past HOLD_SPEC sets HOLD event 10.
Each of these commands is shown to complete: freqMeasure, holdoverUpdate, ageUpd, specEnd. -/
def Obligations.Holdover : Prop :=
  ∀ s : State, Quiet s →
    (∀ (l : List Int) (temp : Int), s.ref.measAt + 12288000 ≤ s.clk → s.mode.cur.counts = true →
      Completes (.freqMeasure l temp) s (fun t =>
        t.ref.measAt = s.clk ∧ t.ref.state = s.ref.state ∧ t.ref.act = s.ref.act ∧
        (∀ n, n < 8 → s.candPresent n = true → t.getW (A.REF_CFREQ n) = satWord (nth 0 l n)) ∧
        (∀ n, n < 8 → s.candPresent n = true → s.ref.svc = 1 → (s.cand n).disq = false → 160 * s.force R.REF_FWIN_PPM < (nth 0 l n).natAbs →
          (t.cand n).disq = true ∧ t.pend Pg.REF 11 = true) ∧
        (s.ref.state = .locked → s.ref.secOk = true → s.ref.uN ≠ 0 →
          t.ref.hist = (⟨s.ref.secNo + 1, s.ref.uSum / (s.ref.uN : Int), t.ref.temp, s.ref.ageSec + 1⟩ :: s.ref.hist).take 4096) ∧
        (s.ref.state ≠ .locked ∨ s.ref.secOk = false → t.ref.hist = s.ref.hist) ∧
        Only [.free, .regs, .ref] s t ∧ RegsOnly ([evtAddr Pg.REF, A.REF_DISQ] ++ (List.range 8).map A.REF_CFREQ) s t)) ∧
    (∀ temp : Int, s.ref.state = .holdover → s.ref.holdAt + 12288000 ≤ s.clk →
      Completes (.holdoverUpdate temp) s (fun t =>
        t.ref.elapsed = s.ref.elapsed + 1 ∧ t.ref.holdAt = s.clk ∧ t.ref.state = .holdover ∧ (s.ref.base = none → t.ref.u = s.ref.u) ∧
        (∀ h : HistMean, s.ref.base = some h → s.rd R.HOLD_CFG_TSRC = 0 →
          t.ref.u = h.u + h.t - s.tempTerm temp + h.a - s.ageTerm s.ref.ageSec ∧ t.ref.dac ≤ 65535) ∧ Only [.free, .ref] s t)) ∧
    (s.on R.HOLD_CFG_AGE_EN = true → s.ref.ageAt + 44236800000 ≤ s.clk →
      let h := if s.ref.hourN = 0 then s.rd R.HOLD_AGE_H_H else min 65535 (s.rd R.HOLD_AGE_H_H + 1)
      Completes .ageUpd s (fun t =>
        t.rd R.HOLD_AGE_H_H = h ∧ t.ref.ageAt = s.clk ∧ t.ref = { s.ref with ageAt := s.clk, hourSum := 0, hourN := 0, hours := t.ref.hours } ∧
        (s.ref.hourN ≠ 0 → t.ref.hours.head? = some (s.ref.ageSec - 1800, s.ref.hourSum / (s.ref.hourN : Int))) ∧
        (s.rd R.HOLD_AGE_MINH ≤ h → t.pend Pg.HOLD 11 = true ∧
          ∀ x, fitAge (max 1 (s.rd R.HOLD_AGE_TAU)) t.ref.hours = some x → t.getW A.HOLD_AGE_A = satWord x.1 ∧ t.getW A.HOLD_AGE_B = satWord x.2) ∧
        (h < s.rd R.HOLD_AGE_MINH → t.freeCtr = s.freeCtr ∧ RegsOnly [A.HOLD_AGE_H] s t) ∧ Only [.free, .regs, .ref] s t ∧
        RegsOnly [A.HOLD_AGE_H, A.HOLD_AGE_A, A.HOLD_AGE_B, evtAddr Pg.HOLD] s t)) ∧
    (s.ref.state = .holdover → s.ref.specDone = false → s.rd R.HOLD_SPEC_S < s.ref.elapsed →
      Completes .specEnd s (fun t =>
        t.ref = { s.ref with specDone := true } ∧ t.pend Pg.HOLD 10 = true ∧ Only [.regs, .ref] s t ∧ RegsOnly [evtAddr Pg.HOLD] s t))

/-! Chapter 11: twin redundancy. -/

/-- The twin link. TWIN_LINK_UP accepts a twin of the same silicon revision and boot image, of this pair and in the other position, and refuses any
other with event 17 and code 0x41 or 0x40; TWIN_LINK_DOWN, LANE_FAIL and LANE_RETURN count and show the lanes in lock.
Each of these commands is shown to complete: twinLinkUp, twinLinkDown, laneFail, laneReturn. -/
def Obligations.TwinLink : Prop :=
  ∀ s : State, Quiet s →
    (∀ p : PeerId, s.mode.cur.counts = true → s.twin.lanes = 0 → s.pwr.twlOff = false →
      let same := s.rd R.DEV_REV_SI_REV = p.siRev.toNat ∧ p.image = (List.range 8).map (fun i => s.getW (A.PWR_BOOT_DIG i))
      let placed := p.pairId = s.rd R.TW_CFG_PAIR_ID ∧ p.posA ≠ s.pwr.posA
      (same → placed →
        Completes (.twinLinkUp p) s (fun t =>
          t.twin = { s.twin with lanes := 2, peerRev := p.siRev.toNat, peerPosA := p.posA, pairOk := true, refused := false } ∧ t.twUp = true ∧
          Only [.twin] s t)) ∧
      (same → ¬placed →
        Completes (.twinLinkUp p) s (fun t =>
          t.twUp = false ∧ t.twin.refused = true ∧ t.pend Pg.TW 17 = true ∧ Logged s t Pg.TW 0 0x41 0 0 ∧ Only [.regs, .elog, .twin] s t ∧
          RegsOnly (errAddrs Pg.TW) s t)) ∧
      (¬same →
        Completes (.twinLinkUp p) s (fun t =>
          t.twUp = false ∧ t.twin.refused = true ∧ t.pend Pg.TW 17 = true ∧ Logged s t Pg.TW 0 0x40 0 p.devRev ∧ Only [.regs, .elog, .twin] s t ∧
          RegsOnly (errAddrs Pg.TW) s t))) ∧
    (s.twin.lanes ≠ 0 →
      Completes .twinLinkDown s (fun t =>
        t.twin = { s.twin with lanes := 0, pairOk := false, refused := false } ∧ Counted s t R.TW_LINK_DOWN_COUNT ∧ t.pend Pg.TW 16 = true ∧
        Only [.regs, .twin] s t ∧ RegsOnly [A.TW_LINK_DOWN, evtAddr Pg.TW] s t)) ∧
    (s.twin.lanes = 2 →
      Completes .laneFail s (fun t =>
        t.twin = { s.twin with lanes := 1 } ∧ Counted s t R.TW_LANE_FAIL_COUNT ∧ Only [.regs, .twin] s t ∧ RegsOnly [A.TW_LANE_FAIL] s t)) ∧
    (s.twin.lanes = 1 → Completes .laneReturn s (fun t => t.twin = { s.twin with lanes := 2 } ∧ Only [.twin] s t))

/-- Heartbeats. HEARTBEAT_SEND sends block, feed counter, role, drive and relinquish; TWIN_HEARTBEAT on a path that is present keeps its time and
counter; the path is lost by 2 µs of silence or by a counter that stands still, and is then a witness in FOLLOWER and ORPHAN. NET_HEARTBEAT in
order restores the network path, else it is counted; NHB_MISS counts a block without one and after TW_NHB_MISS.BLK of them loses the path.
Each of these commands is shown to complete: heartbeatSend, twinHeartbeat, hbSilence, hbStall, netHeartbeat, nhbMiss. -/
def Obligations.Heartbeats : Prop :=
  ∀ s : State, Quiet s →
    (s.beats = true → s.twUp = true →
      Completes .heartbeatSend s (fun t =>
        (∃ h, t.outs = .twin (.heartbeat h) :: s.outs ∧ h.block = s.tlBlock ∧ h.feed = s.psm.feed ∧ h.role.val = s.mode.cur.role ∧
          h.drive = s.twin.drive ∧ h.relinquish = s.twin.relq) ∧
        Only [.outs] s t)) ∧
    (∀ h : Heartbeat, s.twUp = true → s.on R.TW_CFG_EN = true →
      (s.twin.hb = true → h.relinquish = false → (s.mode.cur ≠ .leader ∨ h.role.val ≠ 2) →
        Completes (.twinHeartbeat h) s (fun t =>
          t.twin = { s.twin with hbAt := s.clk, hbFeed := h.feed, hbFeedAt := if h.feed ≠ s.twin.hbFeed then s.clk else s.twin.hbFeedAt, hbBack := none,
                                 peerRole := h.role.val, peerStep := s.twin.peerStep && decide (h.role.val = 3) } ∧ Only [.twin] s t)) ∧
      (h.relinquish = true → s.witnesses = true → s.twin.hb = true →
        Completes (.twinHeartbeat h) s (fun t =>
          t.twin.wRelq = some s.clk ∧ (s.relqStands = false → t.pend Pg.TW 10 = true) ∧ Only [.regs, .twin] s t ∧ RegsOnly [evtAddr Pg.TW] s t))) ∧
    (s.twin.hb = true →
      let lost (silent : Bool) (t : State) : Prop := t.twin.hb = false ∧ t.twin.inStep = false ∧ Counted s t R.TW_HB_LOSS_COUNT ∧
        t.twin.wLink = (if s.witnesses then some silent else none) ∧ t.twin.copy = .none ∧ t.twin.drive = s.twin.drive ∧ Only [.regs, .twin] s t ∧
        RegsOnly [A.TW_HB_LOSS, evtAddr Pg.TW] s t
      (usPassed (s.clk - s.twin.hbAt) 2 = true → Completes .hbSilence s (lost true)) ∧
      (usPassed (s.clk - s.twin.hbFeedAt) (s.rd R.TW_HB_TMO_US) = true → Completes .hbStall s (lost false))) ∧
    (∀ (port : Fin 4) (b : Bytes), s.heard port.val = true → s.on R.TW_CFG_EN = true → s.mode.cur.counts = true →
      let feed : Word := BitVec.ofNat 32 (beNat ((b.drop 10).take 4))
      let last := if port.val < 2 then s.twin.nhbA else s.twin.nhbB
      (s.nhbOk b = true → (∀ x, last = some x → x.2 ≠ feed) →
        Completes (.netHeartbeat port b) s (fun t =>
          t.twin.nhb = true ∧ t.twin.npart = false ∧ t.twin.wNet = false ∧ (if port.val < 2 then t.twin.nhbA else t.twin.nhbB) = some (s.tlBlock, feed) ∧
          t.twin.peerRole = bitsN (beNat ((b.drop 4).take 1)) 4 3 ∧ Only [.outs, .regs, .twin] s t)) ∧
      (s.nhbOk b = false ∨ (∃ x, last = some x ∧ x.2 = feed) →
        Completes (.netHeartbeat port b) s (fun t => Counted s t R.TW_NHB_BAD_COUNT ∧ Only [.regs] s t ∧ RegsOnly [A.TW_NHB_BAD] s t))) ∧
    (s.on R.TW_CFG_EN = true → s.twin.nhb = true → 512 ≤ s.tick → s.twin.nhbJudged ≠ s.tlBlock → s.nhbSeen = false →
      (s.twin.nhbMiss + 1 < s.rd R.TW_NHB_MISS_BLK →
        Completes .nhbMiss s (fun t => t.twin = { s.twin with nhbMiss := s.twin.nhbMiss + 1, nhbJudged := s.tlBlock } ∧ Only [.twin] s t)) ∧
      (s.rd R.TW_NHB_MISS_BLK ≤ s.twin.nhbMiss + 1 →
        Completes .nhbMiss s (fun t =>
          t.twin.nhb = false ∧ t.twin.wNet = s.witnesses ∧ t.twin.npart = s.twin.hb ∧ Counted s t R.TW_NHB_LOSS_COUNT ∧
          (s.twin.hb = true → t.pend Pg.TW 14 = true) ∧ Only [.regs, .twin] s t ∧ RegsOnly [A.TW_NHB_LOSS, evtAddr Pg.TW] s t)))

/-- What the leader sends and the follower takes. BLOCK_MESSAGE_SEND from tick 960 sends the block's message once, with the state fields where the chip leads;
BLOCK_MESSAGE that is complete by tick 1016 is kept for the boundary; a missed one counts a mismatch. A latent write late in a LEADER's block waits, and is
carried out on MIRROR_WRITE_RELEASE in the next. MIRRORED_WRITE is carried out without a key, under its sequence number; the leader's serial inputs are taken as
they come; DIGEST_RECEIVE of a taint mask sends the own digest, and of a digest compares it.
Each of these commands is shown to complete: blockMessageSend, blockMessage, blockMessageMissed, latentWindowWrite, mirroredWrite, mirrorBlock,
mirrorBlockMissed, digestReceive, mirrorWriteRelease. -/
def Obligations.TwinMirroring : Prop :=
  (∀ s : State, Quiet s →
    (s.mode.cur.counts = true → s.linked = true → 960 ≤ s.tick → s.twin.msgSent ≠ s.tlBlock →
      Completes .blockMessageSend s (fun t =>
        ∃ m : BlockMsg, t.outs = .twin (.block m) :: s.outs ∧ t.twin = { s.twin with msgSent := s.tlBlock, fixed := m.lead } ∧ m.block = s.tlBlock ∧
          m.outQuality = s.outQ ∧ m.cda.toNat = bankDigest s.twin.bankA % 2 ^ 64 ∧ m.cdl.toNat = bankDigest s.twin.bankL % 2 ^ 64 ∧
          (s.leadsPair = false → m.lead = none) ∧
          (s.leadsPair = true → ∃ l, m.lead = some l ∧ l.tlOfs = s.tlOfs ∧ l.mirrorSeq = s.twin.seqOut ∧ l.servoI = s.ptp.i16 ∧ l.adj = s.ptp.adj16 ∧
            l.act.val = s.ref.act % 8 ∧ l.convs.map (·.ch) = s.audio.convs.map (·.1)) ∧
          Only [.outs, .free, .twin] s t)) ∧
    (∀ m : BlockMsg, s.twUp = true →
      let ref : RefSt := { s.ref with twinQ := m.outQuality, twinAct7 := m.twinOnCand7, heard7 := true }
      (s.tick ≤ 1016 → s.leadsPair = true →
        Completes (.blockMessage m) s (fun t => t.twin = { s.twin with msg := some m, ask := m.ask } ∧ t.ref = ref ∧ Only [.ref, .twin] s t)) ∧
      (s.tick ≤ 1016 → s.leadsPair = false → s.takesMsgs = true → m.lead.isSome = true →
        Completes (.blockMessage m) s (fun t => t.twin = { s.twin with msg := some m } ∧ t.ref = ref ∧ Only [.ref, .twin] s t)) ∧
      (1016 < s.tick → Completes (.blockMessage m) s (fun t => Only [] s t))) ∧
    (s.takesMsgs = true → s.twin.msg = none → 1016 ≤ s.tick → s.twin.msgMissed ≠ s.tlBlock →
      Completes .blockMessageMissed s (fun t =>
        t.twin.msgMissed = s.tlBlock ∧ Counted s t R.TW_MISMATCH_COUNT ∧ t.pend Pg.TW 11 = true ∧ Only [.regs, .twin] s t ∧
        RegsOnly [A.TW_MISMATCH, A.TW_RESYNC, evtAddr Pg.TW] s t)) ∧
    (∀ (path : Path) (o : Nat) (d : List (Option Byte)), hostPath path.code = true → s.mode.cur = .leader → 992 ≤ s.tick →
      Completes (.latentWindowWrite path o d) s (fun t =>
        t.fab = { s.fab with hostWait := [(true, .req (onPath path.code) (.latent o d) true)] } ∧ Only [.fab] s t)) ∧
    (∀ (q b : Nat), s.twUp = true → s.on R.TW_CFG_EN = true →
      Completes (.mirroredWrite q (.reg A.MIX_DIRECT_EN 1) b) s (fun t =>
        t.twin = { s.twin with seqIn := q } ∧ t.on R.MIX_DIRECT_EN_EN = true ∧ Only [.regs, .host, .twin] s t ∧ RegsOnly [A.MIX_DIRECT_EN] s t)) ∧
    (s.on R.TW_CFG_INMIR = true → s.takesMsgs = true → s.twin.mirror = none →
      (∀ (w : List Word) (c x : List Bool), s.tick ≤ 256 →
        Completes (.mirrorBlock s.tlBlock w c x) s (fun t =>
          (∃ m, t.twin = { s.twin with mirror := some m } ∧ m.lost = false ∧ m.chans.length = 128 ∧
            ∀ i k, i < 128 → k < 8 → nth 0 (nth chan0 m.chans i).smp k = nth 0 w (8 * i + k)) ∧ Only [.twin] s t)) ∧
      (256 ≤ s.tick →
        Completes .mirrorBlockMissed s (fun t =>
          (∃ m, t.twin = { s.twin with mirror := some m } ∧ m.lost = true ∧
            m.chans = (List.range 128).map fun i => concealed (s.ich (s.block - 1) (1024 + i))) ∧
          Only [.twin] s t))) ∧
    (∀ k : Nat, s.linked = true → k + 1 = s.tlBlock → s.bndDue = false →
      (∀ mask : List Bool,
        Completes (.digestReceive k (some mask) none) s (fun t =>
          t.twin = { s.twin with mask := some (k, mask) } ∧ t.outs = .twin (.digest k (BitVec.ofNat 64 (s.outDigest k mask))) :: s.outs ∧
          Only [.outs, .twin] s t)) ∧
      (∀ (mask : List Bool) (d : BitVec 64), s.twin.mask = some (k, mask) → s.pairInStep = true → s.twin.stepFrom ≤ k →
        Completes (.digestReceive k none (some d)) s (fun t =>
          t.getW A.TW_DIG_LO = BitVec.ofNat 32 (s.outDigest k mask) ∧ t.getW A.TW_DIG_HI = BitVec.ofNat 32 (s.outDigest k mask / 2 ^ 32) ∧
          t.getW A.TW_DIG_PEER_LO = BitVec.ofNat 32 d.toNat ∧ (s.outDigest k mask ≠ d.toNat → t.twin = { s.twin with bad := true }) ∧
          (s.outDigest k mask = d.toNat → t.twin = s.twin) ∧ Only [.regs, .twin] s t ∧
          RegsOnly [A.TW_DIG_LO, A.TW_DIG_HI, A.TW_DIG_PEER_LO, A.TW_DIG_PEER_HI] s t)))) ∧
  (∀ (s : State) (path : Path) (o : Nat) (d : List (Option Byte)), hostPath path.code = true → s.mode.cur = .leader → s.tick < 992 → s.bndDue = false →
    s.fab.hostWait = [(true, .req (onPath path.code) (.latent o d) true)] → wholeFields o d = true → s.bankLocked = false → s.fab.bad = [] →
    Completes .mirrorWriteRelease s (fun t =>
      t.fab.hostWait = [] ∧ (∀ i, i < d.length → tget bankD t.latent (o + i) = (((clampReq o d).1[i]?).join).getD (tget bankD s.latent (o + i))) ∧
      (∀ a, a < o ∨ o + d.length ≤ a → tget bankD t.latent a = tget bankD s.latent a) ∧ t.active = s.active ∧
      (∃ l, t.outs = .response path.code true [] :: l) ∧ Only [.outs, .regs, .dev, .latent, .twin, .fab] s t))

/-- Resynchronisation and joining. RESYNC in FOLLOWER begins a copy and counts it; BANK_COPY_DONE leaves the leader's bank in the latent bank, a copied
active one to be taken at its boundary; SLICE_INSTALL installs converters and instances, and after the last one the rejoin boundary is the second one;
RESYNC_DONE there puts the follower in step, with event 12, and makes a joining chip FOLLOWER. JOIN_TAKEOVER gives a joining chip the leader's TL, TL_OFS
and slots.
Each of these commands is shown to complete: resync, bankCopyDone, sliceInstall, resyncDone, joinTakeover. -/
def Obligations.Resynchronisation : Prop :=
  ∀ s : State, Quiet s →
    let ended : TwinSt := { s.twin with copy := .none, slice := [], got := [], installed := [], rejoin := none, takeAt := none, banks := .none,
                                        toCopy := 0, copied := 0 }
    let begun (k : CopyKind) : TwinSt := { ended with copy := k, copyBlk := s.block, inStep := false, askNo := s.twin.askNo + 1, toCopy := s.stateTotal }
    (∀ (path : Path) (v : Word), s.mode.cur = .follower → s.twin.copy = .none → bitN v.toNat 0 = 0 →
      Completes (.resync path v) s (fun t =>
        t.twin = begun .resync ∧
        Counted s t R.TW_RESYNC_COUNT ∧ Only [.outs, .regs, .host, .twin] s t ∧ RegsOnly [A.TW_CTRL, A.TW_RESYNC] s t)) ∧
    (∀ (m : Mem) (b : Nat), s.takesMsgs = true → twf bankD m = true →
      let copied (v : TwinSt) : TwinSt := { v with copied := min s.twin.toCopy (s.twin.copied + 2 ^ 23), bankAt := s.tlBlock }
      let holds (t : State) : Prop := (∀ a, tget bankD t.latent a = tget bankD m a) ∧ t.active = s.active ∧ Only [.latent, .dev, .fab, .twin] s t
      Completes (.bankCopyDone false m b) s (fun t => holds t ∧ t.twin = { copied s.twin with banks := .latent, takeAt := some b }) ∧
      Completes (.bankCopyDone true m b) s (fun t => holds t ∧ t.twin = { copied s.twin with banks := .none })) ∧
    (s.linked = true → s.twin.copy ≠ .none →
      (∀ (c : ConvCopy) (l : List InstCopy) (last : Bool),
        Completes (.sliceInstall [c] l last) s (fun t =>
          (t.conv c.ch).lock = c.lock ∧ (c.lock = true → (t.conv c.ch).ratio = c.ratio ∧ (t.conv c.ch).phase = c.phase) ∧
          (∀ k, k ≠ c.ch → t.conv k = s.conv k) ∧
          t.twin.rejoin = (if last then some (s.tlBlock + 2) else s.twin.rejoin) ∧ Only [.regs, .shm, .jobs, .audio, .twin] s t)) ∧
      (∀ x : InstCopy, x.stock = none → x.half.length = 64 * (s.prog x.j.val).stateLen →
        Completes (.sliceInstall [] [x] false) s (fun t =>
          (tget inst0 t.jobs.inst x.j.val).parity = x.parity ∧ mBytes zeroByte t.shm (t.stateHalf x.j.val false) x.half.length = x.half ∧
          t.twin.installed = x.j.val :: s.twin.installed ∧ t.awaitsState x.j.val = false ∧ Only [.regs, .shm, .jobs, .twin] s t))) ∧
    (∀ l : List ChanCopy, s.atBoundary = true → s.twin.copy ≠ .none → s.twin.rejoin = some s.tlBlock →
      (s.mode.cur = .follower →
        Completes (.resyncDone l) s (fun t =>
          t.twin = { ended with inStep := true, stepFrom := s.tlBlock, deg := false, joining := false } ∧
          t.on R.TW_CTRL_LOCAL_WR = false ∧ t.pend Pg.TW 12 = true ∧ Only [.regs, .twin] s t ∧ RegsOnly [A.TW_CTRL, evtAddr Pg.TW] s t)) ∧
      (s.mode.cur = .commission → s.twin.joining = true →
        Completes (.resyncDone l) s (fun t =>
          t.mode.cur = .follower ∧ t.twin.inStep = true ∧ t.twin.copy = .none ∧ t.ref.leader = true ∧ t.pend Pg.TW 12 = true ∧ t.pend Pg.MODE 8 = true ∧
          Only [.outs, .mode, .regs, .host, .ptp, .ref, .psm, .twin] s t))) ∧
    (∀ l : List ChanCopy, s.leadsPair = true →
      Completes (.resyncDone l) s (fun t =>
        t.twin = { s.twin with peerStep := true, deg := false, stepFrom := if s.twin.peerStep then s.twin.stepFrom else s.tlBlock } ∧ Only [.twin] s t)) ∧
    (∀ (n : Nat) (ofs : Int) (x : SlotCopy), s.mode.cur = .commission → s.twin.joining = true → s.twUp = true → s.atBoundary = true →
      s.twin.copy = .none → n % 8 = 0 → s.ref.act = 7 → s.ref.state = .locked →
      Completes (.joinTakeover n ofs [x]) s (fun t =>
        t.tl = n ∧ t.tlOfs = ofs ∧ t.twin.copy = .join ∧ t.twin.inStep = false ∧ t.twin.askNo = s.twin.askNo + 1 ∧
        t.slot x.slot.val = ⟨x.tl, x.addr, x.data, x.type.val, .armed, x.path.val⟩ ∧ (∀ k, k < 32 → k ≠ x.slot.val → (t.slot k).state ≠ .armed) ∧
        Only [.tl, .tlOfs, .regs, .elog, .slots, .dev, .shm, .jobs, .audio, .str, .twin] s t))

/-- Drive and leadership. DRIVE_BOUNDARY acts only at the start and the middle of a sample: a leader that relinquishes drops drive, a STANDALONE chip
with no drive on the line takes it, a follower whose witnesses allow takes it with HANDOVER, and a clash makes position B drop it. A fall of
TW_DRIVE_IN is a witness in FOLLOWER and ORPHAN; FEED_LOST drops drive; RELINQUISH needs a twin in step; LEADERSHIP and ORPHAN at a boundary change
the mode.
Each of these commands is shown to complete: driveBoundary, driveInChange, feedLost, relinquish, relinquishToFollower, relinquishWitnessExpire,
leadership, orphan. -/
def Obligations.DriveAndLeadership : Prop :=
  ∀ s : State, Quiet s →
    (s.atDrive = false → Completes .driveBoundary s (fun t => Only [] s t)) ∧
    (s.atDrive = true → s.driveClash = true →
      Completes .driveBoundary s (fun t =>
        t.twin = { s.twin with drive := false } ∧ t.outs = .drive false :: s.outs ∧ t.pend Pg.TW 18 = true ∧ Only [.outs, .regs, .twin] s t)) ∧
    (s.atDrive = true → s.driveClash = false →
      (s.mode.cur = .leader → s.twin.relq = true → s.twin.drive = true →
        Completes .driveBoundary s (fun t =>
          t.twin = { s.twin with drive := false } ∧ t.outs = .drive false :: s.outs ∧ Only [.outs, .twin] s t)) ∧
      (s.mode.cur = .standalone → s.twin.drive = false → s.twin.driveIn = false → (s.twin.wdDrop = false ∨ 8 ≤ s.psm.fresh) →
        Completes .driveBoundary s (fun t =>
          t.twin = { s.twin with wdDrop := false, drive := true, driveAt := s.clk / 64 } ∧ t.outs = .drive true :: s.outs ∧ Only [.outs, .twin] s t)) ∧
      (∀ c : Nat, s.mode.cur = .follower → s.twin.drive = false → s.takeCause = some c →
        Completes .driveBoundary s (fun t =>
          t.twin.drive = true ∧ t.twin.copy = .none ∧ t.outs = .drive true :: s.outs ∧ Counted s t R.TW_HANDOVER_COUNT ∧ t.pend Pg.TW 8 = true ∧
          t.rd R.TW_LAST_HO_CAUSE = c ∧ t.rd R.TW_LAST_HO_LEAD = 0 ∧ t.mode = s.mode ∧ Only [.outs, .regs, .twin] s t)) ∧
      (s.mode.cur = .quiesce ∨ s.mode.cur = .dark → Completes .driveBoundary s (fun t => Only [] s t))) ∧
    (s.twin.driveIn = true →
      Completes (.driveInChange false) s (fun t =>
        t.twin.driveIn = false ∧ t.twin.wIn = s.witnesses ∧ t.twin.drive = s.twin.drive ∧ Only [.regs, .twin] s t ∧ RegsOnly [evtAddr Pg.TW] s t)) ∧
    (s.twin.driveIn = false →
      Completes (.driveInChange true) s (fun t => t.twin.driveIn = true ∧ t.twin.wIn = false ∧ Only [.twin] s t)) ∧
    (s.twin.drive = true → s.atDrive = true → s.psm.fedAt + 512 ≤ s.clk → (s.mode.cur ≠ .leader ∨ s.on R.TW_REL_FEED = false) →
      Completes .feedLost s (fun t =>
        t.twin = { s.twin with drive := false, wdDrop := true } ∧ t.psm = { s.psm with fresh := 0 } ∧ t.pend Pg.TW 20 = true ∧
        t.outs = .drive false :: s.outs ∧ Only [.outs, .regs, .psm, .twin] s t ∧ RegsOnly [evtAddr Pg.TW] s t)) ∧
    (∀ (path : Path) (v : Word), Unlocked s path Pg.TW → bitN v.toNat 1 = 0 →
      (s.mode.cur = .leader → s.twin.peerRole = 3 → s.twin.peerStep = true → (s.twin.hb = true ∨ s.twin.nhb = true) → s.twin.relq = false →
        Completes (.relinquish path v) s (fun t =>
          t.twin = { s.twin with relq := true } ∧ Counted s t R.TW_RELQ_CNT_COUNT ∧ t.pend Pg.TW 10 = true ∧
          t.outs = .response path.code true [] :: .twin .relinquish :: s.outs ∧ Only [.outs, .regs, .elog, .host, .twin] s t)) ∧
      (s.mode.cur ≠ .leader →
        Completes (.relinquish path v) s (fun t => t.twin = s.twin ∧ t.pend Pg.TW 0 = true ∧ Only [.outs, .regs, .elog, .host] s t))) ∧
    (s.mode.cur = .leader → s.twin.relq = true → s.atBoundary = true → s.twin.drive = false → s.twin.copy = .none →
      Completes .relinquishToFollower s (fun t =>
        t.mode.cur = .follower ∧ t.twin.relq = false ∧ t.twin.inStep = false ∧ t.twin.copy = .resync ∧ Counted s t R.TW_RESYNC_COUNT ∧
        t.pend Pg.MODE 8 = true ∧ Only [.mode, .regs, .ptp, .twin] s t)) ∧
    (∀ n : Nat, s.twin.wRelq = some n → n + 256 ≤ s.clk →
      Completes .relinquishWitnessExpire s (fun t => t.twin = { s.twin with wRelq := none } ∧ Only [.twin] s t)) ∧
    (∀ c : Nat, s.twin.leadDue = some c → s.atBoundary = true → s.witnesses = true →
      Completes .leadership s (fun t =>
        t.mode.cur = .leader ∧ t.twin.drive = true ∧ t.twin.leadDue = none ∧ t.twin.copy = .none ∧ t.rd R.TW_LAST_HO_LEAD = 1 ∧
        t.rd R.TW_LAST_HO_CAUSE = c % 2 ^ R.TW_LAST_HO_CAUSE.w ∧ (s.twin.drive = false → Counted s t R.TW_HANDOVER_COUNT) ∧
        t.pend Pg.TW 9 = true ∧ t.pend Pg.MODE 8 = true ∧ Only [.outs, .mode, .regs, .host, .ptp, .ref, .twin] s t)) ∧
    (s.mode.cur = .follower → s.atBoundary = true → s.twin.wLink.isSome = true → s.twin.wNet = true → s.twin.driveIn = true →
      Completes .orphan s (fun t =>
        t.mode.cur = .orphan ∧ t.twin.inStep = false ∧ t.twin.copy = .none ∧ t.pend Pg.TW 15 = true ∧ t.pend Pg.MODE 8 = true ∧
        Only [.mode, .regs, .host, .ptp, .ref, .twin] s t))

/-! Chapter 12: power stage controllers. -/

/-- The feed and the periods. SAMPLE_FEED once per sample hands each channel the egress sample and advances the feed counter; PERIOD_BOUNDARY begins
the next period with the duty of R334, whose pulses never come nearer than MINW to the period's ends; PSOC_RISE makes a period a limit period;
TRIP takes all gates low with event 8 and code 0x43; STOP_END ends a stop.
Each of these commands is shown to complete: sampleFeed, periodBoundary, trip, stopEnd, psocRise. -/
def Obligations.PowerPeriods : Prop :=
  (∀ s : State, Quiet s →
    (s.mode.cur.counts = true → s.psm.fedSmp ≠ some s.smp →
      Completes .sampleFeed s (fun t =>
        t.psm.feed = s.psm.feed + 1 ∧ t.psm.fresh = s.psm.fresh + 1 ∧ t.psm.fedSmp = some s.smp ∧ t.psm.fedAt = s.clk ∧
        (∀ c, c < 32 → s.psLimit c = none → 2 ≤ s.smp →
          t.ps c = { s.ps c with cur := (s.ps c).nxt, nxt := (s.egSample (s.smp - 2) (1152 + c)).toInt, lr := 0, avg := 0 }) ∧ Only [.psm] s t)) ∧
    (∀ (c : Fin 32) (x : Nat), s.psDue c.val = some x →
      (∀ a b : Bool, s.psEnds c.val x = false → s.psTrips c.val = false →
        Completes (.periodBoundary c a b) s (fun t =>
          (∃ n, (t.ps c.val).next = some (x + n) ∧ t.outs = .gate c.val [n, (t.ps c.val).wA.toNat, (t.ps c.val).wB.toNat] :: s.outs) ∧
          (t.ps c.val).live = true ∧ (t.ps c.val).lim = (a || b) ∧ (t.ps c.val).wA - (t.ps c.val).wB = (t.ps c.val).y ∧
          (t.ps c.val).n = cfgN (s.psCfg c.val) ∧ (∀ k, k ≠ c.val → t.ps k = s.ps k) ∧
          ((s.ps c.val).st = .run → (s.ps c.val).ts = none → (s.ps c.val).mute = none → (s.ps c.val).tr + (s.ps c.val).ramp ≤ x / 4096 →
            cfgN (s.psCfg c.val) = (s.ps c.val).n → cfgPhase (s.psCfg c.val) = (s.ps c.val).ph →
            let d := duty (s.ps c.val).e1 (s.ps c.val).e2 (s.ps c.val).cur (s.ps c.val).n (s.feedForward (cfgRail (s.psCfg c.val)))
              (s.rd (R.PS_DT_MINW (c.val / 8)))
            (t.ps c.val).next = some (x + (s.ps c.val).n) ∧ (t.ps c.val).y = d.1 ∧ (t.ps c.val).e1 = d.2.1 ∧ (t.ps c.val).e2 = d.2.2 ∧
            (t.ps c.val).st = .run) ∧
          Only [.outs, .regs, .psm] s t ∧ RegsOnly [A.PS_CH_CBC (c.val / 8) (c.val % 8)] s t)) ∧
      (s.psTrips c.val = true →
        Completes (.trip c) s (fun t =>
          (t.ps c.val).st = .tripped ∧ (t.ps c.val).next = none ∧ t.outs = .gate c.val [] :: s.outs ∧ (∀ k, k ≠ c.val → t.ps k = s.ps k) ∧
          Counted s t (R.PS_CH_TRIPS_COUNT (c.val / 8) (c.val % 8)) ∧ t.pend (psPage c.val) 8 = true ∧
          Logged s t (psPage c.val) (0x114 + 32 * (c.val % 8)) 0x43 0 (BitVec.ofNat 32 c.val) ∧ Only [.outs, .regs, .elog, .psm] s t)) ∧
      (s.psEnds c.val x = true → s.psTrips c.val = false →
        Completes (.stopEnd c) s (fun t =>
          (t.ps c.val).st = .off ∧ (t.ps c.val).next = none ∧ t.outs = .gate c.val [] :: s.outs ∧ (∀ k, k ≠ c.val → t.ps k = s.ps k) ∧
          Only [.outs, .regs, .psm] s t ∧ RegsOnly [A.PS_CH_CBC (c.val / 8) (c.val % 8)] s t))) ∧
    (∀ (c : Fin 32) (leg : Bool), (s.ps c.val).switching = true → (s.ps c.val).live = true →
      Completes (.psocRise c leg) s (fun t =>
        t.ps c.val = { s.ps c.val with lim := true } ∧ (∀ k, k ≠ c.val → t.ps k = s.ps k) ∧ Only [.psm] s t))) ∧
  (∀ (e1 e2 xg : Int) (n ff minw : Nat), minw ≤ n →
    -((n : Int) - minw) ≤ (duty e1 e2 xg n ff minw).1 ∧ (duty e1 e2 xg n ff minw).1 ≤ (n : Int) - minw)

/-- The states of a channel. CHANNEL_START of an OFF channel that may run begins at its grid, or with diagnostics; a diagnostic step that finds a
fault makes it FAULT with event 9 and code 0x42, and one that finds none goes on; RAMP_START and RAMP_END follow TL; CHANNEL_STOP of a running
channel that may no longer run makes it STOPPING over 960 samples.
Each of these commands is shown to complete: channelStart, diagStep, rampStart, rampEnd, channelStop. -/
def Obligations.ChannelStates : Prop :=
  ∀ (s : State) (c : Fin 32), Quiet s →
    let v := s.ps c.val
    (s.atBoundary = true → v.st = .off → v.next = none → s.psMay c.val = true → s.audio.apllLost = false → s.feedRuns = true →
      s.mode.cur ≠ .follower → (v.am = false ∨ 8 ≤ s.psm.fresh) →
      (cfgDiag (s.psCfg c.val) = false ∨ v.am = true →
        Completes (.channelStart c) s (fun t =>
          (t.ps c.val).st = .off ∧ (t.ps c.val).next = some (gridAt s.count (cfgN (s.psCfg c.val)) (cfgPhase (s.psCfg c.val))) ∧
          (t.ps c.val).n = cfgN (s.psCfg c.val) ∧ (t.ps c.val).e1 = 0 ∧ (t.ps c.val).e2 = 0 ∧ (∀ k, k ≠ c.val → t.ps k = s.ps k) ∧ Only [.psm] s t)) ∧
      (cfgDiag (s.psCfg c.val) = true → v.am = false →
        Completes (.channelStart c) s (fun t =>
          (t.ps c.val).st = .diag ∧ (t.ps c.val).step = 1 ∧ (t.ps c.val).cmd = false ∧ (∀ k, k ≠ c.val → t.ps k = s.ps k) ∧ Only [.psm] s t))) ∧
    (∀ (a b : Bool) (sense : BitVec 12), v.st = .diag → v.since ≤ s.clk → v.step ≠ 0 →
      let fault (res : Nat) (t : State) : Prop :=
        (t.ps c.val).st = .fault ∧ (t.ps c.val).result = res ∧ t.outs = .gate c.val [] :: s.outs ∧ t.pend (psPage c.val) 9 = true ∧
        Logged s t (psPage c.val) (0x114 + 32 * (c.val % 8)) 0x42 0 (BitVec.ofNat 32 (c.val + res * 256)) ∧
        (∀ k, k ≠ c.val → t.ps k = s.ps k) ∧ Only [.outs, .regs, .elog, .psm] s t ∧ RegsOnly (errAddrs (psPage c.val)) s t
      let hit := v.cut = true ∨ (a = true ∧ stepNames v.step false = true) ∨ (b = true ∧ stepNames v.step true = true)
      (v.step < 6 → hit → Completes (.diagStep c a b sense) s (fault (v.step + 1))) ∧
      (v.step < 6 → ¬hit → s.rd R.PSM_DIAG_PULSE * 12288 ≤ (s.clk - v.since) * 4000 →
        Completes (.diagStep c a b sense) s (fun t =>
          t.ps c.val = { v with step := v.step + 1, since := v.since + 128 } ∧ (∀ k, k ≠ c.val → t.ps k = s.ps k) ∧ Only [.psm] s t)) ∧
      (6 ≤ v.step → v.since + 128 * s.rd R.PSM_DIAG_SETTLE ≤ s.clk →
        (s.rd R.PSM_DIAG_OPEN_THR < sense.toNat → Completes (.diagStep c a b sense) s (fault 7)) ∧
        (sense.toNat ≤ s.rd R.PSM_DIAG_OPEN_THR → v.cmd = true →
          Completes (.diagStep c a b sense) s (fun t =>
            (t.ps c.val).st = v.prev ∧ (t.ps c.val).result = 1 ∧ (t.ps c.val).step = 0 ∧ (∀ k, k ≠ c.val → t.ps k = s.ps k) ∧
            Only [.outs, .psm] s t)))) ∧
    (v.st = .start → v.tr ≤ s.tl →
      Completes (.rampStart c) s (fun t => t.ps c.val = { v with st := .ramp } ∧ (∀ k, k ≠ c.val → t.ps k = s.ps k) ∧ Only [.psm] s t)) ∧
    (v.st = .ramp → v.tr + v.ramp ≤ s.tl →
      Completes (.rampEnd c) s (fun t => t.ps c.val = { v with st := .run } ∧ (∀ k, k ≠ c.val → t.ps k = s.ps k) ∧ Only [.psm] s t)) ∧
    (v.st = .run → s.psMay c.val = false → v.mute = none → v.tr + v.ramp ≤ s.tl →
      let ts := if s.subTick = 0 then s.tl else s.tl + 1
      Completes (.channelStop c) s (fun t =>
        t.ps c.val = { v with st := .stopping, ts := some ts, gn := 1, gd := 1, offAt := some (4096 * (ts + 960)) } ∧
        (∀ k, k ≠ c.val → t.ps k = s.ps k) ∧ Only [.psm] s t))

/-- Mutes, commands and measures. FEED_STALL makes every channel play the sample last handed over; UNMUTE after 8 fresh samples ramps the muted
channels up; RESTART returns a tripped channel to OFF; DIAG asks for a sequence in COMMISSION, refused with code 0x41 while the twin drives;
PS_ENABLE_WRITE sets ENABLE; PSM_BAND_WRITE evaluates the bands of every channel at once; RAIL_CONVERSION keeps its rail's code.
Each of these commands is shown to complete: feedStall, unmute, restart, diag, psEnableWrite, psmBandWrite, railConversion. -/
def Obligations.PowerMutesAndCommands : Prop :=
  ∀ s : State, Quiet s →
    (s.mode.cur.counts = true → s.psm.fedSmp.isSome = true → s.psm.fedSmp ≠ some s.smp → s.psm.stall ≠ some s.smp →
      Completes .feedStall s (fun t =>
        t.psm.fresh = 0 ∧ (∀ c, c < 32 → t.ps c = { s.ps c with cur := (s.ps c).nxt }) ∧ (s.feedRuns = true → t.psm.stall = some s.smp) ∧ Only [.psm] s t)) ∧
    (s.psm.feedMute = true → s.atBoundary = true → 8 ≤ s.psm.fresh → s.audio.apllLost = false →
      Completes .unmute s (fun t =>
        t.psm.feedMute = false ∧ t.psm.stall = none ∧
        (∀ c, c < 32 → (s.ps c).mute.isSome = true → (s.ps c).st ≠ .stopping →
          (t.ps c).st = .ramp ∧ (t.ps c).mute = none ∧ (t.ps c).tr = s.tl ∧ t.pend (psPage c) 11 = true) ∧
        (∀ c, (s.ps c).mute = none → t.ps c = s.ps c) ∧ Only [.regs, .psm] s t ∧ RegsOnly ((List.range 4).map fun p => evtAddr (Pg.PS p)) s t)) ∧
    (∀ (path : Path) (c : Fin 32), TakenAny s path →
      ((s.ps c.val).st = .tripped ∨ (s.ps c.val).st = .fault → cfgEn (s.psCfg c.val) = true →
        Completes (.restart path c) s (fun t =>
          (t.ps c.val).st = .off ∧ (∀ k, k ≠ c.val → t.ps k = s.ps k) ∧ t.outs = .response path.code true [] :: .gate c.val [] :: s.outs ∧
          Only [.outs, .psm, .host] s t)) ∧
      (s.mode.cur = .commission → path ≠ .twin → (s.ps c.val).st = .off ∨ (s.ps c.val).st = .fault →
        (s.twin.driveIn = false →
          Completes (.diag path c) s (fun t =>
            t.ps c.val = { s.ps c.val with want := true } ∧ (∀ k, k ≠ c.val → t.ps k = s.ps k) ∧ Only [.outs, .psm, .host] s t)) ∧
        (s.twin.driveIn = true →
          Completes (.diag path c) s (fun t =>
            Logged s t (psPage c.val) (0x110 + 32 * (c.val % 8)) 0x41 path.code 2 ∧ t.psm = s.psm ∧ Only [.outs, .regs, .elog, .host] s t)))) ∧
    (∀ (path : Path) (p : Fin 4) (v : Word), TakenAny s path → path ≠ .twin → bitN v.toNat 1 = 0 → bitN v.toNat 4 = 0 → s.frozen (Pg.PS p.val) = false →
      Completes (.psEnableWrite path p v) s (fun t =>
        t.enabled (Pg.PS p.val) = (bitN v.toNat 0 == 1) ∧ Only [.outs, .regs, .host] s t ∧ RegsOnly [pageAddr (Pg.PS p.val) 0x008] s t)) ∧
    (∀ (path : Path) (b : Fin 4) (v : Word), TakenAny s path →
      let hits (t : State) : Prop := ∀ c, c < 32 → (bitN (t.rd R.PSM_BAND_HIT_HIT) c = 1 ↔ ∃ n, n < 4 ∧ t.bandHit c n = true)
      (bitsN v.toNat 0 16 ≤ bitsN v.toNat 16 16 →
        Completes (.psmBandWrite path b false v) s (fun t =>
          t.getW (A.PSM_BAND_E b.val) = v ∧ hits t ∧ Only [.outs, .regs, .host] s t ∧
          RegsOnly [A.PSM_BAND_E b.val, A.PSM_BAND_HIT, evtAddr Pg.PSM] s t)) ∧
      Completes (.psmBandWrite path b true v) s (fun t =>
        t.rd (R.PSM_BAND_M_MARGIN b.val) = bitsN v.toNat 0 8 ∧ t.rd (R.PSM_BAND_M_EN b.val) = bitN v.toNat 31 ∧ hits t ∧ Only [.outs, .regs, .host] s t ∧
        RegsOnly [A.PSM_BAND_M b.val, A.PSM_BAND_HIT, evtAddr Pg.PSM] s t)) ∧
    (∀ (r : Fin 8) (code : BitVec 12),
      Completes (.railConversion r code) s (fun t =>
        tget zeroNat t.rails r.val = code.toNat ∧ (∀ k, k ≠ r.val → tget zeroNat t.rails k = tget zeroNat s.rails k) ∧ r.val ∈ t.psm.rails ∧
        t.psm = { s.psm with rails := t.psm.rails } ∧ Only [.psm, .rails] s t))

/-! Chapters 13 and 14: mules and the fabric. -/

/-- The four MOVEs. A MOVE whose source and destination lie in shared memory, at distinct destination bytes, and which no error or lock meets, goes
through: every destination byte is the one that the packing and the order of Table 13.4 make of the source as it stood before, no other byte of
shared memory changes, MUL_CNT counts the bytes, and no other mule is touched.
Fences. FENCE_TIMEOUT of a flock whose mules have not all reached a hold releases them, leaves the flock taking jobs with event 11 and records
code 0x41; DOMAIN_POWER_DOWN, once all hold, takes the flock's power: its hens' memories are lost and its mules are OFF, a busy one with cause 7.
Each of these commands is shown to complete: moveLinear, moveI2p, moveP2i, moveTranspose, fenceTimeout, domainPowerDown. -/
def Obligations.MovesAndFences : Prop :=
  (∀ (s : State) (m : Fin 96), Quiet s →
     let moves (mode : Nat) (completes : (State → Prop) → Prop) : Prop :=
       ∀ (op : MuleOp) (x : Move), s.muleNext m.val = some op → s.moveOf m.val op = some x → x.mode = mode → s.moveReady m.val x = true →
         let els := (List.range x.count).map fun i => (x.srcAt i).map fun a => tget zeroByte s.shm (a - 0x10000000)
         let out := x.out (x.convert els)
         (∀ i, i < x.count → ∀ a ∈ x.srcAt i, inShm a = true) → (∀ p ∈ out, inShm p.1 = true) → (out.map Prod.fst).Nodup →
         completes (fun t =>
           (∀ p ∈ out, tget zeroByte t.shm (p.1 - 0x10000000) = p.2) ∧
           (∀ a, (∀ p ∈ out, p.1 - 0x10000000 ≠ a) → tget zeroByte t.shm a = tget zeroByte s.shm a) ∧
           (t.mule m.val).cnt = x.count * x.dstBytes % 2 ^ 32 ∧ (t.mule m.val).tail = 0 ∧ (t.mule m.val).steps = (s.mule m.val).steps + 1 ∧
           (∀ k, k ≠ m.val → t.mule k = s.mule k) ∧ Only [.regs, .shm, .fab] s t ∧
           RegsOnly [A.MUL_CUR0_OFS (m.val / 8) (m.val % 8), A.MUL_CUR1_OFS (m.val / 8) (m.val % 8)] s t)
     moves 0 (Completes (.moveLinear m) s) ∧ moves 1 (Completes (.moveI2p m) s) ∧ moves 2 (Completes (.moveP2i m) s) ∧
     moves 3 (Completes (.moveTranspose m) s)) ∧
  (∀ (s : State) (f : Fin 16), Quiet s →
     (∀ x : Fence, s.fab.fences.find? (fun y => y.dom == f.val) = some x → x.since + usTicks (s.rd R.PWR_FENCE_TMO_US) ≤ s.clk →
       s.fenceHeld f.val = false → s.mode.entering = false →
       Completes (.fenceTimeout (.flock f)) s (fun t =>
         t.enabled (Pg.FL f.val) = true ∧ (t.flock f.val).taking = true ∧ (t.flock f.val).fencing = false ∧ t.pend (Pg.FL f.val) 11 = true ∧
         (∀ y ∈ t.fab.fences, y.dom ≠ f.val) ∧ (∃ d, t.elog.head? = some d ∧ d.page = Pg.FL f.val ∧ d.off = 0x008 ∧ d.code = 0x41) ∧
         Only [.regs, .elog, .jobs, .fab] s t)) ∧
     ((∃ x ∈ s.fab.fences, x.dom = f.val) → s.fenceHeld f.val = true → (s.flock f.val).powered = true →
       Completes (.domainPowerDown (.flock f)) s (fun t =>
         (t.flock f.val).powered = false ∧ (t.flock f.val).taking = false ∧ t.queue f.val = [] ∧ t.pend (Pg.FL f.val) 9 = true ∧
         (∀ h, h < 256 → flockOf h = f.val → (t.hen h).imem = [] ∧ (t.hen h).dmem = []) ∧ (∀ h, flockOf h ≠ f.val → t.hen h = s.hen h) ∧
         (∀ m, m < 96 → m / 4 = f.val → (t.mule m).st = .off ∧ ((s.mule m).busy = true → (t.mule m).err = 7)) ∧
         (∀ y ∈ t.fab.fences, y.dom ≠ f.val) ∧ Only [.regs, .hens, .jobs, .fab] s t)) ∧
     ((∃ x ∈ s.fab.fences, x.dom = 16) → s.fenceHeld 16 = true →
       Completes (.domainPowerDown .audio) s (fun t =>
         (∀ m, 64 ≤ m → m < 88 → (t.mule m).st = .off) ∧ (∀ y ∈ t.fab.fences, y.dom ≠ 16) ∧ Only [.regs, .hens, .jobs, .fab] s t)))

/-- The mules' other instructions: LOOP enters its body with pass 0 or, with a count of 0, passes over it; JUMP goes to its target and ends both levels;
WAIT holds and ends at its condition, WAIT_TL that is already past stops with cause 5, and a flag waited on is cleared by the mule that takes it;
SIGNAL sets a flag, shows its value with event 10, or only goes on; END leaves a host mule DONE with event 8 and restarts a device-owned one at
the next boundary.
Each of these commands is shown to complete: muleLoop, muleJump, waitBlock, waitTl, waitFlag, signalFlag, signalEvent, signalRelease, muleEnd. -/
def Obligations.MuleControl : Prop :=
  ∀ (s : State) (m : Fin 96), Quiet s →
    let v := s.mule m.val
    let rest (t : State) : Prop := (∀ k, k ≠ m.val → t.mule k = s.mule k) ∧ t.shm = s.shm
    (∀ (inner : Bool) (body count : Nat) (ss ds : Int), s.muleNext m.val = some (.loop inner body count ss ds) →
      (count ≠ 0 →
        Completes (.muleLoop m) s (fun t =>
          (inner = false → t.mule m.val = { v with pc := v.pc + 16, steps := v.steps + 1, l0 := some ⟨v.pc + 16, v.pc + 16 + 16 * body, 0, count, ss, ds⟩ }) ∧
          (inner = true → t.mule m.val = { v with pc := v.pc + 16, steps := v.steps + 1, l1 := some ⟨v.pc + 16, v.pc + 16 + 16 * body, 0, count, ss, ds⟩ }) ∧
          rest t ∧ Only [.fab] s t)) ∧
      (count = 0 → inner = false → v.l1 = none →
        Completes (.muleLoop m) s (fun t => (t.mule m.val).pc = v.pc + 16 + 16 * body ∧ (t.mule m.val).steps = v.steps + 1 ∧ rest t ∧ Only [.fab] s t))) ∧
    (∀ a : Nat, s.muleNext m.val = some (.jump a) →
      Completes (.muleJump m) s (fun t =>
        t.mule m.val = { v with pc := a, steps := v.steps + 1, l0 := none, l1 := none } ∧ rest t ∧ Only [.fab] s t)) ∧
    (∀ n : Nat, s.waitAt m.val = some (true, .waitBlock n) → s.isFenced m.val = false →
      Completes (.waitBlock m) s (fun t =>
        t.mule m.val = { v with st := .wait, steps := 0, waitBlk := s.block, used := [] } ∧ rest t ∧ Only [.fab] s t)) ∧
    (∀ n : Nat, s.waitAt m.val = some (false, .waitBlock n) → v.waitBlk + 1 = s.block →
      (n ≤ s.tick → Completes (.waitBlock m) s (fun t => (t.mule m.val).st = .run ∧ (t.mule m.val).steps = v.steps ∧ rest t ∧ Only [.fab] s t)) ∧
      (s.tick < n → Completes (.waitBlock m) s (fun t => Only [] s t))) ∧
    (∀ n : Nat, s.waitAt m.val = some (false, .waitTl n) → n ≤ s.tl →
      Completes (.waitTl m) s (fun t => (t.mule m.val).st = .run ∧ rest t ∧ Only [.fab] s t)) ∧
    (∀ n : Nat, s.waitAt m.val = some (true, .waitTl n) → n ≤ s.tl →
      Completes (.waitTl m) s (fun t => (t.mule m.val).st = .stopped ∧ (t.mule m.val).err = 5 ∧ t.pend (mulPage m.val) 9 = true ∧ rest t ∧
        Only [.regs, .elog, .fab] s t)) ∧
    (∀ f : Nat, s.waitAt m.val = some (false, .waitFlag f) → s.flag f = true → s.firstWaiter f = some m.val →
      Completes (.waitFlag m) s (fun t =>
        (t.mule m.val).st = .run ∧ t.flag f = false ∧ (∀ g, g ≠ f → t.flag g = s.flag g) ∧ rest t ∧ Only [.fab] s t)) ∧
    (∀ f : Nat, s.muleNext m.val = some (.signalFlag f) →
      Completes (.signalFlag m) s (fun t => t.flag f = true ∧ (∀ g, g ≠ f → t.flag g = s.flag g) ∧ t.mule m.val = v.advance ∧ rest t ∧ Only [.fab] s t)) ∧
    (∀ w : Word, s.muleNext m.val = some (.signalEvent w) →
      Completes (.signalEvent m) s (fun t =>
        (t.mule m.val).sig = w ∧ t.pend (mulPage m.val) 10 = true ∧ rest t ∧ Only [.regs, .fab] s t ∧ RegsOnly [evtAddr (mulPage m.val)] s t)) ∧
    (∀ w : Word, s.muleNext m.val = some (.signalRelease w) →
      Completes (.signalRelease m) s (fun t => t.mule m.val = v.advance ∧ rest t ∧ Only [.fab] s t)) ∧
    (s.muleNext m.val = some .fin → s.isFenced m.val = false →
      (88 ≤ m.val →
        Completes (.muleEnd m) s (fun t =>
          (t.mule m.val).st = .done ∧ t.pend (mulPage m.val) 8 = true ∧ rest t ∧ Only [.regs, .fab] s t ∧ RegsOnly [evtAddr (mulPage m.val)] s t)) ∧
      (m.val < 88 →
        Completes (.muleEnd m) s (fun t => (t.mule m.val).restart = some (s.block + 1) ∧ rest t ∧ Only [.fab] s t)))

/-- How mules stop and start. ILLEGAL, RUNAWAY, TIMEOUT and BUS_ERR stop a running mule with their cause, event 9 and code 0x41, a device-owned one
to be restarted at the next boundary, and with nothing acknowledged no byte is stored. STOP and START are for host mules in a mode that allows it,
and START of another records code 0x40; the host flags are set and cleared bit by bit.
Each of these commands is shown to complete: muleIllegal, runaway, muleTimeout, busErr, muleStart, muleStop, muleRestart, mulHflagSet, mulHflagClr. -/
def Obligations.MuleStopsAndStarts : Prop :=
  ∀ (s : State) (m : Fin 96), Quiet s →
    let v := s.mule m.val
    let stopped (k : Nat) (t : State) : Prop :=
      (t.mule m.val).st = .stopped ∧ (t.mule m.val).err = k ∧ (t.mule m.val).l0 = none ∧ (t.mule m.val).l1 = none ∧
      (t.mule m.val).restart = (if 88 ≤ m.val then none else some (s.block + 1)) ∧ Counted s t (R.MUL_STOPS_COUNT (m.val / 8)) ∧
      t.pend (mulPage m.val) 9 = true ∧ Logged s t (mulPage m.val) (0x108 + 64 * (m.val % 8)) 0x41 0 (BitVec.ofNat 32 (m.val + k * 256)) ∧
      (∀ j, j ≠ m.val → t.mule j = s.mule j) ∧ t.shm = s.shm
    (v.st = .run →
      (s.runsAway m.val = false → s.muleOp m.val = none →
        Completes (.muleIllegal m none) s (fun t => stopped 4 t ∧ (t.mule m.val).pc = v.pc ∧ Only [.regs, .elog, .fab] s t)) ∧
      (s.runsAway m.val = true →
        Completes (.runaway m none) s (fun t => stopped 1 t ∧ (t.mule m.val).pc = v.pc ∧ Only [.regs, .elog, .fab] s t)) ∧
      (∀ a : Word, (∀ op x, s.muleNext m.val = some op → s.moveOf m.val op = some x → ∀ i, i < x.count → ∀ b ∈ x.srcAt i, inShm b = true) →
        let at_ (k : Nat) (t : State) : Prop := stopped k t ∧ (t.mule m.val).cnt = 0 ∧ (t.mule m.val).tail = 0 ∧ (t.mule m.val).errAddr = a.toNat ∧
          Only [.regs, .elog, .fab] s t
        Completes (.muleTimeout m a 0 0 none) s (at_ 2) ∧
        (s.target a.toNat = 63 →
          Completes (.busErr m a 0 0 none) s (fun t => at_ 3 t ∧ t.getW A.FAB_DERR_ADDR = a ∧ t.pend Pg.FAB 8 = true)))) ∧
    (∀ path : Path, TakenAny s path →
      (88 ≤ m.val → v.busy = false → v.st ≠ .off → (s.modeFor path.code).hostMule = true → s.enabled (mulPage m.val) = true →
        Completes (.muleStart path m) s (fun t =>
          t.mule m.val = { v with st := .run, pc := s.mulProg m.val, cnt := 0, l0 := none, l1 := none, steps := 0, used := [], restart := none } ∧
          (∀ j, j ≠ m.val → t.mule j = s.mule j) ∧ Only [.fab, .host, .outs] s t)) ∧
      (m.val < 88 →
        Completes (.muleStart path m) s (fun t =>
          Logged s t (mulPage m.val) (0x100 + 64 * (m.val % 8)) 0x40 path.code 1 ∧ t.fab = s.fab ∧ Only [.regs, .elog, .host, .outs] s t)) ∧
      (88 ≤ m.val → v.busy = true →
        Completes (.muleStop path m) s (fun t => stopped 6 t ∧ Only [.regs, .elog, .fab, .host, .outs] s t))) ∧
    (∀ b : Nat, v.restart = some b → b ≤ s.block → s.bndDue = false →
      Completes (.muleRestart m) s (fun t =>
        (t.mule m.val).restart = none ∧ (t.mule m.val).pc = s.mulProg m.val ∧ ((t.mule m.val).st = .run ∨ (t.mule m.val).st = .wait) ∧
        (∀ j, j ≠ m.val → t.mule j = s.mule j) ∧ Only [.fab] s t)) ∧
    (∀ (path : Path) (p : Fin 12) (w g : Word), TakenAny s path →
      Completes (.mulHflagSet path p w) s (fun t =>
        (∀ i, i < 32 → t.flag (32 + i) = (s.flag (32 + i) || w.getLsbD i)) ∧ (∀ i, i < 32 → t.flag i = s.flag i) ∧ Only [.fab, .host, .outs] s t) ∧
      Completes (.mulHflagClr path p w g) s (fun t =>
        (∀ i, i < 32 → t.flag (32 + i) = (g.getLsbD i || (s.flag (32 + i) && !w.getLsbD i))) ∧ (∀ i, i < 32 → t.flag i = s.flag i) ∧
        Only [.fab, .host, .outs] s t))

/-- The fabric. A grant goes to a beat of least slack, and to the one presented longest at each ARB_N-th; a read of shared memory returns its line and
a write of a whole line stores it and no other byte. LOCK_BREAK frees a bank held for FAB_LOCK_WDT cycles and records it with event 10; hot reset
and a lost PCIe link reset the host access port alone.
ECC. CE_WRITEBACK ends the wait of its word alone; a line scrubbed without an error leaves the memories and their records alone, and one
corrected word is counted and located with event 8; a priority scrub begins with PRIO and ends 524 µs later with what it found and event 10.
Each of these commands is shown to complete: beatGrant, lockBreak, hotReset, pcieLinkDown, ceWriteback, scrubLine, prio, prioDone. -/
def Obligations.FabricAndScrubbing : Prop :=
  (∀ s : State, Quiet s →
     (∀ (g : Fin 64) (now : Nat) (l : List Beat), s.grantOf g.val now l = none → Completes (.beatGrant g now l) s (fun t => Only [] s t)) ∧
     (∀ (g : Fin 64) (now : Nat) (l : List Beat) (b : Beat), s.grantOf g.val now l = some b →
       b ∈ l ∧ s.grantable g.val now b = true ∧
       (s.longestTurn g.val = false → ∀ c ∈ l, s.grantable g.val now c = true → slackAt now b.deadline ≤ slackAt now c.deadline) ∧
       (s.longestTurn g.val = true → ∀ c ∈ l, s.grantable g.val now c = true → b.presented ≤ c.presented) ∧
       (g.val < 32 → b.master.val < 21 → b.addr % 64 = 0 → b.ecc = [] → s.fab.bad = [] → s.fab.broken = [] →
         let o := s.place b.addr - 0x10000000
         (b.write = none →
           Completes (.beatGrant g now l) s (fun t =>
             t.outs = .beat b.master.val true (wordsOf ((List.range 64).map fun i => tget zeroByte s.shm (o + i))) :: s.outs ∧
             tget zeroNat t.fab.grants g.val = tget zeroNat s.fab.grants g.val + 1 ∧ Only [.fab, .outs] s t)) ∧
         (∀ d : List (Option Byte), b.write = some d → d.length = 64 → (∀ x ∈ d, x.isSome = true) →
           Completes (.beatGrant g now l) s (fun t =>
             t.outs = .beat b.master.val true [] :: s.outs ∧ (∀ i, i < 64 → some (tget zeroByte t.shm (o + i)) = (d[i]?).join) ∧
             (∀ a, a < o ∨ o + 64 ≤ a → tget zeroByte t.shm a = tget zeroByte s.shm a) ∧ Only [.shm, .fab, .outs] s t)))) ∧
     (∀ (k : Fin 32) (n : Nat) (l : LockSt), tget noLock s.fab.locks k.val = some l → s.rd R.FAB_LOCK_WDT_CYC ≤ n →
       Completes (.lockBreak k n) s (fun t =>
         tget noLock t.fab.locks k.val = none ∧ (∀ j, j ≠ k.val → tget noLock t.fab.locks j = tget noLock s.fab.locks j) ∧
         (l.master, k.val) ∈ t.fab.broken ∧ Counted s t R.FAB_LOCK_BRK_COUNT ∧ t.getW A.FAB_LOCK_ADDR = BitVec.ofNat 32 l.addr ∧
         t.pend Pg.FAB 10 = true ∧ Only [.regs, .fab] s t ∧ RegsOnly [A.FAB_LOCK_ADDR, A.FAB_LOCK_INFO, A.FAB_LOCK_BRK, evtAddr Pg.FAB] s t)) ∧
     (let reset (host : HostSt) (t : State) : Prop := t.host = host ∧ Counted s t R.FAB_MRST_CNT_COUNT ∧
         t.rd R.FAB_RST_INFO_MASTER = 21 ∧ t.pend Pg.FAB 11 = true ∧ t.mode = s.mode ∧ Only [.regs, .host, .fab] s t
      (∀ lanes gen : Nat, Completes (.hotReset lanes gen) s
         (reset { s.host with pcieUp := true, ep := { s.host.ep with lanes := lanes, gen := gen } })) ∧
      Completes .pcieLinkDown s (reset { s.host with pcieUp := false }))) ∧
  (∀ s : State, Quiet s →
     (∀ a : Nat, Completes (.ceWriteback a) s (fun t =>
       a ∉ t.fab.ceWait ∧ (∀ b, b ≠ a → (b ∈ t.fab.ceWait ↔ b ∈ s.fab.ceWait)) ∧ t.fab = { s.fab with ceWait := t.fab.ceWait } ∧ Only [.fab] s t)) ∧
     (∀ (m : Fin 3) (a : Nat), s.on R.SHM_SCRUB_EN = true → scrubHit m.val a = true → s.fab.bad = [] →
       Completes (.scrubLine m a []) s (fun t => t.fab = { s.fab with passes := t.fab.passes } ∧ Only [.fab] s t) ∧
       Completes (.scrubLine m a [.corrected]) s (fun t =>
         Counted s t (R.SHM_CE_COUNT m.val) ∧ t.getW A.SHM_CE_ADDR = BitVec.ofNat 32 a ∧ a ∈ t.fab.ceWait ∧ t.pend Pg.SHM 8 = true ∧
         Only [.regs, .fab] s t ∧ RegsOnly [A.SHM_CE m.val, A.SHM_CE_ADDR, evtAddr Pg.SHM] s t)) ∧
     (∀ (path : Path) (v : Word), TakenAny s path → s.fab.prio = none →
       Completes (.prio path v) s (fun t =>
         t.fab = { s.fab with prio := some s.clk } ∧ t.rd R.SHM_SCRUB_EN = bitN v.toNat 16 ∧ Only [.regs, .elog, .host, .fab, .outs] s t)) ∧
     (∀ (n ce ue : Nat), s.fab.prio = some n → usPassed (s.clk - n) 524 = true →
       Completes (.prioDone ce ue) s (fun t =>
         t.fab = { s.fab with prio := none } ∧ t.rd R.SHM_PRIO_RES_CE = min 65535 ce ∧ t.rd R.SHM_PRIO_RES_UE = min 65535 ue ∧ t.pend Pg.SHM 10 = true ∧
         Only [.regs, .fab] s t ∧ RegsOnly [A.SHM_PRIO_RES, evtAddr Pg.SHM] s t)))

/-! Chapter 15: the Loupe. -/

/-- Power of the Loupe. LP_POWER_ON enters MEASURE, takes the flash's size from the JEDEC density byte or sets FLASH_FAULT, and logs POWER_ON with the
time of the loss; out of OFF the calendar restarts with TIME_VALID 0. LP_VDD_LOSS drops to CLOCK and keeps the time of the loss; LP_VBAT_LOSS goes on
to OFF and clears TIME_VALID; LP_RESET holds the processor and leaves the calendar, the battery-backed registers and the fuses.
Each of these commands is shown to complete: lpPowerOn, lpVddLoss, lpVbatLoss, lpReset. -/
def Obligations.LoupePower : Prop :=
  ∀ s : State, Quiet s →
    let keeps (t : State) : Prop := t.lp.sealCount = s.lp.sealCount ∧ t.lp.key = s.lp.key ∧ t.lp.flash = s.lp.flash ∧ t.lp.seqNew = s.lp.seqNew
    let battery (t : State) : Prop := t.lp.sec = s.lp.sec ∧ t.lp.sub = s.lp.sub ∧ t.lp.timeValid = s.lp.timeValid ∧ t.lp.trim = s.lp.trim ∧
      t.lp.ofs0 = s.lp.ofs0 ∧ t.lp.ofs1 = s.lp.ofs1
    (∀ (jedec : Option (Fin 256)) (e : Bool), s.lp.runs = false →
      Completes (.lpPowerOn jedec e) s (fun t =>
        t.lp.runs = true ∧ t.lp.calEn = e ∧ t.lp.key = s.lp.key ∧ t.lp.sealCount = s.lp.sealCount ∧
        (t.lp.flashFault = false ↔ ∃ d : Fin 256, jedec = some d ∧ 21 ≤ d.val ∧ d.val ≤ 28) ∧
        (s.lp.power = .off → t.lp.sec = 0 ∧ t.lp.sub = 0 ∧ t.lp.timeValid = false ∧
          (s.lp.newestCal 0 = none → s.lp.newestCal 1 = none →
            t.lp.ofs0 = 0 ∧ t.lp.ofs1 = 0 ∧ (0 < s.lp.sealCount → t.lp.calMismatch = true))) ∧
        (s.lp.power ≠ .off → t.lp.timeValid = s.lp.timeValid ∧ t.lp.ofs0 = s.lp.ofs0 ∧ t.lp.ofs1 = s.lp.ofs1) ∧
        (∀ d : Fin 256, jedec = some d → 21 ≤ d.val → d.val ≤ 28 →
          t.lp.flashSize = 2 ^ d.val ∧ t.lp.seqNew = (s.lp.newest.map fun x => recSeq x.2).getD 0 + 1 ∧ t.pend Pg.LPM 9 = true ∧
          ∃ k, tget erased t.lp.flash k = t.lp.mkRecord t.lp.seqNew 0x10 t.lp.eventFlags t.lp.stamp
            (toLe 8 (if s.lp.power = .clock then s.lp.lostAt.getD 0 else 0) ++ toLe 4 Config.lpVer)) ∧
        Only [.free, .regs, .lp] s t ∧ RegsOnly [evtAddr Pg.LPM] s t)) ∧
    (s.lp.power = .measure →
      Completes .lpVddLoss s (fun t =>
        t.lp.power = .clock ∧ t.lp.lostAt = some s.lp.stamp ∧ t.lp.alert = false ∧ battery t ∧ keeps t ∧
        (s.lp.held = false → t.pend Pg.LPM 11 = true) ∧ Only [.regs, .lp] s t ∧ RegsOnly [evtAddr Pg.LPM] s t)) ∧
    (s.lp.power = .clock →
      Completes .lpVbatLoss s (fun t => t.lp.power = .off ∧ t.lp.timeValid = false ∧ keeps t ∧ Only [.lp] s t)) ∧
    (s.lp.runs = true →
      Completes .lpReset s (fun t =>
        t.lp.power = .measure ∧ t.lp.held = true ∧ t.lp.alert = false ∧ battery t ∧ keeps t ∧ t.pend Pg.LPM 11 = true ∧
        Only [.regs, .lp] s t ∧ RegsOnly [evtAddr Pg.LPM] s t))

/-- Measurement. LP_FRAME adds a frame to the three intervals and to the second, whose end is due after 48,000; LAF_UPDATE rewrites LAF and LAS of
both channels; INTERVAL_END advances the calendar, begins a second, a minute at SEC 0 and a quarter hour, logs one record for each that is logged,
judges the alert, and sets FLASH_FAULT after the fourth programming that does not verify.
Each of these commands is shown to complete: lpFrame, lafUpdate, intervalEnd. -/
def Obligations.LoupeMeasures : Prop :=
  ∀ s : State, Quiet s →
    (∀ x0 x1 : BitVec 24, s.lp.runs = true → s.lp.due = false →
      let clip (x : BitVec 24) : Nat := if x.toInt.natAbs = 0x7FFFFF then 1 else 0
      let added (i j : LpAcc) : Prop := j.n = i.n + 1 ∧ j.ovl = min 65535 (i.ovl + clip x0 + clip x1) ∧
        j.c0.eZ = i.c0.eZ + x0.toInt.natAbs ^ 2 ∧ j.c1.eZ = i.c1.eZ + x1.toInt.natAbs ^ 2 ∧ j.c0.pkZ = max i.c0.pkZ x0.toInt.natAbs ∧
        j.c1.pkZ = max i.c1.pkZ x1.toInt.natAbs ∧ (j.c0.signal = true ↔ i.c0.signal = true ∨ x0 ≠ 0) ∧
        (j.c1.signal = true ↔ i.c1.signal = true ∨ x1 ≠ 0) ∧ (j.cal = true ↔ i.cal = true ∨ s.lp.calEn = true) ∧ j.whole = i.whole
      Completes (.lpFrame x0 x1) s (fun t =>
        added s.lp.iSec t.lp.iSec ∧ added s.lp.iMin t.lp.iMin ∧ added s.lp.iQtr t.lp.iQtr ∧ t.lp.sub = s.lp.sub + 1 ∧
        (t.lp.due = true ↔ 48000 ≤ s.lp.sub + 1) ∧ t.lp.laf = s.lp.laf + 1 ∧
        t.lp = { s.lp with iSec := t.lp.iSec, iMin := t.lp.iMin, iQtr := t.lp.iQtr, lafSq := t.lp.lafSq, cal := t.lp.cal,
                           sub := t.lp.sub, due := t.lp.due, laf := t.lp.laf } ∧ Only [.free, .lp] s t)) ∧
    (s.lp.runs = true → 6000 ≤ s.lp.laf →
      Completes .lafUpdate s (fun t =>
        tget zeroNat t.lp.live (liveKey 0 0) = levelOf (nth 0 s.lp.lafSq 0) 1 s.lp.ofs0 ∧
        tget zeroNat t.lp.live (liveKey 0 1) = levelOf (nth 0 s.lp.lafSq 1) 1 s.lp.ofs0 ∧
        tget zeroNat t.lp.live (liveKey 1 0) = levelOf (nth 0 s.lp.lafSq 2) 1 s.lp.ofs1 ∧
        tget zeroNat t.lp.live (liveKey 1 1) = levelOf (nth 0 s.lp.lafSq 3) 1 s.lp.ofs1 ∧
        (∀ k j, k < 2 → 2 ≤ j → j < 16 → tget zeroNat t.lp.live (liveKey k j) = tget zeroNat s.lp.live (liveKey k j)) ∧
        t.lp = { s.lp with laf := 0, live := t.lp.live } ∧ Only [.lp] s t)) ∧
    (∀ bad : Fin 5, s.lp.runs = true → s.lp.due = true →
      let minute := (s.lp.sec + 1) % 60 = 0
      let quarter := (s.lp.sec + 1) % 900 = 0
      Completes (.intervalEnd bad) s (fun t =>
        t.lp.sec = s.lp.sec + 1 ∧ t.lp.sub = 0 ∧ t.lp.due = false ∧ t.lp.iSec = lpAcc0 true ∧
        t.lp.iMin = (if minute then lpAcc0 true else s.lp.iMin) ∧ t.lp.iQtr = (if quarter then lpAcc0 true else s.lp.iQtr) ∧
        tget zeroNat t.lp.live (liveKey 0 2) = levelOf s.lp.iSec.c0.eA s.lp.iSec.n s.lp.ofs0 ∧
        (s.lp.alert = false → (t.lp.alert = true ↔ s.lp.level ≤ t.lp.alertLevel)) ∧
        (s.lp.alert = true → (t.lp.alert = false ↔ t.lp.alertLevel + s.lp.hyst < s.lp.level)) ∧
        (s.lp.alert = false → t.lp.alert = true → t.pend Pg.LPM 8 = true) ∧
        (s.lp.flashFault = true → t.lp.flash = s.lp.flash ∧ t.lp.seqNew = s.lp.seqNew ∧ t.lp.flashFault = true) ∧
        (s.lp.flashFault = false → bad.val < 4 →
          t.lp.flashFault = false ∧
          t.lp.seqNew = s.lp.seqNew + (if s.lp.logSec = true then 1 else 0) + (if minute then 1 else 0) + (if quarter then 1 else 0)
            + (if t.lp.alert = s.lp.alert then 0 else 1)) ∧
        (s.lp.flashFault = false → bad.val = 4 → (s.lp.logSec = true ∨ minute) → t.lp.flashFault = true ∧ t.lp.seqNew = s.lp.seqNew) ∧
        (s.lp.flashFault = false → bad.val = 0 → s.lp.logSec = true → ¬minute → t.lp.alert = s.lp.alert → 64 < s.lp.nslots →
          Recorded s.lp t 1 (intervalFlags s.lp s.lp.iSec false) t.lp.stamp (intervalPayload s.lp s.lp.iSec)) ∧
        Only [.regs, .lp] s t ∧ RegsOnly [evtAddr Pg.LPM] s t))

/-- The UART's readout. While the island runs ID, TIME, HEAD, READ and LIVE answer their data and OK, READ one record or ERR 2 for each number asked,
ERR 2 for a bad count and ERR 5 with a flash fault; every command that needs LP_CAL_EN answers ERR 3 with it low.
The mailbox. LPM_REQ_GO sets GO, and while GO reads 1 is ignored with code 0x40; REQ_DONE places the 64 bytes of the record asked for in LPM_REC
with RES 1, leaves LPM_REC with RES 2 for one not held, 3 while the island does not run and 4 with a flash fault, and sets event 10. Nothing of the
island changes.
Each of these commands is shown to complete: lpId, lpTime, lpHead, lpLive, lpRead, setTime, lpTrim, lpCal, lpOffset, lpAlert, logSec, lpKey, lpmReqGo,
reqDone. -/
def Obligations.LoupeUartAndMailbox : Prop :=
  (∀ s : State, Quiet s → s.lp.runs = true →
     let answers (l : List Emit) (t : State) : Prop := t.outs = l.reverse ++ s.outs ∧ Only [.outs] s t
     Completes .lpId s (answers [.uartData [Config.lpUid, Config.lpVer, s.lp.sealCount, b2n s.lp.key.isSome, b2n s.lp.timeValid], .uartOk]) ∧
     Completes .lpTime s (answers [.uartData [s.lp.stamp], .uartOk]) ∧
     Completes .lpHead s (answers [.uartData [s.lp.seqNew, s.lp.tail], .uartOk]) ∧
     Completes .lpLive s (answers [.uartData ((List.range 28).map fun i => tget zeroNat s.lp.live (liveKey (i / 14) (i % 14))), .uartOk]) ∧
     (∀ a n : Nat,
       (n = 0 ∨ 1024 < n → Completes (.lpRead a n) s (answers [.uartErr 2])) ∧
       (1 ≤ n → n ≤ 1024 → s.lp.flashFault = true → Completes (.lpRead a n) s (answers [.uartErr 5])) ∧
       (1 ≤ n → n ≤ 1024 → s.lp.flashFault = false →
         Completes (.lpRead a n) s (answers (((List.range n).map fun i =>
           match s.lp.find (a + i) with | some b => Emit.uartRecord b | none => .uartErr 2) ++ [.uartOk])))) ∧
     (let low (t : State) : Prop := t.outs = .uartErr 3 :: s.outs ∧ t.lp = { s.lp with calEn := false } ∧ Only [.outs, .lp] s t
      (∀ y mo d h mi sec : Nat, Completes (.setTime false y mo d h mi sec) s low) ∧ (∀ v : Int, Completes (.lpTrim false v) s low) ∧
      (∀ (k : Fin 2) (v : Int) (b : Bool), Completes (.lpCal false k v b) s low ∧ Completes (.lpOffset false k v b) s low) ∧
      (∀ q l h : Nat, Completes (.lpAlert false q l h) s low) ∧ (∀ on : Bool, Completes (.logSec false on) s low) ∧
      (∀ (ws : List Word) (b : Bool), Completes (.lpKey false ws b) s low))) ∧
  (∀ s : State, Quiet s →
     (∀ (path : Path) (v : Word),
       (s.on R.LPM_REQ_GO = false →
         Completes (.lpmReqGo path v) s (fun t =>
           t.on R.LPM_REQ_GO = true ∧ Answered s t path true [] ∧ KeysOnly s t ∧ KeyUsed s t path Pg.LPM ∧ Only [.regs, .host, .outs] s t ∧
           RegsOnly [A.LPM_REQ] s t)) ∧
       (s.on R.LPM_REQ_GO = true →
         Completes (.lpmReqGo path v) s (fun t =>
           t.on R.LPM_REQ_GO = true ∧ Answered s t path true [] ∧ KeysOnly s t ∧ KeyUsed s t path Pg.LPM ∧ Logged s t Pg.LPM 0x068 0x40 path.code 0 ∧
           Only [.regs, .elog, .host, .outs] s t ∧ RegsOnly (errAddrs Pg.LPM) s t))) ∧
     (s.on R.LPM_REQ_GO = true →
       let answers (n : Nat) (t : State) : Prop := t.on R.LPM_REQ_GO = false ∧ t.rd R.LPM_REQ_RES = n ∧ t.pend Pg.LPM 10 = true ∧ Only [.regs] s t
       let found := s.lp.find (s.getW A.LPM_REQ_SEQ).toNat
       (∀ b, s.lp.runs = true → s.lp.flashFault = false → found = some b →
         Completes .reqDone s (fun t =>
           answers 1 t ∧ (∀ i, i < 16 → t.getW (A.LPM_REC i) = BitVec.ofNat 32 (leNat ((b.drop (4 * i)).take 4))) ∧
           RegsOnly (evtAddr Pg.LPM :: A.LPM_REQ :: (List.range 16).map A.LPM_REC) s t)) ∧
       (∀ n, ((s.lp.runs = false ∧ n = 3) ∨ (s.lp.runs = true ∧ s.lp.flashFault = true ∧ n = 4) ∨
           (s.lp.runs = true ∧ s.lp.flashFault = false ∧ found = none ∧ n = 2)) →
         Completes .reqDone s (fun t => answers n t ∧ RegsOnly [evtAddr Pg.LPM, A.LPM_REQ] s t))))

/-- The UART's settings, with LP_CAL_EN high. SETTIME sets the clock and TIME_VALID and logs CLOCK_SET; TRIM, ALERT, LOGSEC and the first KEY set what
they name and log CONFIG, the key's record without any part of it; a bad argument answers ERR 2 and a second KEY or too low a supply ERR 4, and they
change nothing.
Each of these commands is shown to complete: setTime, lpTrim, lpAlert, logSec, lpKey. -/
def Obligations.LoupeSettings : Prop :=
  ∀ s : State, Quiet s → s.lp.runs = true →
    let cal := { s.lp with calEn := true }
    let refused (e : Nat) (t : State) : Prop := t.outs = .uartErr e :: s.outs ∧ t.lp = cal ∧ Only [.outs, .lp] s t
    let config (l : LpSt) (payload : Bytes) (t : State) : Prop :=
      t.outs = .uartOk :: s.outs ∧ t.lp = { l with flash := t.lp.flash, slot := t.lp.slot, seqNew := t.lp.seqNew } ∧
      (s.lp.flashFault = true → t.lp = l) ∧
      (s.lp.flashFault = false → 64 < s.lp.nslots → Recorded s.lp t 0x14 t.lp.eventFlags s.lp.stamp payload) ∧
      Only [.outs, .regs, .lp] s t ∧ RegsOnly [evtAddr Pg.LPM] s t
    (∀ y mo d h mi sec : Nat,
      (dateOk y mo d h mi sec = false → Completes (.setTime true y mo d h mi sec) s (refused 2)) ∧
      (dateOk y mo d h mi sec = true →
        Completes (.setTime true y mo d h mi sec) s (fun t =>
          t.outs = .uartOk :: s.outs ∧ t.lp.sec = secondsOf y mo d h mi sec ∧ t.lp.sub = 0 ∧ t.lp.timeValid = true ∧
          t.lp.iSec.n = 0 ∧ t.lp.iMin.n = 0 ∧ t.lp.iQtr.n = 0 ∧
          (s.lp.flashFault = false →
            t.lp.seqNew = s.lp.seqNew + (if s.lp.logSec = true ∧ s.lp.iSec.n ≠ 0 then 1 else 0) + (if s.lp.iMin.n ≠ 0 then 1 else 0)
              + (if s.lp.iQtr.n ≠ 0 then 1 else 0) + 1 ∧ t.pend Pg.LPM 9 = true) ∧
          (s.lp.flashFault = false → 64 < s.lp.nslots → s.lp.iSec.n = 0 → s.lp.iMin.n = 0 → s.lp.iQtr.n = 0 →
            Recorded s.lp t 0x13 t.lp.eventFlags t.lp.stamp (toLe 8 s.lp.stamp ++ toLe 8 t.lp.stamp)) ∧
          Only [.outs, .regs, .lp] s t ∧ RegsOnly [evtAddr Pg.LPM] s t))) ∧
    (∀ v : Int,
      (-20000 ≤ v → v ≤ 20000 → Completes (.lpTrim true v) s (config { cal with trim := v } (toLe 1 0 ++ toLe 4 (unsignedN 32 v)))) ∧
      (v < -20000 ∨ 20000 < v → Completes (.lpTrim true v) s (refused 2))) ∧
    (∀ q l h : Nat,
      (q ≤ 3 → l ≤ 65535 → h ≤ 65535 →
        Completes (.lpAlert true q l h) s (config { cal with qty := q, level := l, hyst := h } (toLe 1 1 ++ toLe 1 q ++ toLe 2 l ++ toLe 2 h))) ∧
      (3 < q → Completes (.lpAlert true q l h) s (refused 2))) ∧
    (∀ on : Bool, Completes (.logSec true on) s (config { cal with logSec := on } (toLe 1 2 ++ toLe 1 (b2n on)))) ∧
    (∀ (ws : List Word) (low : Bool), ws.length = 8 →
      (s.lp.key = none → low = false → Completes (.lpKey true ws low) s (config { cal with key := some ws } (toLe 1 3))) ∧
      (s.lp.key.isSome = true ∨ low = true → Completes (.lpKey true ws low) s (refused 4)))

/-- Calibration and the seal. CAL begins its 10 s with LP_CAL_EN high; CAL_DONE sets OFS to the reference level less the measured level plus the old
OFS, and OFFSET sets the value given; each raises the seal count, logs a CAL record and sets LPM event CAL. At a seal count of 255, or with too low a
supply, they answer ERR 4 and change nothing; CAL_EN_FALL abandons a calibration and changes no offset, seal or record.
Each of these commands is shown to complete: lpCal, lpOffset, calDone, calEnFall. -/
def Obligations.LoupeSeal : Prop :=
  ∀ s : State, Quiet s → s.lp.runs = true →
    let cal := { s.lp with calEn := true }
    let refused (e : Nat) (t : State) : Prop := t.outs = .uartErr e :: s.outs ∧ t.lp = cal ∧ Only [.outs, .lp] s t
    let old (k : Fin 2) : Int := if k.val = 0 then s.lp.ofs0 else s.lp.ofs1
    let accepted (k : Fin 2) (method : Nat) (v : Int) (ref meas : Nat) (t : State) : Prop :=
      t.outs = .uartOk :: s.outs ∧ (if k.val = 0 then t.lp.ofs0 else t.lp.ofs1) = v ∧
      (if k.val = 0 then t.lp.ofs1 = s.lp.ofs1 else t.lp.ofs0 = s.lp.ofs0) ∧ t.lp.sealCount = s.lp.sealCount + 1 ∧ t.lp.calMismatch = false ∧
      t.pend Pg.LPM 12 = true ∧
      (s.lp.flashFault = false → 64 < s.lp.nslots →
        Recorded s.lp t 0x12 t.lp.eventFlags s.lp.stamp
          (toLe 1 k.val ++ toLe 1 method ++ toLe 2 (unsignedN 16 (old k)) ++ toLe 2 (unsignedN 16 v) ++ toLe 2 ref ++ toLe 2 meas)) ∧
      Only [.outs, .regs, .lp] s t ∧ RegsOnly [evtAddr Pg.LPM] s t
    (∀ (k : Fin 2) (level : Int) (low : Bool),
      (s.lp.cal = none → s.lp.sealCount ≠ 255 → low = false → 0 ≤ level → level ≤ 65535 →
        Completes (.lpCal true k level low) s (fun t => t.lp = { cal with cal := some ⟨k.val, level, 0, 0⟩ } ∧ Only [.lp] s t)) ∧
      (s.lp.cal = none → (s.lp.sealCount = 255 ∨ low = true) → Completes (.lpCal true k level low) s (refused 4)) ∧
      (s.lp.cal ≠ none → Completes (.lpCal true k level low) s (refused 6))) ∧
    (∀ (k : Fin 2) (v : Int) (low : Bool), s.lp.cal = none →
      (-15000 ≤ v → v ≤ 15000 → s.lp.sealCount ≠ 255 → low = false → Completes (.lpOffset true k v low) s (accepted k 1 v 0 0)) ∧
      (v < -15000 ∨ 15000 < v → Completes (.lpOffset true k v low) s (refused 2)) ∧
      (-15000 ≤ v → v ≤ 15000 → (s.lp.sealCount = 255 ∨ low = true) → Completes (.lpOffset true k v low) s (refused 4))) ∧
    (∀ (k : Fin 2) (level : Int) (n e : Nat), s.lp.cal = some ⟨k.val, level, n, e⟩ →
      let meas := levelOf e n (old k)
      let v := level - meas + old k
      (n < 480000 → ∀ low, Completes (.calDone low) s (fun t => Only [] s t)) ∧
      (480000 ≤ n → -15000 ≤ v → v ≤ 15000 → Completes (.calDone false) s (fun t => accepted k 0 v level.toNat meas t ∧ t.lp.cal = none)) ∧
      (480000 ≤ n → Completes (.calDone true) s (fun t =>
        t.outs = .uartErr 4 :: s.outs ∧ t.lp = { s.lp with cal := none } ∧ Only [.outs, .lp] s t))) ∧
    Completes .calEnFall s (fun t => t.lp = { s.lp with calEn := false, cal := none } ∧ Only [.lp] s t)

/-! Chapter 16: supplies, reset, boot and modes. -/

/-- Resets. Power-on, and a rail sample at its reset level, leave everything at its reset value but the fuses and the Loupe, with PWR_RST_CAUSE 0
and 1. RESET_N low for 1 µs, a host device reset and a function level reset keep the error log, shared memory, both banks, the packet buffer, the
ERR_COUNT fields outside ETH and BR and the ageing model, and put every register without a kept field at its reset value; hen memories are zero.
Each of these commands is shown to complete: powerOnReset, brownOut, resetN, functionLevelReset, device. -/
def Obligations.Resets : Prop :=
  ∀ s : State, Quiet s →
    let low : List Emit := if s.twin.drive then .drive false :: s.outs else s.outs
    let cold (cause : Nat) (posA ioa : Bool) (t : State) : Prop :=
      t.rd R.PWR_RST_CAUSE_CAUSE = cause ∧ RegsOnly [A.PWR_RST_CAUSE] State.reset t ∧ t.outs = low ∧ t.lp = s.lp ∧ t.pending = s.pending ∧
      t.pwr = { State.reset.pwr with fuseHash := s.pwr.fuseHash, posA := posA, ioa3v3 := ioa } ∧
      Only [.pending, .outs, .free, .regs, .pwr, .lp] State.reset t
    let warm (cause : Nat) (posA : Bool) (t : State) : Prop :=
      t.mode = State.reset.mode ∧ t.tl = 0 ∧ t.rd R.PWR_RST_CAUSE_CAUSE = cause ∧ t.lp = s.lp ∧ t.pending = s.pending ∧
      t.pwr = { State.reset.pwr with fuseHash := s.pwr.fuseHash, posA := posA, ioa3v3 := s.pwr.ioa3v3 } ∧
      t.elog = s.elog ∧ t.elogSeq = s.elogSeq ∧ t.shm = s.shm ∧ t.active = s.active ∧ t.latent = s.latent ∧ t.fab.pbuf = s.fab.pbuf ∧
      (∀ page, isPage page = true → (page < 0x30 ∨ 0x34 < page) → t.getW (pageAddr page 0x020) = s.getW (pageAddr page 0x020)) ∧
      (∀ a ∈ [A.HOLD_AGE_A, A.HOLD_AGE_B, A.HOLD_AGE_H], t.getW a = s.getW a) ∧
      (∀ a, keptBits a = 0 → a ≠ A.PWR_RST_CAUSE → t.getW a = resetWord a) ∧
      t.slots = State.reset.slots ∧ t.hens = State.reset.hens ∧ t.jobs = State.reset.jobs ∧ t.audio = State.reset.audio ∧ t.psm = State.reset.psm ∧
      t.twin = State.reset.twin
    (∀ posA ioa : Bool, Completes (.powerOnReset posA ioa) s (cold 0 posA ioa)) ∧
    (∀ (r : Rail) (mv : Nat),
      (mv ≤ s.railReset r → Completes (.brownOut r mv) s (cold 1 s.pwr.posA s.pwr.ioa3v3)) ∧
      (s.railReset r < mv → Completes (.brownOut r mv) s (fun t => Only [] s t))) ∧
    (∀ (n : Nat) (posA : Bool), 10 ≤ n → Completes (.resetN n posA) s (fun t => warm 2 posA t ∧ t.outs = low)) ∧
    (∀ posA : Bool, Completes (.resetN 0 posA) s (fun t => Only [] s t)) ∧
    Completes .functionLevelReset s (fun t => warm 4 s.pwr.posA t ∧ t.outs = low ∧ t.host.pcieUp = s.host.pcieUp) ∧
    (∀ path : Path, Taken s path A.PWR_RST_CMD 1 →
      (Unlocked s path Pg.PWR →
        Completes (.device path) s (fun t => warm 3 s.pwr.posA t ∧ t.outs = .response path.code true [] :: low)) ∧
      (¬Unlocked s path Pg.PWR →
        Completes (.device path) s (fun t =>
          Answered s t path true [] ∧ Logged s t Pg.PWR 0x058 0x02 path.code 1 ∧ Only [.regs, .elog, .host, .outs] s t ∧ KeysOnly s t ∧
          KeyUsed s t path Pg.PWR ∧ RegsOnly (errAddrs Pg.PWR) s t)))

/-- Dips and fuses. A rail sample between its reset and warning levels begins a dip; 5 mV or more above warning ends it with PWR_BO, event 8 and code
0x42. A dip of 2 µs starts a priority scrub, of TW_REL.SUP_MS relinquishes drive and of MODE_QRULE.SUP_MS enters QUIESCE, each once. PROG starts the
key hash in COMMISSION once, else code 0x40; it is done with event 9 when no dip holds it, and refused with code 0x41 after 100 ms.
Each of these commands is shown to complete: railBelowWarning, boWarn, dipScrub, dipRelinquish, dipQuiesce, prog, fuseDone, fuseHoldTimeout. -/
def Obligations.DipsAndFuses : Prop :=
  ∀ s : State, Quiet s →
    (∀ (r : Rail) (mv : Nat), s.dip r = none → s.railReset r < mv →
      (mv < s.railNom r * 95 / 100 →
        Completes (.railBelowWarning r mv) s (fun t =>
          t.dip r = some ⟨s.clk, mv, false, false, false⟩ ∧ (∀ q, q ≠ r → t.dip q = s.dip q) ∧ Only [.pwr] s t)) ∧
      (s.railNom r * 95 / 100 ≤ mv → Completes (.railBelowWarning r mv) s (fun t => Only [] s t))) ∧
    (∀ (r : Rail) (mv least n : Nat) (d : Dip), s.dip r = some d → s.railNom r * 95 / 100 + 5 ≤ mv → least ≤ d.min → s.railReset r < least →
      let w : Word := BitVec.ofNat 32 (least + (match r with | .core => 0 | .mem => 1) * 1024 + min n 524287 * 8192)
      Completes (.boWarn r mv least n) s (fun t =>
        t.dip r = none ∧ (∀ q, q ≠ r → t.dip q = s.dip q) ∧ t.getW A.PWR_BO = w ∧ Counted s t R.PWR_BO_CNT_COUNT ∧ t.pend Pg.PWR 8 = true ∧
        Logged s t Pg.PWR 0x04C 0x42 0 w ∧ Only [.regs, .elog, .pwr] s t ∧ RegsOnly (A.PWR_BO :: A.PWR_BO_CNT :: errAddrs Pg.PWR) s t)) ∧
    (∀ (r : Rail) (d : Dip), s.dip r = some d → (∀ q, q ≠ r → s.dip q = none) →
      (d.scrubbed = false → d.since + usTicks 2 ≤ s.clk →
        Completes .dipScrub s (fun t =>
          t.dip r = some { d with scrubbed := true } ∧ t.fab = { s.fab with prio := some (s.fab.prio.getD s.clk) } ∧ Only [.pwr, .fab] s t)) ∧
      ((d.scrubbed = true ∨ s.clk < d.since + usTicks 2) → Completes .dipScrub s (fun t => Only [] s t)) ∧
      (s.on R.TW_REL_SUPPLY = true → s.mode.cur = .leader → d.relq = false → d.since + usTicks (1000 * s.rd R.TW_REL_SUP_MS) ≤ s.clk →
        s.twin.relq = false → s.twin.hb = true → (s.twin.peerRole = 3 ∨ s.twin.peerRole = 4) →
        Completes .dipRelinquish s (fun t =>
          t.dip r = some { d with relq := true } ∧ t.twin = { s.twin with relq := true } ∧ t.outs = .twin .relinquish :: s.outs ∧
          Counted s t R.TW_RELQ_CNT_COUNT ∧ t.pend Pg.TW 10 = true ∧ Only [.regs, .outs, .twin, .pwr] s t)) ∧
      (s.on R.MODE_QRULE_SUPPLY = true → s.mode.cur ∈ [Mode.standalone, .leader, .follower, .orphan] → d.quiesced = false →
        d.since + usTicks (1000 * s.rd R.MODE_QRULE_SUP_MS) ≤ s.clk →
        Completes .dipQuiesce s (fun t =>
          t.dip r = some { d with quiesced := true } ∧ t.mode = { s.mode with pend := some .quiesce, pendAt := s.block + 1 } ∧
          Only [.mode, .pwr] s t)) ∧
      ((s.on R.MODE_QRULE_SUPPLY = false ∨ d.quiesced = true) → Completes .dipQuiesce s (fun t => Only [] s t))) ∧
    (∀ path : Path, Taken s path A.PWR_FUSE 1 →
      (s.mode.cur = .commission → s.pwr.fuseHash = none → s.pwr.fuseBusy = none →
        Completes (.prog path) s (fun t =>
          Answered s t path true [] ∧ t.pwr = { s.pwr with fuseBusy := some s.clk } ∧ Only [.host, .pwr, .outs] s t ∧ KeysOnly s t ∧
          KeyUsed s t path Pg.PWR)) ∧
      ((s.mode.cur ≠ .commission ∨ s.pwr.fuseHash.isSome = true) →
        Completes (.prog path) s (fun t =>
          Answered s t path true [] ∧ Logged s t Pg.PWR 0x074 0x40 path.code 1 ∧ Only [.regs, .elog, .host, .outs] s t ∧
          RegsOnly (errAddrs Pg.PWR) s t))) ∧
    (∀ n : Nat, s.pwr.fuseBusy = some n →
      let held := s.pwr.dipCore.isSome = true ∨ s.pwr.dipMem.isSome = true ∨ (s.pwr.dipEnded ≠ 0 ∧ s.clk < s.pwr.dipEnded + usTicks 1000)
      (¬held → Completes .fuseDone s (fun t =>
        t.pwr = { s.pwr with fuseBusy := none, fuseHash := some s.pwr.keyh } ∧ t.pend Pg.PWR 9 = true ∧ Only [.regs, .pwr] s t ∧
        RegsOnly [evtAddr Pg.PWR] s t)) ∧
      (held → Completes .fuseDone s (fun t => Only [] s t)) ∧
      (held → n + usTicks 100000 < s.clk → Completes .fuseHoldTimeout s (fun t =>
        t.pwr = { s.pwr with fuseBusy := none } ∧ Logged s t Pg.PWR 0x074 0x41 0 0 ∧ Only [.regs, .elog, .pwr] s t ∧
        RegsOnly (errAddrs Pg.PWR) s t)))

/-- Boot. BOOT_SEARCH takes the first flash image that verifies, with its source, version and digest; where neither does it records why and waits for
a push. PUSH takes the image in shared memory, or records its code and waits again. BOOT_COMPLETE of an image that holds no register writes sets
REMAP and enters COMMISSION with TL 0.
Each of these commands is shown to complete: bootSearch, push, bootComplete. -/
def Obligations.Boot : Prop :=
  ∀ s : State, Quiet s → s.mode.cur = .boot →
    let took (src : Nat) (b : Bytes) (t : State) : Prop :=
      let img := b.take (imgNat b 8 4)
      t.pwr = { s.pwr with image := some img, imageSrc := src, booting := false } ∧ t.rd R.PWR_BOOT_STAT_SRC = src ∧
      t.getW A.PWR_BOOT_VER = BitVec.ofNat 32 (imgNat b 0x10 4) ∧
      ∀ i, i < 8 → t.getW (A.PWR_BOOT_DIG i) = BitVec.ofNat 32 (leNat (((sha256 img).drop (4 * i)).take 4))
    (s.pwr.booting = true → s.on R.PWR_BOOT_STAT_WAIT_PUSH = false → s.pwr.image = none →
      (∀ (b : Bytes) (f1 : Option Bytes), imageCode s.pwr.fuseHash false b = 0 →
        Completes (.bootSearch (some b) f1) s (fun t => took 0 b t ∧ Only [.regs, .pwr] s t)) ∧
      (∀ (f0 : Option Bytes) (b : Bytes), (∀ x, f0 = some x → imageCode s.pwr.fuseHash false x ≠ 0) → imageCode s.pwr.fuseHash false b = 0 →
        Completes (.bootSearch f0 (some b)) s (fun t => took 1 b t ∧ Only [.regs, .pwr] s t)) ∧
      (∀ (f0 : Option Bytes) (b : Bytes), (∀ x, f0 = some x → imageCode s.pwr.fuseHash false x ≠ 0) → imgNat b 0 4 ≠ 0x4B5A4249 →
        Completes (.bootSearch f0 (some b)) s (fun t =>
          t.rd R.PWR_BOOT_STAT_CODE = 1 ∧ t.on R.PWR_BOOT_STAT_WAIT_PUSH = true ∧ Only [.regs] s t ∧ RegsOnly [A.PWR_BOOT_STAT] s t)) ∧
      Completes (.bootSearch none none) s (fun t =>
        t.rd R.PWR_BOOT_STAT_CODE = 5 ∧ t.on R.PWR_BOOT_STAT_WAIT_PUSH = true ∧ Only [.regs] s t ∧ RegsOnly [A.PWR_BOOT_STAT] s t)) ∧
    (∀ path : Path, Taken s path A.PWR_BOOT_CTRL 1 →
      let b := mBytes zeroByte s.shm 0 (max 0x280 (min (mNat zeroByte s.shm 8 4) 0x800000))
      (s.on R.PWR_BOOT_STAT_WAIT_PUSH = true → imageCode s.pwr.fuseHash true b = 0 →
        Completes (.push path) s (fun t =>
          took 2 b t ∧ t.on R.PWR_BOOT_STAT_WAIT_PUSH = false ∧ Answered s t path true [] ∧ KeysOnly s t ∧ Only [.regs, .host, .pwr, .outs] s t)) ∧
      (∀ c, s.on R.PWR_BOOT_STAT_WAIT_PUSH = true → imageCode s.pwr.fuseHash true b = c → c ≠ 0 →
        Completes (.push path) s (fun t =>
          t.rd R.PWR_BOOT_STAT_CODE = c ∧ t.on R.PWR_BOOT_STAT_WAIT_PUSH = true ∧ Answered s t path true [] ∧ KeysOnly s t ∧
          Only [.regs, .host, .outs] s t ∧ RegsOnly [A.PWR_BOOT_STAT] s t)) ∧
      (s.on R.PWR_BOOT_STAT_WAIT_PUSH = false →
        Completes (.push path) s (fun t => Answered s t path true [] ∧ KeysOnly s t ∧ Only [.host, .outs] s t))) ∧
    (∀ b : Bytes, s.pwr.image = some b → (∀ x ∈ imgSections b, x.type ≠ 3) →
      Completes .bootComplete s (fun t =>
        t.mode.cur = .commission ∧ t.mode.audioReady = true ∧ t.tl = 0 ∧ t.bndDue = true ∧ t.pwr = { s.pwr with image := none } ∧
        t.on R.FAB_CFG_REMAP = true ∧ t.pend Pg.MODE 8 = true ∧ t.active = s.active ∧ t.slots = s.slots ∧ t.psm = s.psm ∧ t.lp = s.lp))

/-- Mode requests. Each is judged when it is written with the key: one that Table 1.5 and Table 16.6 allow takes effect at the next block boundary (a
QUIESCE in LEADER one later, a join at its rejoin boundary); another is refused with code 0x40, 0x41, 0x42 or TW 0x42, and any while one is pending
with code 0x05. A COMMISSION request in DARK is a host command wake.
Each of these commands is shown to complete: modeReqStandalone, modeReqLeader, modeReqFollower, modeReqQuiesce, modeReqCommission, modeReqDark,
modeReqReturn. -/
def Obligations.ModeRequests : Prop :=
  ∀ (s : State) (path : Path), Quiet s → Unlocked s path Pg.MODE → (hostPath path.code = false ∨ (s.mode.cur ≠ .follower ∧ s.mode.cur ≠ .leader)) →
    let accepted (m : Mode) (n : Nat) (t : State) : Prop := t.mode = { s.mode with pend := some m, pendAt := n } ∧ Answered s t path true [] ∧
      KeysOnly s t ∧ KeyUsed s t path Pg.MODE ∧ Only [.mode, .regs, .host, .outs] s t ∧ RegsOnly [A.MODE_REQ] s t
    let refused (page off code : Nat) (v : Word) (t : State) : Prop := Logged s t page off code path.code v ∧ Answered s t path true [] ∧
      KeysOnly s t ∧ KeyUsed s t path Pg.MODE ∧ Only [.regs, .elog, .host, .outs] s t ∧ RegsOnly (A.MODE_REQ :: errAddrs page) s t
    let idle := s.mode.pend = none ∧ s.mode.entering = false
    let audio := s.mode.audioReady = true ∧ s.audio.apllLost = false
    let leads := s.twin.peerRole = 2 ∧ (s.twin.hb = true ∨ s.twin.nhb = true)
    let paired := s.on R.TW_CFG_EN = true ∧ s.twin.refused = false ∧ audio
    (s.mode.cur = .commission → idle →
      (s.on R.TW_CFG_EN = false → audio → Completes (.modeReqStandalone path) s (accepted .standalone (s.block + 1))) ∧
      ((s.on R.TW_CFG_EN = true ∨ ¬audio) → Completes (.modeReqStandalone path) s (refused Pg.MODE 0x044 0x41 0x12)) ∧
      (paired → ¬leads → Completes (.modeReqLeader path) s (accepted .leader (s.block + 1))) ∧
      (paired → leads → Completes (.modeReqLeader path) s (refused Pg.TW 0 0x42 0x13)) ∧
      (¬paired → Completes (.modeReqLeader path) s (refused Pg.MODE 0x044 0x41 0x13)) ∧
      (paired → s.twUp = true → s.twin.hb = true → s.twin.peerRole = 2 → s.ref.state ≠ .holdover →
        Completes (.modeReqFollower path) s (fun t =>
          t.mode = { s.mode with pend := some .follower, pendAt := 0 } ∧ t.twin = { s.twin with joining := true } ∧ t.ref.leader = true ∧
          Counted s t R.REF_SWITCH_COUNT ∧ t.pend Pg.REF 8 = true ∧ Answered s t path true [] ∧ Only [.mode, .regs, .host, .ref, .twin, .outs] s t)) ∧
      (paired → s.leaderThere = false → Completes (.modeReqFollower path) s (refused Pg.TW 0 0x42 0x14)) ∧
      (¬paired → Completes (.modeReqFollower path) s (refused Pg.MODE 0x044 0x41 0x14)) ∧
      Completes (.modeReqQuiesce path) s (refused Pg.MODE 0x044 0x40 0x16) ∧
      Completes (.modeReqCommission path) s (refused Pg.MODE 0x044 0x40 0x11) ∧
      (∀ pin : Bool,
        let source := (pin = true ∧ s.on R.MODE_WAKE_PIN_EN = true) ∨ (s.lp.alert = true ∧ s.on R.LPM_CFG_WAKE_EN = true)
        (¬source → Completes (.modeReqDark path pin) s (accepted .dark (s.block + 1))) ∧
        (source → Completes (.modeReqDark path pin) s (refused Pg.MODE 0x044 0x42 0x17)))) ∧
    (s.mode.cur ∈ [Mode.standalone, .leader, .follower, .orphan] → idle →
      Completes (.modeReqQuiesce path) s (accepted .quiesce (if s.mode.cur = .leader then s.block + 2 else s.block + 1)) ∧
      Completes (.modeReqStandalone path) s (refused Pg.MODE 0x044 0x40 0x12) ∧ Completes (.modeReqDark path false) s (refused Pg.MODE 0x044 0x40 0x17)) ∧
    (s.mode.cur = .quiesce → (hostPath path.code = false ∨ s.twUp = false) → idle →
      ∀ n : Fin 8,
        let m := Mode.ofCode n.val
        (m = s.mode.prev ∨ m = .commission → Completes (.modeReqReturn path n) s (accepted m (s.block + 1))) ∧
        (m ≠ s.mode.prev → m ≠ .commission →
          Completes (.modeReqReturn path n) s (refused Pg.MODE 0x044 0x40 (BitVec.ofNat 32 (0x10 + n.val))))) ∧
    (s.mode.cur ≠ .quiesce → s.mode.pend.isSome = true →
      Completes (.modeReqStandalone path) s (refused Pg.MODE 0x044 0x05 0x12) ∧ Completes (.modeReqLeader path) s (refused Pg.MODE 0x044 0x05 0x13) ∧
      Completes (.modeReqFollower path) s (refused Pg.MODE 0x044 0x05 0x14) ∧ Completes (.modeReqQuiesce path) s (refused Pg.MODE 0x044 0x05 0x16)) ∧
    (s.mode.cur = .dark →
      Completes (.modeReqCommission path) s (fun t =>
        t.mode.cur = .commission ∧ t.mode.audioReady = false ∧ t.mode.wakeAt = some s.clk ∧ t.rd R.MODE_WAKE_SRC = 4 ∧ t.pend Pg.MODE 8 = true ∧
        t.pend Pg.MODE 10 = true ∧ Answered s t path true [] ∧ Only [.due, .mode, .regs, .jobs, .host, .fab, .outs] s t))

/-- Mode changes. CHANGED at a block boundary carries out the request that is due, with PREV, event 8 and, back from QUIESCE, COMMISSION where the twin
state no longer allows the return. DARK_ENTRY begins at its boundary and, once every fenced mule holds, powers the flocks, the audio domain, the lanes
not kept and the twin link down. A wake source enters COMMISSION, and AUDIO_READY ends the wake after 20 ms; TWL_OFF powers the twin link down.
Each of these commands is shown to complete: changed, darkEntry, wakePin, loupeAlarm, audioReady, twlOff. -/
def Obligations.ModeChanges : Prop :=
  ∀ s : State, Quiet s →
    (∀ m : Mode, s.mode.pend = some m → s.mode.pendAt ≤ s.block → m ≠ .dark → s.twin.joining = false →
      (s.atBoundary = false → Completes .changed s (fun t => Only [] s t)) ∧
      (s.atBoundary = true →
        let gone := (m = .follower ∧ ¬(s.twin.peerRole = 2 ∧ (s.twin.hb = true ∨ s.twin.nhb = true))) ∨ (m = .orphan ∧ s.twin.driveIn = false)
        Completes .changed s (fun t =>
          t.mode = { s.mode with cur := if s.mode.cur = .quiesce ∧ gone then .commission else m,
                                 prev := if m = .quiesce then s.mode.cur else s.mode.prev, pend := none } ∧
          t.pend Pg.MODE 8 = true ∧ Only [.mode, .regs, .host, .ptp, .ref, .twin] s t ∧ RegsOnly [evtAddr Pg.MODE, A.TW_RESYNC, A.PTP_STAT] s t))) ∧
    (s.mode.pend = some .dark → s.mode.pendAt ≤ s.block → s.atBoundary = true → s.mode.cur = .commission →
      Completes .darkEntry s (fun t =>
        t.mode.pend = none ∧ (∀ n, n < 32 → (t.slot n).state ≠ .armed) ∧
        (t.mode.cur = .dark ∨ (t.mode.cur = .commission ∧ t.mode.entering = true ∧ (∃ x ∈ t.fab.fences, x.dom = 16) ∧
          ∀ f, f < 16 → (s.flock f).powered = true → (t.flock f).taking = false ∧ ∃ x ∈ t.fab.fences, x.dom = f)) ∧
        t.active = s.active ∧ t.latent = s.latent ∧ t.tl = s.tl ∧ t.pwr = s.pwr ∧ t.lp = s.lp)) ∧
    (s.mode.pend = none → s.mode.entering = true → (∀ x ∈ s.fab.fences, s.fenceHeld x.dom = true) →
      Completes .darkEntry s (fun t =>
        t.mode = { s.mode with cur := .dark, entering := false, audioReady := false, wakeAt := none } ∧
        (∀ f, f < 16 → (t.flock f).powered = false) ∧
        (∀ h, h < 256 → (s.flock (flockOf h)).powered = true → (t.hen h).imem = [] ∧ (t.hen h).dmem = []) ∧
        (∀ m, 64 ≤ m → m < 88 → (t.mule m).st = .off) ∧ (∀ p, p < 4 → s.laneKept p = false → t.linkUp p = false) ∧
        (∀ c, c < 32 → (s.ps c).cmd = false → (t.ps c).st = .off ∨ (t.ps c).st = .tripped ∨ (t.ps c).st = .fault) ∧
        t.twin.lanes = 0 ∧ t.twin.drive = false ∧ t.audio.apllLost = true ∧ t.pend Pg.MODE 8 = true ∧
        Only [.outs, .mode, .regs, .host, .hens, .jobs, .audio, .ptp, .ref, .eth, .psm, .twin, .fab] s t)) ∧
    (let woken (src : Nat) (t : State) : Prop :=
        t.mode = { s.mode with cur := .commission, entering := false, audioReady := false, wakeAt := some s.clk } ∧ t.rd R.MODE_WAKE_SRC = src ∧
        t.pend Pg.MODE 10 = true ∧ (s.mode.cur = .dark → t.pend Pg.MODE 8 = true) ∧ Only [.due, .mode, .regs, .jobs, .fab] s t
     (s.mode.cur = .dark ∨ s.mode.entering = true →
        (s.on R.MODE_WAKE_PIN_EN = true → Completes .wakePin s (woken 2)) ∧
        (s.lp.alert = true → s.on R.LPM_CFG_WAKE_EN = true → Completes .loupeAlarm s (woken 8))) ∧
     (s.on R.MODE_WAKE_PIN_EN = false ∨ (s.mode.cur ≠ .dark ∧ s.mode.entering = false) → Completes .wakePin s (fun t => Only [] s t)) ∧
     (s.lp.alert = false ∨ s.on R.LPM_CFG_WAKE_EN = false → Completes .loupeAlarm s (fun t => Only [] s t))) ∧
    (∀ n : Nat, s.mode.wakeAt = some n → s.mode.cur ≠ .dark →
      (n + usTicks 20000 ≤ s.clk →
        Completes .audioReady s (fun t =>
          t.mode = { s.mode with wakeAt := none, audioReady := true } ∧ t.audio.apllLost = false ∧ t.pend Pg.MODE 9 = true ∧
          Only [.mode, .regs, .jobs, .audio, .psm, .fab] s t)) ∧
      (s.clk < n + usTicks 20000 → Completes .audioReady s (fun t => Only [] s t))) ∧
    (∀ (path : Path) (v : Word), Taken s path A.PWR_DOM_CTRL v → path ≠ .twin →
      (bitN v.toNat 0 = 0 →
        Completes (.twlOff path v) s (fun t =>
          t.on R.PWR_DOM_CTRL_TWL_OFF = false ∧ t.pwr = { s.pwr with twlOff := false } ∧ Answered s t path true [] ∧ KeysOnly s t ∧
          Only [.regs, .host, .pwr, .outs] s t ∧ RegsOnly [A.PWR_DOM_CTRL] s t)) ∧
      (bitN v.toNat 0 = 1 → s.mode.cur = .commission → s.on R.TW_CFG_EN = false →
        Completes (.twlOff path v) s (fun t =>
          t.on R.PWR_DOM_CTRL_TWL_OFF = true ∧ t.pwr = { s.pwr with twlOff := true } ∧ t.twin.lanes = 0 ∧ Answered s t path true [] ∧ KeysOnly s t ∧
          Only [.regs, .host, .pwr, .twin, .outs] s t)) ∧
      (bitN v.toNat 0 = 1 → (s.mode.cur ≠ .commission ∨ s.on R.TW_CFG_EN = true) →
        Completes (.twlOff path v) s (fun t =>
          Logged s t Pg.PWR 0x070 (if s.mode.cur = .commission then 0x43 else 0x05) path.code v ∧ Answered s t path true [] ∧ KeysOnly s t ∧
          Only [.regs, .elog, .host, .outs] s t ∧ RegsOnly (errAddrs Pg.PWR) s t)))
end

