-- ==== Sys2Proof/Laws/Tables.lean ====
section
/-! SUPPORT. The laws of sparse tables and byte memories: a read after a write, and the canonical form kept. -/

namespace Sys2Proof.Machine

variable {α : Type}

theorem tget_tdel_same (d : Nat → α) (m : Sparse α) (k : Nat) : tget d (tdel m k) k = d k := by
  induction m with
  | nil => rfl
  | cons x t ih =>
    obtain ⟨k', v'⟩ := x
    simp only [tdel]
    split
    · exact ih
    · simp only [tget, ih]
      split
      · contradiction
      · rfl

theorem tget_tdel_ne (d : Nat → α) (m : Sparse α) {j k : Nat} (h : j ≠ k) : tget d (tdel m k) j = tget d m j := by
  induction m with
  | nil => rfl
  | cons x t ih =>
    obtain ⟨k', v'⟩ := x
    simp only [tdel]
    split
    · rename_i e; subst e; simp only [ih, tget, if_neg h]
    · simp only [tget, ih]

theorem tget_tins_same (d : Nat → α) (m : Sparse α) (k : Nat) (v : α) : tget d (tins m k v) k = v := by
  induction m with
  | nil => simp [tins, tget]
  | cons x t ih =>
    obtain ⟨k', v'⟩ := x
    simp only [tins]
    split
    · simp [tget]
    · split
      · simp [tget]
      · rename_i h; simp only [tget, if_neg h, ih]

theorem tget_tins_ne (d : Nat → α) (m : Sparse α) {j k : Nat} (v : α) (h : j ≠ k) : tget d (tins m k v) j = tget d m j := by
  induction m with
  | nil => simp [tins, tget, h]
  | cons x t ih =>
    obtain ⟨k', v'⟩ := x
    simp only [tins]
    split
    · simp only [tget, if_neg h]
    · split
      · rename_i e; subst e; simp only [tget, if_neg h]
      · simp only [tget, ih]

variable [DecidableEq α]

/-- A key read after it is written gives the value written. -/
@[simp] theorem tget_tset_same (d : Nat → α) (m : Sparse α) (k : Nat) (v : α) : tget d (tset d m k v) k = v := by
  unfold tset
  split
  · rename_i h; rw [tget_tdel_same, h]
  · exact tget_tins_same d m k v

/-- A write leaves every other key alone. -/
theorem tget_tset_ne (d : Nat → α) (m : Sparse α) {j k : Nat} (v : α) (h : j ≠ k) : tget d (tset d m k v) j = tget d m j := by
  unfold tset
  split
  · exact tget_tdel_ne d m h
  · exact tget_tins_ne d m v h

/-- Every read after a write. -/
theorem tget_tset (d : Nat → α) (m : Sparse α) (j k : Nat) (v : α) :
    tget d (tset d m k v) j = if j = k then v else tget d m j := by
  split
  · rename_i h; subst h; exact tget_tset_same d m j v
  · rename_i h; exact tget_tset_ne d m v h

/-- A key changed by a function reads as the function's value; every other key is left alone. -/
theorem tget_tmod (d : Nat → α) (m : Sparse α) (j k : Nat) (f : α → α) :
    tget d (tmod d m k f) j = if j = k then f (tget d m k) else tget d m j := tget_tset d m j k _

/-- Every key of a table is greater than `k`. -/
def tabove (k : Nat) : Sparse α → Bool
  | [] => true
  | x :: t => decide (k < x.1) && tabove k t

omit [DecidableEq α] in
theorem tabove_mono {j k : Nat} (h : j ≤ k) {m : Sparse α} (hm : tabove k m = true) : tabove j m = true := by
  induction m with
  | nil => rfl
  | cons x t ih =>
    simp only [tabove, Bool.and_eq_true, decide_eq_true_eq] at hm ⊢
    exact ⟨by omega, ih hm.2⟩

/-- The canonical form, one entry at a time. -/
theorem twf_cons (d : Nat → α) (k : Nat) (v : α) (t : Sparse α) :
    twf d ((k, v) :: t) = true ↔ v ≠ d k ∧ tabove k t = true ∧ twf d t = true := by
  induction t generalizing k v with
  | nil => simp [twf, tabove]
  | cons x t ih =>
    obtain ⟨k', v'⟩ := x
    simp only [twf, tabove, Bool.and_eq_true, decide_eq_true_eq, Bool.not_eq_true', decide_eq_false_iff_not]
    constructor
    · rintro ⟨⟨h1, h2⟩, h3⟩
      exact ⟨h1, ⟨h2, tabove_mono (Nat.le_of_lt h2) ((ih k' v').1 h3).2.1⟩, h3⟩
    · rintro ⟨h1, ⟨h2, -⟩, h3⟩
      exact ⟨⟨h1, h2⟩, h3⟩

omit [DecidableEq α] in
theorem tabove_tdel (j k : Nat) (m : Sparse α) (h : tabove j m = true) : tabove j (tdel m k) = true := by
  induction m with
  | nil => rfl
  | cons x t ih =>
    simp only [tabove, Bool.and_eq_true] at h
    simp only [tdel]
    split
    · exact ih h.2
    · simp only [tabove, Bool.and_eq_true]; exact ⟨h.1, ih h.2⟩

omit [DecidableEq α] in
theorem tabove_tins (j k : Nat) (v : α) (m : Sparse α) (h : tabove j m = true) (hk : j < k) : tabove j (tins m k v) = true := by
  induction m with
  | nil => simp [tins, tabove, hk]
  | cons x t ih =>
    simp only [tabove, Bool.and_eq_true, decide_eq_true_eq] at h
    simp only [tins]
    split
    · simp [tabove, hk, h]
    · split
      · simp [tabove, hk, h]
      · simp [tabove, h.1, ih h.2]

theorem twf_tdel (d : Nat → α) (m : Sparse α) (k : Nat) (h : twf d m = true) : twf d (tdel m k) = true := by
  induction m with
  | nil => rfl
  | cons x t ih =>
    obtain ⟨k', v'⟩ := x
    rw [twf_cons] at h
    simp only [tdel]
    split
    · exact ih h.2.2
    · rw [twf_cons]; exact ⟨h.1, tabove_tdel _ _ _ h.2.1, ih h.2.2⟩

theorem twf_tins (d : Nat → α) (m : Sparse α) (k : Nat) (v : α) (hv : v ≠ d k) (h : twf d m = true) : twf d (tins m k v) = true := by
  induction m with
  | nil => simp [tins, twf, hv]
  | cons x t ih =>
    obtain ⟨k', v'⟩ := x
    have h' := (twf_cons d k' v' t).1 h
    simp only [tins]
    split
    · rename_i hlt
      rw [twf_cons]
      refine ⟨hv, ?_, h⟩
      simp only [tabove, Bool.and_eq_true, decide_eq_true_eq]
      exact ⟨hlt, tabove_mono (Nat.le_of_lt hlt) h'.2.1⟩
    · split
      · rename_i e; subst e; rw [twf_cons]; exact ⟨hv, h'.2.1, h'.2.2⟩
      · rename_i h1 h2
        rw [twf_cons]
        exact ⟨h'.1, tabove_tins _ _ _ _ h'.2.1 (by omega), ih h'.2.2⟩

/-- A write keeps the canonical form. -/
theorem twf_tset (d : Nat → α) (m : Sparse α) (k : Nat) (v : α) (h : twf d m = true) : twf d (tset d m k v) = true := by
  unfold tset
  split
  · exact twf_tdel d m k h
  · rename_i hv; exact twf_tins d m k v hv h

theorem twf_tmod (d : Nat → α) (m : Sparse α) (k : Nat) (f : α → α) (h : twf d m = true) : twf d (tmod d m k f) = true :=
  twf_tset d m k _ h

omit [DecidableEq α] in
theorem tabove_filter (j : Nat) (p : Nat × α → Bool) (m : Sparse α) (h : tabove j m = true) : tabove j (m.filter p) = true := by
  induction m with
  | nil => rfl
  | cons x t ih =>
    simp only [tabove, Bool.and_eq_true] at h
    simp only [List.filter]
    split
    · simp only [tabove, Bool.and_eq_true]; exact ⟨h.1, ih h.2⟩
    · exact ih h.2

/-- Entries dropped keep the canonical form. -/
theorem twf_filter (d : Nat → α) (p : Nat × α → Bool) (m : Sparse α) (h : twf d m = true) : twf d (m.filter p) = true := by
  induction m with
  | nil => rfl
  | cons x t ih =>
    obtain ⟨k, v⟩ := x
    rw [twf_cons] at h
    simp only [List.filter]
    split
    · rw [twf_cons]; exact ⟨h.1, tabove_filter _ _ _ h.2.1, ih h.2.2⟩
    · exact ih h.2.2

/-! Byte memories. -/

/-- Bytes stored keep the canonical form. -/
theorem twf_mPut (d : Nat → Byte) (b : List (Option Byte)) : ∀ (m : Mem) (a : Nat), twf d m = true → twf d (mPut d m a b) = true := by
  induction b with
  | nil => intro m a h; exact h
  | cons x t ih =>
    intro m a h
    cases x with
    | none => exact ih m (a + 1) h
    | some v => exact ih _ (a + 1) (twf_tset d m a v h)

/-- A byte string stored keeps the canonical form. -/
theorem twf_mPutB (d : Nat → Byte) (m : Mem) (a : Nat) (b : Bytes) (h : twf d m = true) : twf d (mPutB d m a b) = true :=
  twf_mPut d _ m a h

/-- A byte outside what is stored reads as before. -/
theorem tget_mPut_out (d : Nat → Byte) (b : List (Option Byte)) :
    ∀ (m : Mem) (a j : Nat), (j < a ∨ a + b.length ≤ j) → tget d (mPut d m a b) j = tget d m j := by
  induction b with
  | nil => intro m a j _; rfl
  | cons x t ih =>
    intro m a j h
    simp only [List.length_cons] at h
    cases x with
    | none => exact ih m (a + 1) j (by omega)
    | some v =>
      simp only [mPut]
      rw [ih _ (a + 1) j (by omega)]
      exact tget_tset_ne d m v (by omega)

/-- A stored byte reads as the byte stored, and a byte that is not enabled as before. -/
theorem tget_mPut_in (d : Nat → Byte) (b : List (Option Byte)) :
    ∀ (m : Mem) (a i : Nat), i < b.length → tget d (mPut d m a b) (a + i) = ((b[i]?).join).getD (tget d m (a + i)) := by
  induction b with
  | nil => intro m a i h; simp at h
  | cons x t ih =>
    intro m a i h
    cases i with
    | zero =>
      cases x with
      | none => simp only [mPut]; rw [tget_mPut_out d t m (a + 1) (a + 0) (by omega)]; simp
      | some v => simp only [mPut]; rw [tget_mPut_out d t _ (a + 1) (a + 0) (by omega)]; simp
    | succ i =>
      have hi : i < t.length := by simpa using h
      cases x with
      | none => simp only [mPut]; rw [show a + (i + 1) = a + 1 + i by omega, ih m (a + 1) i hi]; simp
      | some v =>
        simp only [mPut]; rw [show a + (i + 1) = a + 1 + i by omega, ih _ (a + 1) i hi]
        simp [tget_tset_ne d m v (show a + 1 + i ≠ a by omega)]

end Sys2Proof.Machine
end

