-- ==== Sys2Proof/Laws/Finish.lean ====
section
/-! SUPPORT. What `finish` can do, said once: a command's state, and what follows it in the same cycle. -/

namespace Sys2Proof.Machine

theorem bitN_or (a b i : Nat) : bitN (a ||| b) i = max (bitN a i) (bitN b i) := by
  unfold bitN
  have h : ∀ x : Nat, x / 2 ^ i % 2 = (x.testBit i).toNat := fun x => by
    rw [Nat.testBit_eq_decide_div_mod_eq]; rcases Nat.mod_two_eq_zero_or_one (x / 2 ^ i) with h | h <;> simp [h]
  simp only [h, Nat.testBit_or]
  cases a.testBit i <;> cases b.testBit i <;> rfl

theorem pageAddr_inj {p q o : Nat} (h : pageAddr p o = pageAddr q o) : p = q := by
  unfold pageAddr at h; omega

theorem settled_refl (t : State) : Settled t t := by
  refine ⟨fun p _ => ?_, rfl, fun _ _ => rfl, fun _ _ _ _ => rfl, fun _ _ h => h, [], rfl, rfl⟩
  cases p <;> simp [Part.same]

/-- What the events FAULT and DEGRADED of a list of pages do to the register words. -/
def risenRegs (up : Nat → Nat) (pages : List Nat) (r : Sparse Word) : Sparse Word :=
  pages.foldl (fun r p => if up p = 0 then r else tmod resetWord r (evtAddr p) fun w => w ||| BitVec.ofNat 32 (up p)) r

theorem risenRegs_out (up : Nat → Nat) (pages : List Nat) (a : Nat) (h : a ∉ pages.map evtAddr) :
    ∀ r, tget resetWord (risenRegs up pages r) a = tget resetWord r a := by
  induction pages with
  | nil => intro r; rfl
  | cons p t ih =>
    intro r
    simp only [List.map_cons, List.mem_cons, not_or] at h
    simp only [risenRegs, List.foldl_cons]
    rw [show (t.foldl _ _) = risenRegs up t _ from rfl, ih h.2]
    split
    · rfl
    · rw [tget_tmod, if_neg h.1]

theorem risenRegs_bit (up : Nat → Nat) (hup : ∀ p, up p = 0 ∨ up p = 2 ∨ up p = 4 ∨ up p = 6) (pages : List Nat) (a : Nat) :
    ∀ r, ∃ k, (k = 0 ∨ k = 2 ∨ k = 4 ∨ k = 6) ∧ tget resetWord (risenRegs up pages r) a = tget resetWord r a ||| BitVec.ofNat 32 k := by
  induction pages with
  | nil => intro r; exact ⟨0, .inl rfl, by simp [risenRegs]⟩
  | cons p t ih =>
    intro r
    simp only [risenRegs, List.foldl_cons]
    obtain ⟨k, hk, e⟩ := ih (if up p = 0 then r else tmod resetWord r (evtAddr p) fun w => w ||| BitVec.ofNat 32 (up p))
    simp only [risenRegs] at e
    rw [e]
    split
    · exact ⟨k, hk, rfl⟩
    · rw [tget_tmod]
      split
      · rename_i ha; subst ha
        refine ⟨up p ||| k, ?_, ?_⟩
        · rcases hup p with h | h | h | h <;> rcases hk with e | e | e | e <;> rw [h, e] <;> decide
        · rw [BitVec.or_assoc]; congr 1; rw [BitVec.ofNat_or]
      · exact ⟨k, hk, rfl⟩

/-- The event bits that a change of the state raises on a page. -/
def riseOf (s0 s1 : State) (p : Nat) : Nat :=
  2 * b2n ((s1.status p).fault && !(s0.status p).fault) + 4 * b2n ((s1.status p).degraded && !(s0.status p).degraded)

theorem settle_getW (s0 s1 : State) (a : Nat) : (settle s0 s1).getW a = tget resetWord (risenRegs (riseOf s0 s1) allPages s1.regs) a := by
  unfold State.getW settle settleRegs risenRegs riseOf evtAddr
  congr 2

theorem pend_or_small (w : Word) (k bit : Nat) (hk : k = 0 ∨ k = 2 ∨ k = 4 ∨ k = 6) :
    (bit ≠ 1 → bit ≠ 2 → bitN (w ||| BitVec.ofNat 32 k).toNat bit = bitN w.toNat bit) ∧
    bitN w.toNat bit ≤ bitN (w ||| BitVec.ofNat 32 k).toNat bit := by
  rw [BitVec.toNat_or, bitN_or]
  constructor
  · intro h1 h2
    have : bitN (BitVec.ofNat 32 k).toNat bit = 0 := by
      rcases bit with _ | _ | _ | n
      · rcases hk with h | h | h | h <;> rw [h] <;> decide
      · exact absurd rfl h1
      · exact absurd rfl h2
      · have : (BitVec.ofNat 32 k).toNat < 8 := by rcases hk with h | h | h | h <;> rw [h] <;> decide
        unfold bitN
        rw [Nat.div_eq_of_lt]
        calc _ < 8 := this
          _ = 2 ^ 3 := rfl
          _ ≤ 2 ^ (n + 1 + 1 + 1) := Nat.pow_le_pow_right (by decide) (by omega)
    rw [this]; omega
  · omega

theorem twoBits (a b : Bool) : 2 * b2n a + 4 * b2n b = 0 ∨ 2 * b2n a + 4 * b2n b = 2 ∨ 2 * b2n a + 4 * b2n b = 4 ∨ 2 * b2n a + 4 * b2n b = 6 := by
  cases a <;> cases b <;> decide

/-- `settle` adds what follows in the same cycle and nothing else. -/
theorem settled_settle (s0 s1 : State) : Settled s1 (settle s0 s1) := by
  have hw : ∀ a, ∃ k, (k = 0 ∨ k = 2 ∨ k = 4 ∨ k = 6) ∧ (settle s0 s1).getW a = s1.getW a ||| BitVec.ofNat 32 k := fun a =>
    settle_getW s0 s1 a ▸ risenRegs_bit (riseOf s0 s1) (fun _ => twoBits _ _) allPages a s1.regs
  refine ⟨fun p hp => ?_, rfl, fun a ha => ?_, fun page bit h1 h2 => ?_, fun page bit h => ?_, ?_⟩
  · cases p <;> simp_all [Part.same, settle]
  · rw [settle_getW, risenRegs_out _ _ _ ha]; rfl
  · obtain ⟨k, hk, e⟩ := hw (evtAddr page)
    simp only [State.pend, e, (pend_or_small _ k bit hk).1 h1 h2]
  · obtain ⟨k, hk, e⟩ := hw (evtAddr page)
    have h2 := (pend_or_small (s1.getW (evtAddr page)) k bit hk).2
    simp only [State.pend, e, beq_iff_eq] at h ⊢
    have : bitN (s1.getW (evtAddr page) ||| BitVec.ofNat 32 k).toNat bit < 2 := Nat.mod_lt _ (by decide)
    omega
  · refine ⟨_, rfl, ?_⟩
    simp [pinChanges, State.msixMsg, Emit.follows]

/-- What a reset changes at the pins follows it in the same cycle. -/
theorem settled_pins (s0 t : State) : Settled t { t with outs := (pinChanges s0 t).reverse ++ t.outs } := by
  refine ⟨fun p hp => ?_, rfl, fun a _ => rfl, fun _ _ _ _ => rfl, fun _ _ h => h, _, rfl, ?_⟩
  · cases p <;> simp_all [Part.same]
  · simp [pinChanges, Emit.follows]

/-- A command's end where no host write waits after it. -/
theorem settled_finish (s0 s1 : State) (h : s1.fab.hostWait = []) : Settled s1 (finish s0 s1) := by
  unfold finish
  simp only [h, List.isEmpty_nil, if_true]
  split
  · exact settled_pins s0 s1
  · exact settled_settle s0 s1

/-- A meaning that ends with `done` completes, where no host write waits after it. -/
theorem completes_done {c : Instr} {s t : State} {P : State → Prop} (hc : exec c s = done s t) (hq : t.fab.hostWait = []) (hp : P t) :
    Completes c s P := ⟨t, finish s t, hc, settled_finish s t hq, hp⟩

end Sys2Proof.Machine
end

