-- ==== Sys2Proof/Laws/State.lean ====
section
/-! SUPPORT. One lemma per field and per named update of the state, so that no proof unfolds a record update; and what a register word,
a field or a unit reads as after each update. -/

namespace Sys2Proof.Machine


/-! `State.setW`. -/

@[simp] theorem State.setW_pending (s : State) (a : Nat) (v : Word) : (s.setW a v).pending = s.pending := rfl
@[simp] theorem State.setW_outs (s : State) (a : Nat) (v : Word) : (s.setW a v).outs = s.outs := rfl
@[simp] theorem State.setW_freeCtr (s : State) (a : Nat) (v : Word) : (s.setW a v).freeCtr = s.freeCtr := rfl
@[simp] theorem State.setW_clk (s : State) (a : Nat) (v : Word) : (s.setW a v).clk = s.clk := rfl
@[simp] theorem State.setW_tl (s : State) (a : Nat) (v : Word) : (s.setW a v).tl = s.tl := rfl
@[simp] theorem State.setW_smp (s : State) (a : Nat) (v : Word) : (s.setW a v).smp = s.smp := rfl
@[simp] theorem State.setW_tlOfs (s : State) (a : Nat) (v : Word) : (s.setW a v).tlOfs = s.tlOfs := rfl
@[simp] theorem State.setW_bndDue (s : State) (a : Nat) (v : Word) : (s.setW a v).bndDue = s.bndDue := rfl
@[simp] theorem State.setW_mode (s : State) (a : Nat) (v : Word) : (s.setW a v).mode = s.mode := rfl
@[simp] theorem State.setW_inForce (s : State) (a : Nat) (v : Word) : (s.setW a v).inForce = s.inForce := rfl
@[simp] theorem State.setW_host (s : State) (a : Nat) (v : Word) : (s.setW a v).host = s.host := rfl
@[simp] theorem State.setW_elog (s : State) (a : Nat) (v : Word) : (s.setW a v).elog = s.elog := rfl
@[simp] theorem State.setW_elogSeq (s : State) (a : Nat) (v : Word) : (s.setW a v).elogSeq = s.elogSeq := rfl
@[simp] theorem State.setW_slots (s : State) (a : Nat) (v : Word) : (s.setW a v).slots = s.slots := rfl
@[simp] theorem State.setW_dev (s : State) (a : Nat) (v : Word) : (s.setW a v).dev = s.dev := rfl
@[simp] theorem State.setW_active (s : State) (a : Nat) (v : Word) : (s.setW a v).active = s.active := rfl
@[simp] theorem State.setW_latent (s : State) (a : Nat) (v : Word) : (s.setW a v).latent = s.latent := rfl
@[simp] theorem State.setW_shm (s : State) (a : Nat) (v : Word) : (s.setW a v).shm = s.shm := rfl
@[simp] theorem State.setW_hens (s : State) (a : Nat) (v : Word) : (s.setW a v).hens = s.hens := rfl
@[simp] theorem State.setW_jobs (s : State) (a : Nat) (v : Word) : (s.setW a v).jobs = s.jobs := rfl
@[simp] theorem State.setW_audio (s : State) (a : Nat) (v : Word) : (s.setW a v).audio = s.audio := rfl
@[simp] theorem State.setW_ptp (s : State) (a : Nat) (v : Word) : (s.setW a v).ptp = s.ptp := rfl
@[simp] theorem State.setW_ref (s : State) (a : Nat) (v : Word) : (s.setW a v).ref = s.ref := rfl
@[simp] theorem State.setW_eth (s : State) (a : Nat) (v : Word) : (s.setW a v).eth = s.eth := rfl
@[simp] theorem State.setW_str (s : State) (a : Nat) (v : Word) : (s.setW a v).str = s.str := rfl
@[simp] theorem State.setW_psm (s : State) (a : Nat) (v : Word) : (s.setW a v).psm = s.psm := rfl
@[simp] theorem State.setW_twin (s : State) (a : Nat) (v : Word) : (s.setW a v).twin = s.twin := rfl
@[simp] theorem State.setW_fab (s : State) (a : Nat) (v : Word) : (s.setW a v).fab = s.fab := rfl
@[simp] theorem State.setW_rails (s : State) (a : Nat) (v : Word) : (s.setW a v).rails = s.rails := rfl
@[simp] theorem State.setW_pwr (s : State) (a : Nat) (v : Word) : (s.setW a v).pwr = s.pwr := rfl
@[simp] theorem State.setW_lp (s : State) (a : Nat) (v : Word) : (s.setW a v).lp = s.lp := rfl

/-! `State.wr`. -/

@[simp] theorem State.wr_pending (s : State) (f : RField) (v : Nat) : (s.wr f v).pending = s.pending := rfl
@[simp] theorem State.wr_outs (s : State) (f : RField) (v : Nat) : (s.wr f v).outs = s.outs := rfl
@[simp] theorem State.wr_freeCtr (s : State) (f : RField) (v : Nat) : (s.wr f v).freeCtr = s.freeCtr := rfl
@[simp] theorem State.wr_clk (s : State) (f : RField) (v : Nat) : (s.wr f v).clk = s.clk := rfl
@[simp] theorem State.wr_tl (s : State) (f : RField) (v : Nat) : (s.wr f v).tl = s.tl := rfl
@[simp] theorem State.wr_smp (s : State) (f : RField) (v : Nat) : (s.wr f v).smp = s.smp := rfl
@[simp] theorem State.wr_tlOfs (s : State) (f : RField) (v : Nat) : (s.wr f v).tlOfs = s.tlOfs := rfl
@[simp] theorem State.wr_bndDue (s : State) (f : RField) (v : Nat) : (s.wr f v).bndDue = s.bndDue := rfl
@[simp] theorem State.wr_mode (s : State) (f : RField) (v : Nat) : (s.wr f v).mode = s.mode := rfl
@[simp] theorem State.wr_inForce (s : State) (f : RField) (v : Nat) : (s.wr f v).inForce = s.inForce := rfl
@[simp] theorem State.wr_host (s : State) (f : RField) (v : Nat) : (s.wr f v).host = s.host := rfl
@[simp] theorem State.wr_elog (s : State) (f : RField) (v : Nat) : (s.wr f v).elog = s.elog := rfl
@[simp] theorem State.wr_elogSeq (s : State) (f : RField) (v : Nat) : (s.wr f v).elogSeq = s.elogSeq := rfl
@[simp] theorem State.wr_slots (s : State) (f : RField) (v : Nat) : (s.wr f v).slots = s.slots := rfl
@[simp] theorem State.wr_dev (s : State) (f : RField) (v : Nat) : (s.wr f v).dev = s.dev := rfl
@[simp] theorem State.wr_active (s : State) (f : RField) (v : Nat) : (s.wr f v).active = s.active := rfl
@[simp] theorem State.wr_latent (s : State) (f : RField) (v : Nat) : (s.wr f v).latent = s.latent := rfl
@[simp] theorem State.wr_shm (s : State) (f : RField) (v : Nat) : (s.wr f v).shm = s.shm := rfl
@[simp] theorem State.wr_hens (s : State) (f : RField) (v : Nat) : (s.wr f v).hens = s.hens := rfl
@[simp] theorem State.wr_jobs (s : State) (f : RField) (v : Nat) : (s.wr f v).jobs = s.jobs := rfl
@[simp] theorem State.wr_audio (s : State) (f : RField) (v : Nat) : (s.wr f v).audio = s.audio := rfl
@[simp] theorem State.wr_ptp (s : State) (f : RField) (v : Nat) : (s.wr f v).ptp = s.ptp := rfl
@[simp] theorem State.wr_ref (s : State) (f : RField) (v : Nat) : (s.wr f v).ref = s.ref := rfl
@[simp] theorem State.wr_eth (s : State) (f : RField) (v : Nat) : (s.wr f v).eth = s.eth := rfl
@[simp] theorem State.wr_str (s : State) (f : RField) (v : Nat) : (s.wr f v).str = s.str := rfl
@[simp] theorem State.wr_psm (s : State) (f : RField) (v : Nat) : (s.wr f v).psm = s.psm := rfl
@[simp] theorem State.wr_twin (s : State) (f : RField) (v : Nat) : (s.wr f v).twin = s.twin := rfl
@[simp] theorem State.wr_fab (s : State) (f : RField) (v : Nat) : (s.wr f v).fab = s.fab := rfl
@[simp] theorem State.wr_rails (s : State) (f : RField) (v : Nat) : (s.wr f v).rails = s.rails := rfl
@[simp] theorem State.wr_pwr (s : State) (f : RField) (v : Nat) : (s.wr f v).pwr = s.pwr := rfl
@[simp] theorem State.wr_lp (s : State) (f : RField) (v : Nat) : (s.wr f v).lp = s.lp := rfl

/-! `State.wrB`. -/

@[simp] theorem State.wrB_pending (s : State) (f : RField) (b : Bool) : (s.wrB f b).pending = s.pending := State.wr_pending s _ _
@[simp] theorem State.wrB_outs (s : State) (f : RField) (b : Bool) : (s.wrB f b).outs = s.outs := State.wr_outs s _ _
@[simp] theorem State.wrB_freeCtr (s : State) (f : RField) (b : Bool) : (s.wrB f b).freeCtr = s.freeCtr := State.wr_freeCtr s _ _
@[simp] theorem State.wrB_clk (s : State) (f : RField) (b : Bool) : (s.wrB f b).clk = s.clk := State.wr_clk s _ _
@[simp] theorem State.wrB_tl (s : State) (f : RField) (b : Bool) : (s.wrB f b).tl = s.tl := State.wr_tl s _ _
@[simp] theorem State.wrB_smp (s : State) (f : RField) (b : Bool) : (s.wrB f b).smp = s.smp := State.wr_smp s _ _
@[simp] theorem State.wrB_tlOfs (s : State) (f : RField) (b : Bool) : (s.wrB f b).tlOfs = s.tlOfs := State.wr_tlOfs s _ _
@[simp] theorem State.wrB_bndDue (s : State) (f : RField) (b : Bool) : (s.wrB f b).bndDue = s.bndDue := State.wr_bndDue s _ _
@[simp] theorem State.wrB_mode (s : State) (f : RField) (b : Bool) : (s.wrB f b).mode = s.mode := State.wr_mode s _ _
@[simp] theorem State.wrB_inForce (s : State) (f : RField) (b : Bool) : (s.wrB f b).inForce = s.inForce := State.wr_inForce s _ _
@[simp] theorem State.wrB_host (s : State) (f : RField) (b : Bool) : (s.wrB f b).host = s.host := State.wr_host s _ _
@[simp] theorem State.wrB_elog (s : State) (f : RField) (b : Bool) : (s.wrB f b).elog = s.elog := State.wr_elog s _ _
@[simp] theorem State.wrB_elogSeq (s : State) (f : RField) (b : Bool) : (s.wrB f b).elogSeq = s.elogSeq := State.wr_elogSeq s _ _
@[simp] theorem State.wrB_slots (s : State) (f : RField) (b : Bool) : (s.wrB f b).slots = s.slots := State.wr_slots s _ _
@[simp] theorem State.wrB_dev (s : State) (f : RField) (b : Bool) : (s.wrB f b).dev = s.dev := State.wr_dev s _ _
@[simp] theorem State.wrB_active (s : State) (f : RField) (b : Bool) : (s.wrB f b).active = s.active := State.wr_active s _ _
@[simp] theorem State.wrB_latent (s : State) (f : RField) (b : Bool) : (s.wrB f b).latent = s.latent := State.wr_latent s _ _
@[simp] theorem State.wrB_shm (s : State) (f : RField) (b : Bool) : (s.wrB f b).shm = s.shm := State.wr_shm s _ _
@[simp] theorem State.wrB_hens (s : State) (f : RField) (b : Bool) : (s.wrB f b).hens = s.hens := State.wr_hens s _ _
@[simp] theorem State.wrB_jobs (s : State) (f : RField) (b : Bool) : (s.wrB f b).jobs = s.jobs := State.wr_jobs s _ _
@[simp] theorem State.wrB_audio (s : State) (f : RField) (b : Bool) : (s.wrB f b).audio = s.audio := State.wr_audio s _ _
@[simp] theorem State.wrB_ptp (s : State) (f : RField) (b : Bool) : (s.wrB f b).ptp = s.ptp := State.wr_ptp s _ _
@[simp] theorem State.wrB_ref (s : State) (f : RField) (b : Bool) : (s.wrB f b).ref = s.ref := State.wr_ref s _ _
@[simp] theorem State.wrB_eth (s : State) (f : RField) (b : Bool) : (s.wrB f b).eth = s.eth := State.wr_eth s _ _
@[simp] theorem State.wrB_str (s : State) (f : RField) (b : Bool) : (s.wrB f b).str = s.str := State.wr_str s _ _
@[simp] theorem State.wrB_psm (s : State) (f : RField) (b : Bool) : (s.wrB f b).psm = s.psm := State.wr_psm s _ _
@[simp] theorem State.wrB_twin (s : State) (f : RField) (b : Bool) : (s.wrB f b).twin = s.twin := State.wr_twin s _ _
@[simp] theorem State.wrB_fab (s : State) (f : RField) (b : Bool) : (s.wrB f b).fab = s.fab := State.wr_fab s _ _
@[simp] theorem State.wrB_rails (s : State) (f : RField) (b : Bool) : (s.wrB f b).rails = s.rails := State.wr_rails s _ _
@[simp] theorem State.wrB_pwr (s : State) (f : RField) (b : Bool) : (s.wrB f b).pwr = s.pwr := State.wr_pwr s _ _
@[simp] theorem State.wrB_lp (s : State) (f : RField) (b : Bool) : (s.wrB f b).lp = s.lp := State.wr_lp s _ _

/-! `State.setEnable`. -/

@[simp] theorem State.setEnable_pending (s : State) (page : Nat) (b : Bool) : (s.setEnable page b).pending = s.pending := State.wr_pending s _ _
@[simp] theorem State.setEnable_outs (s : State) (page : Nat) (b : Bool) : (s.setEnable page b).outs = s.outs := State.wr_outs s _ _
@[simp] theorem State.setEnable_freeCtr (s : State) (page : Nat) (b : Bool) : (s.setEnable page b).freeCtr = s.freeCtr := State.wr_freeCtr s _ _
@[simp] theorem State.setEnable_clk (s : State) (page : Nat) (b : Bool) : (s.setEnable page b).clk = s.clk := State.wr_clk s _ _
@[simp] theorem State.setEnable_tl (s : State) (page : Nat) (b : Bool) : (s.setEnable page b).tl = s.tl := State.wr_tl s _ _
@[simp] theorem State.setEnable_smp (s : State) (page : Nat) (b : Bool) : (s.setEnable page b).smp = s.smp := State.wr_smp s _ _
@[simp] theorem State.setEnable_tlOfs (s : State) (page : Nat) (b : Bool) : (s.setEnable page b).tlOfs = s.tlOfs := State.wr_tlOfs s _ _
@[simp] theorem State.setEnable_bndDue (s : State) (page : Nat) (b : Bool) : (s.setEnable page b).bndDue = s.bndDue := State.wr_bndDue s _ _
@[simp] theorem State.setEnable_mode (s : State) (page : Nat) (b : Bool) : (s.setEnable page b).mode = s.mode := State.wr_mode s _ _
@[simp] theorem State.setEnable_inForce (s : State) (page : Nat) (b : Bool) : (s.setEnable page b).inForce = s.inForce := State.wr_inForce s _ _
@[simp] theorem State.setEnable_host (s : State) (page : Nat) (b : Bool) : (s.setEnable page b).host = s.host := State.wr_host s _ _
@[simp] theorem State.setEnable_elog (s : State) (page : Nat) (b : Bool) : (s.setEnable page b).elog = s.elog := State.wr_elog s _ _
@[simp] theorem State.setEnable_elogSeq (s : State) (page : Nat) (b : Bool) : (s.setEnable page b).elogSeq = s.elogSeq := State.wr_elogSeq s _ _
@[simp] theorem State.setEnable_slots (s : State) (page : Nat) (b : Bool) : (s.setEnable page b).slots = s.slots := State.wr_slots s _ _
@[simp] theorem State.setEnable_dev (s : State) (page : Nat) (b : Bool) : (s.setEnable page b).dev = s.dev := State.wr_dev s _ _
@[simp] theorem State.setEnable_active (s : State) (page : Nat) (b : Bool) : (s.setEnable page b).active = s.active := State.wr_active s _ _
@[simp] theorem State.setEnable_latent (s : State) (page : Nat) (b : Bool) : (s.setEnable page b).latent = s.latent := State.wr_latent s _ _
@[simp] theorem State.setEnable_shm (s : State) (page : Nat) (b : Bool) : (s.setEnable page b).shm = s.shm := State.wr_shm s _ _
@[simp] theorem State.setEnable_hens (s : State) (page : Nat) (b : Bool) : (s.setEnable page b).hens = s.hens := State.wr_hens s _ _
@[simp] theorem State.setEnable_jobs (s : State) (page : Nat) (b : Bool) : (s.setEnable page b).jobs = s.jobs := State.wr_jobs s _ _
@[simp] theorem State.setEnable_audio (s : State) (page : Nat) (b : Bool) : (s.setEnable page b).audio = s.audio := State.wr_audio s _ _
@[simp] theorem State.setEnable_ptp (s : State) (page : Nat) (b : Bool) : (s.setEnable page b).ptp = s.ptp := State.wr_ptp s _ _
@[simp] theorem State.setEnable_ref (s : State) (page : Nat) (b : Bool) : (s.setEnable page b).ref = s.ref := State.wr_ref s _ _
@[simp] theorem State.setEnable_eth (s : State) (page : Nat) (b : Bool) : (s.setEnable page b).eth = s.eth := State.wr_eth s _ _
@[simp] theorem State.setEnable_str (s : State) (page : Nat) (b : Bool) : (s.setEnable page b).str = s.str := State.wr_str s _ _
@[simp] theorem State.setEnable_psm (s : State) (page : Nat) (b : Bool) : (s.setEnable page b).psm = s.psm := State.wr_psm s _ _
@[simp] theorem State.setEnable_twin (s : State) (page : Nat) (b : Bool) : (s.setEnable page b).twin = s.twin := State.wr_twin s _ _
@[simp] theorem State.setEnable_fab (s : State) (page : Nat) (b : Bool) : (s.setEnable page b).fab = s.fab := State.wr_fab s _ _
@[simp] theorem State.setEnable_rails (s : State) (page : Nat) (b : Bool) : (s.setEnable page b).rails = s.rails := State.wr_rails s _ _
@[simp] theorem State.setEnable_pwr (s : State) (page : Nat) (b : Bool) : (s.setEnable page b).pwr = s.pwr := State.wr_pwr s _ _
@[simp] theorem State.setEnable_lp (s : State) (page : Nat) (b : Bool) : (s.setEnable page b).lp = s.lp := State.wr_lp s _ _

/-! `State.raise`. -/

@[simp] theorem State.raise_pending (s : State) (page bit : Nat) : (s.raise page bit).pending = s.pending := State.wr_pending s _ _
@[simp] theorem State.raise_outs (s : State) (page bit : Nat) : (s.raise page bit).outs = s.outs := State.wr_outs s _ _
@[simp] theorem State.raise_freeCtr (s : State) (page bit : Nat) : (s.raise page bit).freeCtr = s.freeCtr := State.wr_freeCtr s _ _
@[simp] theorem State.raise_clk (s : State) (page bit : Nat) : (s.raise page bit).clk = s.clk := State.wr_clk s _ _
@[simp] theorem State.raise_tl (s : State) (page bit : Nat) : (s.raise page bit).tl = s.tl := State.wr_tl s _ _
@[simp] theorem State.raise_smp (s : State) (page bit : Nat) : (s.raise page bit).smp = s.smp := State.wr_smp s _ _
@[simp] theorem State.raise_tlOfs (s : State) (page bit : Nat) : (s.raise page bit).tlOfs = s.tlOfs := State.wr_tlOfs s _ _
@[simp] theorem State.raise_bndDue (s : State) (page bit : Nat) : (s.raise page bit).bndDue = s.bndDue := State.wr_bndDue s _ _
@[simp] theorem State.raise_mode (s : State) (page bit : Nat) : (s.raise page bit).mode = s.mode := State.wr_mode s _ _
@[simp] theorem State.raise_inForce (s : State) (page bit : Nat) : (s.raise page bit).inForce = s.inForce := State.wr_inForce s _ _
@[simp] theorem State.raise_host (s : State) (page bit : Nat) : (s.raise page bit).host = s.host := State.wr_host s _ _
@[simp] theorem State.raise_elog (s : State) (page bit : Nat) : (s.raise page bit).elog = s.elog := State.wr_elog s _ _
@[simp] theorem State.raise_elogSeq (s : State) (page bit : Nat) : (s.raise page bit).elogSeq = s.elogSeq := State.wr_elogSeq s _ _
@[simp] theorem State.raise_slots (s : State) (page bit : Nat) : (s.raise page bit).slots = s.slots := State.wr_slots s _ _
@[simp] theorem State.raise_dev (s : State) (page bit : Nat) : (s.raise page bit).dev = s.dev := State.wr_dev s _ _
@[simp] theorem State.raise_active (s : State) (page bit : Nat) : (s.raise page bit).active = s.active := State.wr_active s _ _
@[simp] theorem State.raise_latent (s : State) (page bit : Nat) : (s.raise page bit).latent = s.latent := State.wr_latent s _ _
@[simp] theorem State.raise_shm (s : State) (page bit : Nat) : (s.raise page bit).shm = s.shm := State.wr_shm s _ _
@[simp] theorem State.raise_hens (s : State) (page bit : Nat) : (s.raise page bit).hens = s.hens := State.wr_hens s _ _
@[simp] theorem State.raise_jobs (s : State) (page bit : Nat) : (s.raise page bit).jobs = s.jobs := State.wr_jobs s _ _
@[simp] theorem State.raise_audio (s : State) (page bit : Nat) : (s.raise page bit).audio = s.audio := State.wr_audio s _ _
@[simp] theorem State.raise_ptp (s : State) (page bit : Nat) : (s.raise page bit).ptp = s.ptp := State.wr_ptp s _ _
@[simp] theorem State.raise_ref (s : State) (page bit : Nat) : (s.raise page bit).ref = s.ref := State.wr_ref s _ _
@[simp] theorem State.raise_eth (s : State) (page bit : Nat) : (s.raise page bit).eth = s.eth := State.wr_eth s _ _
@[simp] theorem State.raise_str (s : State) (page bit : Nat) : (s.raise page bit).str = s.str := State.wr_str s _ _
@[simp] theorem State.raise_psm (s : State) (page bit : Nat) : (s.raise page bit).psm = s.psm := State.wr_psm s _ _
@[simp] theorem State.raise_twin (s : State) (page bit : Nat) : (s.raise page bit).twin = s.twin := State.wr_twin s _ _
@[simp] theorem State.raise_fab (s : State) (page bit : Nat) : (s.raise page bit).fab = s.fab := State.wr_fab s _ _
@[simp] theorem State.raise_rails (s : State) (page bit : Nat) : (s.raise page bit).rails = s.rails := State.wr_rails s _ _
@[simp] theorem State.raise_pwr (s : State) (page bit : Nat) : (s.raise page bit).pwr = s.pwr := State.wr_pwr s _ _
@[simp] theorem State.raise_lp (s : State) (page bit : Nat) : (s.raise page bit).lp = s.lp := State.wr_lp s _ _

/-! `State.emit`. -/

@[simp] theorem State.emit_pending (s : State) (e : Emit) : (s.emit e).pending = s.pending := rfl
@[simp] theorem State.emit_freeCtr (s : State) (e : Emit) : (s.emit e).freeCtr = s.freeCtr := rfl
@[simp] theorem State.emit_clk (s : State) (e : Emit) : (s.emit e).clk = s.clk := rfl
@[simp] theorem State.emit_tl (s : State) (e : Emit) : (s.emit e).tl = s.tl := rfl
@[simp] theorem State.emit_smp (s : State) (e : Emit) : (s.emit e).smp = s.smp := rfl
@[simp] theorem State.emit_tlOfs (s : State) (e : Emit) : (s.emit e).tlOfs = s.tlOfs := rfl
@[simp] theorem State.emit_bndDue (s : State) (e : Emit) : (s.emit e).bndDue = s.bndDue := rfl
@[simp] theorem State.emit_mode (s : State) (e : Emit) : (s.emit e).mode = s.mode := rfl
@[simp] theorem State.emit_regs (s : State) (e : Emit) : (s.emit e).regs = s.regs := rfl
@[simp] theorem State.emit_inForce (s : State) (e : Emit) : (s.emit e).inForce = s.inForce := rfl
@[simp] theorem State.emit_host (s : State) (e : Emit) : (s.emit e).host = s.host := rfl
@[simp] theorem State.emit_elog (s : State) (e : Emit) : (s.emit e).elog = s.elog := rfl
@[simp] theorem State.emit_elogSeq (s : State) (e : Emit) : (s.emit e).elogSeq = s.elogSeq := rfl
@[simp] theorem State.emit_slots (s : State) (e : Emit) : (s.emit e).slots = s.slots := rfl
@[simp] theorem State.emit_dev (s : State) (e : Emit) : (s.emit e).dev = s.dev := rfl
@[simp] theorem State.emit_active (s : State) (e : Emit) : (s.emit e).active = s.active := rfl
@[simp] theorem State.emit_latent (s : State) (e : Emit) : (s.emit e).latent = s.latent := rfl
@[simp] theorem State.emit_shm (s : State) (e : Emit) : (s.emit e).shm = s.shm := rfl
@[simp] theorem State.emit_hens (s : State) (e : Emit) : (s.emit e).hens = s.hens := rfl
@[simp] theorem State.emit_jobs (s : State) (e : Emit) : (s.emit e).jobs = s.jobs := rfl
@[simp] theorem State.emit_audio (s : State) (e : Emit) : (s.emit e).audio = s.audio := rfl
@[simp] theorem State.emit_ptp (s : State) (e : Emit) : (s.emit e).ptp = s.ptp := rfl
@[simp] theorem State.emit_ref (s : State) (e : Emit) : (s.emit e).ref = s.ref := rfl
@[simp] theorem State.emit_eth (s : State) (e : Emit) : (s.emit e).eth = s.eth := rfl
@[simp] theorem State.emit_str (s : State) (e : Emit) : (s.emit e).str = s.str := rfl
@[simp] theorem State.emit_psm (s : State) (e : Emit) : (s.emit e).psm = s.psm := rfl
@[simp] theorem State.emit_twin (s : State) (e : Emit) : (s.emit e).twin = s.twin := rfl
@[simp] theorem State.emit_fab (s : State) (e : Emit) : (s.emit e).fab = s.fab := rfl
@[simp] theorem State.emit_rails (s : State) (e : Emit) : (s.emit e).rails = s.rails := rfl
@[simp] theorem State.emit_pwr (s : State) (e : Emit) : (s.emit e).pwr = s.pwr := rfl
@[simp] theorem State.emit_lp (s : State) (e : Emit) : (s.emit e).lp = s.lp := rfl
@[simp] theorem State.emit_getW (s : State) (e : Emit) (w : Nat) : (s.emit e).getW w = s.getW w := by simp [State.getW]
@[simp] theorem State.emit_rd (s : State) (e : Emit) (fl : RField) : (s.emit e).rd fl = s.rd fl := by simp [State.rd]
@[simp] theorem State.emit_on (s : State) (e : Emit) (fl : RField) : (s.emit e).on fl = s.on fl := by simp [State.on]
@[simp] theorem State.emit_pend (s : State) (e : Emit) (pg bt : Nat) : (s.emit e).pend pg bt = s.pend pg bt := by simp [State.pend]

/-! `State.tick1`. -/

@[simp] theorem State.tick1_pending (s : State) : (s.tick1).pending = s.pending := rfl
@[simp] theorem State.tick1_outs (s : State) : (s.tick1).outs = s.outs := rfl
@[simp] theorem State.tick1_clk (s : State) : (s.tick1).clk = s.clk := rfl
@[simp] theorem State.tick1_tl (s : State) : (s.tick1).tl = s.tl := rfl
@[simp] theorem State.tick1_smp (s : State) : (s.tick1).smp = s.smp := rfl
@[simp] theorem State.tick1_tlOfs (s : State) : (s.tick1).tlOfs = s.tlOfs := rfl
@[simp] theorem State.tick1_bndDue (s : State) : (s.tick1).bndDue = s.bndDue := rfl
@[simp] theorem State.tick1_mode (s : State) : (s.tick1).mode = s.mode := rfl
@[simp] theorem State.tick1_regs (s : State) : (s.tick1).regs = s.regs := rfl
@[simp] theorem State.tick1_inForce (s : State) : (s.tick1).inForce = s.inForce := rfl
@[simp] theorem State.tick1_host (s : State) : (s.tick1).host = s.host := rfl
@[simp] theorem State.tick1_elog (s : State) : (s.tick1).elog = s.elog := rfl
@[simp] theorem State.tick1_elogSeq (s : State) : (s.tick1).elogSeq = s.elogSeq := rfl
@[simp] theorem State.tick1_slots (s : State) : (s.tick1).slots = s.slots := rfl
@[simp] theorem State.tick1_dev (s : State) : (s.tick1).dev = s.dev := rfl
@[simp] theorem State.tick1_active (s : State) : (s.tick1).active = s.active := rfl
@[simp] theorem State.tick1_latent (s : State) : (s.tick1).latent = s.latent := rfl
@[simp] theorem State.tick1_shm (s : State) : (s.tick1).shm = s.shm := rfl
@[simp] theorem State.tick1_hens (s : State) : (s.tick1).hens = s.hens := rfl
@[simp] theorem State.tick1_jobs (s : State) : (s.tick1).jobs = s.jobs := rfl
@[simp] theorem State.tick1_audio (s : State) : (s.tick1).audio = s.audio := rfl
@[simp] theorem State.tick1_ptp (s : State) : (s.tick1).ptp = s.ptp := rfl
@[simp] theorem State.tick1_ref (s : State) : (s.tick1).ref = s.ref := rfl
@[simp] theorem State.tick1_eth (s : State) : (s.tick1).eth = s.eth := rfl
@[simp] theorem State.tick1_str (s : State) : (s.tick1).str = s.str := rfl
@[simp] theorem State.tick1_psm (s : State) : (s.tick1).psm = s.psm := rfl
@[simp] theorem State.tick1_twin (s : State) : (s.tick1).twin = s.twin := rfl
@[simp] theorem State.tick1_fab (s : State) : (s.tick1).fab = s.fab := rfl
@[simp] theorem State.tick1_rails (s : State) : (s.tick1).rails = s.rails := rfl
@[simp] theorem State.tick1_pwr (s : State) : (s.tick1).pwr = s.pwr := rfl
@[simp] theorem State.tick1_lp (s : State) : (s.tick1).lp = s.lp := rfl
@[simp] theorem State.tick1_getW (s : State) (w : Nat) : (s.tick1).getW w = s.getW w := by simp [State.getW]
@[simp] theorem State.tick1_rd (s : State) (fl : RField) : (s.tick1).rd fl = s.rd fl := by simp [State.rd]
@[simp] theorem State.tick1_on (s : State) (fl : RField) : (s.tick1).on fl = s.on fl := by simp [State.on]
@[simp] theorem State.tick1_pend (s : State) (pg bt : Nat) : (s.tick1).pend pg bt = s.pend pg bt := by simp [State.pend]

/-! `State.setOfs`. -/

@[simp] theorem State.setOfs_pending (s : State) (v : Int) : (s.setOfs v).pending = s.pending := rfl
@[simp] theorem State.setOfs_outs (s : State) (v : Int) : (s.setOfs v).outs = s.outs := rfl
@[simp] theorem State.setOfs_freeCtr (s : State) (v : Int) : (s.setOfs v).freeCtr = s.freeCtr := rfl
@[simp] theorem State.setOfs_clk (s : State) (v : Int) : (s.setOfs v).clk = s.clk := rfl
@[simp] theorem State.setOfs_tl (s : State) (v : Int) : (s.setOfs v).tl = s.tl := rfl
@[simp] theorem State.setOfs_smp (s : State) (v : Int) : (s.setOfs v).smp = s.smp := rfl
@[simp] theorem State.setOfs_bndDue (s : State) (v : Int) : (s.setOfs v).bndDue = s.bndDue := rfl
@[simp] theorem State.setOfs_mode (s : State) (v : Int) : (s.setOfs v).mode = s.mode := rfl
@[simp] theorem State.setOfs_regs (s : State) (v : Int) : (s.setOfs v).regs = s.regs := rfl
@[simp] theorem State.setOfs_inForce (s : State) (v : Int) : (s.setOfs v).inForce = s.inForce := rfl
@[simp] theorem State.setOfs_host (s : State) (v : Int) : (s.setOfs v).host = s.host := rfl
@[simp] theorem State.setOfs_elog (s : State) (v : Int) : (s.setOfs v).elog = s.elog := rfl
@[simp] theorem State.setOfs_elogSeq (s : State) (v : Int) : (s.setOfs v).elogSeq = s.elogSeq := rfl
@[simp] theorem State.setOfs_slots (s : State) (v : Int) : (s.setOfs v).slots = s.slots := rfl
@[simp] theorem State.setOfs_dev (s : State) (v : Int) : (s.setOfs v).dev = s.dev := rfl
@[simp] theorem State.setOfs_active (s : State) (v : Int) : (s.setOfs v).active = s.active := rfl
@[simp] theorem State.setOfs_latent (s : State) (v : Int) : (s.setOfs v).latent = s.latent := rfl
@[simp] theorem State.setOfs_shm (s : State) (v : Int) : (s.setOfs v).shm = s.shm := rfl
@[simp] theorem State.setOfs_hens (s : State) (v : Int) : (s.setOfs v).hens = s.hens := rfl
@[simp] theorem State.setOfs_jobs (s : State) (v : Int) : (s.setOfs v).jobs = s.jobs := rfl
@[simp] theorem State.setOfs_audio (s : State) (v : Int) : (s.setOfs v).audio = s.audio := rfl
@[simp] theorem State.setOfs_ptp (s : State) (v : Int) : (s.setOfs v).ptp = s.ptp := rfl
@[simp] theorem State.setOfs_ref (s : State) (v : Int) : (s.setOfs v).ref = s.ref := rfl
@[simp] theorem State.setOfs_eth (s : State) (v : Int) : (s.setOfs v).eth = s.eth := rfl
@[simp] theorem State.setOfs_psm (s : State) (v : Int) : (s.setOfs v).psm = s.psm := rfl
@[simp] theorem State.setOfs_twin (s : State) (v : Int) : (s.setOfs v).twin = s.twin := rfl
@[simp] theorem State.setOfs_fab (s : State) (v : Int) : (s.setOfs v).fab = s.fab := rfl
@[simp] theorem State.setOfs_rails (s : State) (v : Int) : (s.setOfs v).rails = s.rails := rfl
@[simp] theorem State.setOfs_pwr (s : State) (v : Int) : (s.setOfs v).pwr = s.pwr := rfl
@[simp] theorem State.setOfs_lp (s : State) (v : Int) : (s.setOfs v).lp = s.lp := rfl
@[simp] theorem State.setOfs_getW (s : State) (v : Int) (w : Nat) : (s.setOfs v).getW w = s.getW w := by simp [State.getW]
@[simp] theorem State.setOfs_rd (s : State) (v : Int) (fl : RField) : (s.setOfs v).rd fl = s.rd fl := by simp [State.rd]
@[simp] theorem State.setOfs_on (s : State) (v : Int) (fl : RField) : (s.setOfs v).on fl = s.on fl := by simp [State.on]
@[simp] theorem State.setOfs_pend (s : State) (v : Int) (pg bt : Nat) : (s.setOfs v).pend pg bt = s.pend pg bt := by simp [State.pend]

/-! `State.setKey`. -/

@[simp] theorem State.setKey_pending (s : State) (page : Nat) (k : Option PageKey) : (s.setKey page k).pending = s.pending := rfl
@[simp] theorem State.setKey_outs (s : State) (page : Nat) (k : Option PageKey) : (s.setKey page k).outs = s.outs := rfl
@[simp] theorem State.setKey_freeCtr (s : State) (page : Nat) (k : Option PageKey) : (s.setKey page k).freeCtr = s.freeCtr := rfl
@[simp] theorem State.setKey_clk (s : State) (page : Nat) (k : Option PageKey) : (s.setKey page k).clk = s.clk := rfl
@[simp] theorem State.setKey_tl (s : State) (page : Nat) (k : Option PageKey) : (s.setKey page k).tl = s.tl := rfl
@[simp] theorem State.setKey_smp (s : State) (page : Nat) (k : Option PageKey) : (s.setKey page k).smp = s.smp := rfl
@[simp] theorem State.setKey_tlOfs (s : State) (page : Nat) (k : Option PageKey) : (s.setKey page k).tlOfs = s.tlOfs := rfl
@[simp] theorem State.setKey_bndDue (s : State) (page : Nat) (k : Option PageKey) : (s.setKey page k).bndDue = s.bndDue := rfl
@[simp] theorem State.setKey_mode (s : State) (page : Nat) (k : Option PageKey) : (s.setKey page k).mode = s.mode := rfl
@[simp] theorem State.setKey_regs (s : State) (page : Nat) (k : Option PageKey) : (s.setKey page k).regs = s.regs := rfl
@[simp] theorem State.setKey_inForce (s : State) (page : Nat) (k : Option PageKey) : (s.setKey page k).inForce = s.inForce := rfl
@[simp] theorem State.setKey_elog (s : State) (page : Nat) (k : Option PageKey) : (s.setKey page k).elog = s.elog := rfl
@[simp] theorem State.setKey_elogSeq (s : State) (page : Nat) (k : Option PageKey) : (s.setKey page k).elogSeq = s.elogSeq := rfl
@[simp] theorem State.setKey_slots (s : State) (page : Nat) (k : Option PageKey) : (s.setKey page k).slots = s.slots := rfl
@[simp] theorem State.setKey_dev (s : State) (page : Nat) (k : Option PageKey) : (s.setKey page k).dev = s.dev := rfl
@[simp] theorem State.setKey_active (s : State) (page : Nat) (k : Option PageKey) : (s.setKey page k).active = s.active := rfl
@[simp] theorem State.setKey_latent (s : State) (page : Nat) (k : Option PageKey) : (s.setKey page k).latent = s.latent := rfl
@[simp] theorem State.setKey_shm (s : State) (page : Nat) (k : Option PageKey) : (s.setKey page k).shm = s.shm := rfl
@[simp] theorem State.setKey_hens (s : State) (page : Nat) (k : Option PageKey) : (s.setKey page k).hens = s.hens := rfl
@[simp] theorem State.setKey_jobs (s : State) (page : Nat) (k : Option PageKey) : (s.setKey page k).jobs = s.jobs := rfl
@[simp] theorem State.setKey_audio (s : State) (page : Nat) (k : Option PageKey) : (s.setKey page k).audio = s.audio := rfl
@[simp] theorem State.setKey_ptp (s : State) (page : Nat) (k : Option PageKey) : (s.setKey page k).ptp = s.ptp := rfl
@[simp] theorem State.setKey_ref (s : State) (page : Nat) (k : Option PageKey) : (s.setKey page k).ref = s.ref := rfl
@[simp] theorem State.setKey_eth (s : State) (page : Nat) (k : Option PageKey) : (s.setKey page k).eth = s.eth := rfl
@[simp] theorem State.setKey_str (s : State) (page : Nat) (k : Option PageKey) : (s.setKey page k).str = s.str := rfl
@[simp] theorem State.setKey_psm (s : State) (page : Nat) (k : Option PageKey) : (s.setKey page k).psm = s.psm := rfl
@[simp] theorem State.setKey_twin (s : State) (page : Nat) (k : Option PageKey) : (s.setKey page k).twin = s.twin := rfl
@[simp] theorem State.setKey_fab (s : State) (page : Nat) (k : Option PageKey) : (s.setKey page k).fab = s.fab := rfl
@[simp] theorem State.setKey_rails (s : State) (page : Nat) (k : Option PageKey) : (s.setKey page k).rails = s.rails := rfl
@[simp] theorem State.setKey_pwr (s : State) (page : Nat) (k : Option PageKey) : (s.setKey page k).pwr = s.pwr := rfl
@[simp] theorem State.setKey_lp (s : State) (page : Nat) (k : Option PageKey) : (s.setKey page k).lp = s.lp := rfl
@[simp] theorem State.setKey_getW (s : State) (page : Nat) (k : Option PageKey) (w : Nat) : (s.setKey page k).getW w = s.getW w := by simp [State.getW]
@[simp] theorem State.setKey_rd (s : State) (page : Nat) (k : Option PageKey) (fl : RField) : (s.setKey page k).rd fl = s.rd fl := by simp [State.rd]
@[simp] theorem State.setKey_on (s : State) (page : Nat) (k : Option PageKey) (fl : RField) : (s.setKey page k).on fl = s.on fl := by simp [State.on]
@[simp] theorem State.setKey_pend (s : State) (page : Nat) (k : Option PageKey) (pg bt : Nat) : (s.setKey page k).pend pg bt = s.pend pg bt := by simp [State.pend]

/-! `State.logRec`. -/

@[simp] theorem State.logRec_pending (s : State) (page off code path : Nat) (data : Word) : (s.logRec page off code path data).pending = s.pending := rfl
@[simp] theorem State.logRec_outs (s : State) (page off code path : Nat) (data : Word) : (s.logRec page off code path data).outs = s.outs := rfl
@[simp] theorem State.logRec_freeCtr (s : State) (page off code path : Nat) (data : Word) : (s.logRec page off code path data).freeCtr = s.freeCtr := rfl
@[simp] theorem State.logRec_clk (s : State) (page off code path : Nat) (data : Word) : (s.logRec page off code path data).clk = s.clk := rfl
@[simp] theorem State.logRec_tl (s : State) (page off code path : Nat) (data : Word) : (s.logRec page off code path data).tl = s.tl := rfl
@[simp] theorem State.logRec_smp (s : State) (page off code path : Nat) (data : Word) : (s.logRec page off code path data).smp = s.smp := rfl
@[simp] theorem State.logRec_tlOfs (s : State) (page off code path : Nat) (data : Word) : (s.logRec page off code path data).tlOfs = s.tlOfs := rfl
@[simp] theorem State.logRec_bndDue (s : State) (page off code path : Nat) (data : Word) : (s.logRec page off code path data).bndDue = s.bndDue := rfl
@[simp] theorem State.logRec_mode (s : State) (page off code path : Nat) (data : Word) : (s.logRec page off code path data).mode = s.mode := rfl
@[simp] theorem State.logRec_regs (s : State) (page off code path : Nat) (data : Word) : (s.logRec page off code path data).regs = s.regs := rfl
@[simp] theorem State.logRec_inForce (s : State) (page off code path : Nat) (data : Word) : (s.logRec page off code path data).inForce = s.inForce := rfl
@[simp] theorem State.logRec_host (s : State) (page off code path : Nat) (data : Word) : (s.logRec page off code path data).host = s.host := rfl
@[simp] theorem State.logRec_slots (s : State) (page off code path : Nat) (data : Word) : (s.logRec page off code path data).slots = s.slots := rfl
@[simp] theorem State.logRec_dev (s : State) (page off code path : Nat) (data : Word) : (s.logRec page off code path data).dev = s.dev := rfl
@[simp] theorem State.logRec_active (s : State) (page off code path : Nat) (data : Word) : (s.logRec page off code path data).active = s.active := rfl
@[simp] theorem State.logRec_latent (s : State) (page off code path : Nat) (data : Word) : (s.logRec page off code path data).latent = s.latent := rfl
@[simp] theorem State.logRec_shm (s : State) (page off code path : Nat) (data : Word) : (s.logRec page off code path data).shm = s.shm := rfl
@[simp] theorem State.logRec_hens (s : State) (page off code path : Nat) (data : Word) : (s.logRec page off code path data).hens = s.hens := rfl
@[simp] theorem State.logRec_jobs (s : State) (page off code path : Nat) (data : Word) : (s.logRec page off code path data).jobs = s.jobs := rfl
@[simp] theorem State.logRec_audio (s : State) (page off code path : Nat) (data : Word) : (s.logRec page off code path data).audio = s.audio := rfl
@[simp] theorem State.logRec_ptp (s : State) (page off code path : Nat) (data : Word) : (s.logRec page off code path data).ptp = s.ptp := rfl
@[simp] theorem State.logRec_ref (s : State) (page off code path : Nat) (data : Word) : (s.logRec page off code path data).ref = s.ref := rfl
@[simp] theorem State.logRec_eth (s : State) (page off code path : Nat) (data : Word) : (s.logRec page off code path data).eth = s.eth := rfl
@[simp] theorem State.logRec_str (s : State) (page off code path : Nat) (data : Word) : (s.logRec page off code path data).str = s.str := rfl
@[simp] theorem State.logRec_psm (s : State) (page off code path : Nat) (data : Word) : (s.logRec page off code path data).psm = s.psm := rfl
@[simp] theorem State.logRec_twin (s : State) (page off code path : Nat) (data : Word) : (s.logRec page off code path data).twin = s.twin := rfl
@[simp] theorem State.logRec_fab (s : State) (page off code path : Nat) (data : Word) : (s.logRec page off code path data).fab = s.fab := rfl
@[simp] theorem State.logRec_rails (s : State) (page off code path : Nat) (data : Word) : (s.logRec page off code path data).rails = s.rails := rfl
@[simp] theorem State.logRec_pwr (s : State) (page off code path : Nat) (data : Word) : (s.logRec page off code path data).pwr = s.pwr := rfl
@[simp] theorem State.logRec_lp (s : State) (page off code path : Nat) (data : Word) : (s.logRec page off code path data).lp = s.lp := rfl
@[simp] theorem State.logRec_getW (s : State) (page off code path : Nat) (data : Word) (w : Nat) : (s.logRec page off code path data).getW w = s.getW w := by simp [State.getW]
@[simp] theorem State.logRec_rd (s : State) (page off code path : Nat) (data : Word) (fl : RField) : (s.logRec page off code path data).rd fl = s.rd fl := by simp [State.rd]
@[simp] theorem State.logRec_on (s : State) (page off code path : Nat) (data : Word) (fl : RField) : (s.logRec page off code path data).on fl = s.on fl := by simp [State.on]
@[simp] theorem State.logRec_pend (s : State) (page off code path : Nat) (data : Word) (pg bt : Nat) : (s.logRec page off code path data).pend pg bt = s.pend pg bt := by simp [State.pend]

/-! `State.setMule`. -/

@[simp] theorem State.setMule_pending (s : State) (m : Nat) (v : MuleSt) : (s.setMule m v).pending = s.pending := rfl
@[simp] theorem State.setMule_outs (s : State) (m : Nat) (v : MuleSt) : (s.setMule m v).outs = s.outs := rfl
@[simp] theorem State.setMule_freeCtr (s : State) (m : Nat) (v : MuleSt) : (s.setMule m v).freeCtr = s.freeCtr := rfl
@[simp] theorem State.setMule_clk (s : State) (m : Nat) (v : MuleSt) : (s.setMule m v).clk = s.clk := rfl
@[simp] theorem State.setMule_tl (s : State) (m : Nat) (v : MuleSt) : (s.setMule m v).tl = s.tl := rfl
@[simp] theorem State.setMule_smp (s : State) (m : Nat) (v : MuleSt) : (s.setMule m v).smp = s.smp := rfl
@[simp] theorem State.setMule_tlOfs (s : State) (m : Nat) (v : MuleSt) : (s.setMule m v).tlOfs = s.tlOfs := rfl
@[simp] theorem State.setMule_bndDue (s : State) (m : Nat) (v : MuleSt) : (s.setMule m v).bndDue = s.bndDue := rfl
@[simp] theorem State.setMule_mode (s : State) (m : Nat) (v : MuleSt) : (s.setMule m v).mode = s.mode := rfl
@[simp] theorem State.setMule_regs (s : State) (m : Nat) (v : MuleSt) : (s.setMule m v).regs = s.regs := rfl
@[simp] theorem State.setMule_inForce (s : State) (m : Nat) (v : MuleSt) : (s.setMule m v).inForce = s.inForce := rfl
@[simp] theorem State.setMule_host (s : State) (m : Nat) (v : MuleSt) : (s.setMule m v).host = s.host := rfl
@[simp] theorem State.setMule_elog (s : State) (m : Nat) (v : MuleSt) : (s.setMule m v).elog = s.elog := rfl
@[simp] theorem State.setMule_elogSeq (s : State) (m : Nat) (v : MuleSt) : (s.setMule m v).elogSeq = s.elogSeq := rfl
@[simp] theorem State.setMule_slots (s : State) (m : Nat) (v : MuleSt) : (s.setMule m v).slots = s.slots := rfl
@[simp] theorem State.setMule_dev (s : State) (m : Nat) (v : MuleSt) : (s.setMule m v).dev = s.dev := rfl
@[simp] theorem State.setMule_active (s : State) (m : Nat) (v : MuleSt) : (s.setMule m v).active = s.active := rfl
@[simp] theorem State.setMule_latent (s : State) (m : Nat) (v : MuleSt) : (s.setMule m v).latent = s.latent := rfl
@[simp] theorem State.setMule_shm (s : State) (m : Nat) (v : MuleSt) : (s.setMule m v).shm = s.shm := rfl
@[simp] theorem State.setMule_hens (s : State) (m : Nat) (v : MuleSt) : (s.setMule m v).hens = s.hens := rfl
@[simp] theorem State.setMule_jobs (s : State) (m : Nat) (v : MuleSt) : (s.setMule m v).jobs = s.jobs := rfl
@[simp] theorem State.setMule_audio (s : State) (m : Nat) (v : MuleSt) : (s.setMule m v).audio = s.audio := rfl
@[simp] theorem State.setMule_ptp (s : State) (m : Nat) (v : MuleSt) : (s.setMule m v).ptp = s.ptp := rfl
@[simp] theorem State.setMule_ref (s : State) (m : Nat) (v : MuleSt) : (s.setMule m v).ref = s.ref := rfl
@[simp] theorem State.setMule_eth (s : State) (m : Nat) (v : MuleSt) : (s.setMule m v).eth = s.eth := rfl
@[simp] theorem State.setMule_str (s : State) (m : Nat) (v : MuleSt) : (s.setMule m v).str = s.str := rfl
@[simp] theorem State.setMule_psm (s : State) (m : Nat) (v : MuleSt) : (s.setMule m v).psm = s.psm := rfl
@[simp] theorem State.setMule_twin (s : State) (m : Nat) (v : MuleSt) : (s.setMule m v).twin = s.twin := rfl
@[simp] theorem State.setMule_rails (s : State) (m : Nat) (v : MuleSt) : (s.setMule m v).rails = s.rails := rfl
@[simp] theorem State.setMule_pwr (s : State) (m : Nat) (v : MuleSt) : (s.setMule m v).pwr = s.pwr := rfl
@[simp] theorem State.setMule_lp (s : State) (m : Nat) (v : MuleSt) : (s.setMule m v).lp = s.lp := rfl
@[simp] theorem State.setMule_getW (s : State) (m : Nat) (v : MuleSt) (w : Nat) : (s.setMule m v).getW w = s.getW w := by simp [State.getW]
@[simp] theorem State.setMule_rd (s : State) (m : Nat) (v : MuleSt) (fl : RField) : (s.setMule m v).rd fl = s.rd fl := by simp [State.rd]
@[simp] theorem State.setMule_on (s : State) (m : Nat) (v : MuleSt) (fl : RField) : (s.setMule m v).on fl = s.on fl := by simp [State.on]
@[simp] theorem State.setMule_pend (s : State) (m : Nat) (v : MuleSt) (pg bt : Nat) : (s.setMule m v).pend pg bt = s.pend pg bt := by simp [State.pend]

/-! `State.setSlot`. -/

@[simp] theorem State.setSlot_pending (s : State) (n : Nat) (v : Slot) : (s.setSlot n v).pending = s.pending := rfl
@[simp] theorem State.setSlot_outs (s : State) (n : Nat) (v : Slot) : (s.setSlot n v).outs = s.outs := rfl
@[simp] theorem State.setSlot_freeCtr (s : State) (n : Nat) (v : Slot) : (s.setSlot n v).freeCtr = s.freeCtr := rfl
@[simp] theorem State.setSlot_clk (s : State) (n : Nat) (v : Slot) : (s.setSlot n v).clk = s.clk := rfl
@[simp] theorem State.setSlot_tl (s : State) (n : Nat) (v : Slot) : (s.setSlot n v).tl = s.tl := rfl
@[simp] theorem State.setSlot_smp (s : State) (n : Nat) (v : Slot) : (s.setSlot n v).smp = s.smp := rfl
@[simp] theorem State.setSlot_tlOfs (s : State) (n : Nat) (v : Slot) : (s.setSlot n v).tlOfs = s.tlOfs := rfl
@[simp] theorem State.setSlot_bndDue (s : State) (n : Nat) (v : Slot) : (s.setSlot n v).bndDue = s.bndDue := rfl
@[simp] theorem State.setSlot_mode (s : State) (n : Nat) (v : Slot) : (s.setSlot n v).mode = s.mode := rfl
@[simp] theorem State.setSlot_regs (s : State) (n : Nat) (v : Slot) : (s.setSlot n v).regs = s.regs := rfl
@[simp] theorem State.setSlot_inForce (s : State) (n : Nat) (v : Slot) : (s.setSlot n v).inForce = s.inForce := rfl
@[simp] theorem State.setSlot_host (s : State) (n : Nat) (v : Slot) : (s.setSlot n v).host = s.host := rfl
@[simp] theorem State.setSlot_elog (s : State) (n : Nat) (v : Slot) : (s.setSlot n v).elog = s.elog := rfl
@[simp] theorem State.setSlot_elogSeq (s : State) (n : Nat) (v : Slot) : (s.setSlot n v).elogSeq = s.elogSeq := rfl
@[simp] theorem State.setSlot_dev (s : State) (n : Nat) (v : Slot) : (s.setSlot n v).dev = s.dev := rfl
@[simp] theorem State.setSlot_active (s : State) (n : Nat) (v : Slot) : (s.setSlot n v).active = s.active := rfl
@[simp] theorem State.setSlot_latent (s : State) (n : Nat) (v : Slot) : (s.setSlot n v).latent = s.latent := rfl
@[simp] theorem State.setSlot_shm (s : State) (n : Nat) (v : Slot) : (s.setSlot n v).shm = s.shm := rfl
@[simp] theorem State.setSlot_hens (s : State) (n : Nat) (v : Slot) : (s.setSlot n v).hens = s.hens := rfl
@[simp] theorem State.setSlot_jobs (s : State) (n : Nat) (v : Slot) : (s.setSlot n v).jobs = s.jobs := rfl
@[simp] theorem State.setSlot_audio (s : State) (n : Nat) (v : Slot) : (s.setSlot n v).audio = s.audio := rfl
@[simp] theorem State.setSlot_ptp (s : State) (n : Nat) (v : Slot) : (s.setSlot n v).ptp = s.ptp := rfl
@[simp] theorem State.setSlot_ref (s : State) (n : Nat) (v : Slot) : (s.setSlot n v).ref = s.ref := rfl
@[simp] theorem State.setSlot_eth (s : State) (n : Nat) (v : Slot) : (s.setSlot n v).eth = s.eth := rfl
@[simp] theorem State.setSlot_str (s : State) (n : Nat) (v : Slot) : (s.setSlot n v).str = s.str := rfl
@[simp] theorem State.setSlot_psm (s : State) (n : Nat) (v : Slot) : (s.setSlot n v).psm = s.psm := rfl
@[simp] theorem State.setSlot_twin (s : State) (n : Nat) (v : Slot) : (s.setSlot n v).twin = s.twin := rfl
@[simp] theorem State.setSlot_fab (s : State) (n : Nat) (v : Slot) : (s.setSlot n v).fab = s.fab := rfl
@[simp] theorem State.setSlot_rails (s : State) (n : Nat) (v : Slot) : (s.setSlot n v).rails = s.rails := rfl
@[simp] theorem State.setSlot_pwr (s : State) (n : Nat) (v : Slot) : (s.setSlot n v).pwr = s.pwr := rfl
@[simp] theorem State.setSlot_lp (s : State) (n : Nat) (v : Slot) : (s.setSlot n v).lp = s.lp := rfl
@[simp] theorem State.setSlot_getW (s : State) (n : Nat) (v : Slot) (w : Nat) : (s.setSlot n v).getW w = s.getW w := by simp [State.getW]
@[simp] theorem State.setSlot_rd (s : State) (n : Nat) (v : Slot) (fl : RField) : (s.setSlot n v).rd fl = s.rd fl := by simp [State.rd]
@[simp] theorem State.setSlot_on (s : State) (n : Nat) (v : Slot) (fl : RField) : (s.setSlot n v).on fl = s.on fl := by simp [State.on]
@[simp] theorem State.setSlot_pend (s : State) (n : Nat) (v : Slot) (pg bt : Nat) : (s.setSlot n v).pend pg bt = s.pend pg bt := by simp [State.pend]

/-! `State.setHen`. -/

@[simp] theorem State.setHen_pending (s : State) (h : Nat) (v : HenSt) : (s.setHen h v).pending = s.pending := rfl
@[simp] theorem State.setHen_outs (s : State) (h : Nat) (v : HenSt) : (s.setHen h v).outs = s.outs := rfl
@[simp] theorem State.setHen_freeCtr (s : State) (h : Nat) (v : HenSt) : (s.setHen h v).freeCtr = s.freeCtr := rfl
@[simp] theorem State.setHen_clk (s : State) (h : Nat) (v : HenSt) : (s.setHen h v).clk = s.clk := rfl
@[simp] theorem State.setHen_tl (s : State) (h : Nat) (v : HenSt) : (s.setHen h v).tl = s.tl := rfl
@[simp] theorem State.setHen_smp (s : State) (h : Nat) (v : HenSt) : (s.setHen h v).smp = s.smp := rfl
@[simp] theorem State.setHen_tlOfs (s : State) (h : Nat) (v : HenSt) : (s.setHen h v).tlOfs = s.tlOfs := rfl
@[simp] theorem State.setHen_bndDue (s : State) (h : Nat) (v : HenSt) : (s.setHen h v).bndDue = s.bndDue := rfl
@[simp] theorem State.setHen_mode (s : State) (h : Nat) (v : HenSt) : (s.setHen h v).mode = s.mode := rfl
@[simp] theorem State.setHen_regs (s : State) (h : Nat) (v : HenSt) : (s.setHen h v).regs = s.regs := rfl
@[simp] theorem State.setHen_inForce (s : State) (h : Nat) (v : HenSt) : (s.setHen h v).inForce = s.inForce := rfl
@[simp] theorem State.setHen_host (s : State) (h : Nat) (v : HenSt) : (s.setHen h v).host = s.host := rfl
@[simp] theorem State.setHen_elog (s : State) (h : Nat) (v : HenSt) : (s.setHen h v).elog = s.elog := rfl
@[simp] theorem State.setHen_elogSeq (s : State) (h : Nat) (v : HenSt) : (s.setHen h v).elogSeq = s.elogSeq := rfl
@[simp] theorem State.setHen_slots (s : State) (h : Nat) (v : HenSt) : (s.setHen h v).slots = s.slots := rfl
@[simp] theorem State.setHen_dev (s : State) (h : Nat) (v : HenSt) : (s.setHen h v).dev = s.dev := rfl
@[simp] theorem State.setHen_active (s : State) (h : Nat) (v : HenSt) : (s.setHen h v).active = s.active := rfl
@[simp] theorem State.setHen_latent (s : State) (h : Nat) (v : HenSt) : (s.setHen h v).latent = s.latent := rfl
@[simp] theorem State.setHen_shm (s : State) (h : Nat) (v : HenSt) : (s.setHen h v).shm = s.shm := rfl
@[simp] theorem State.setHen_jobs (s : State) (h : Nat) (v : HenSt) : (s.setHen h v).jobs = s.jobs := rfl
@[simp] theorem State.setHen_audio (s : State) (h : Nat) (v : HenSt) : (s.setHen h v).audio = s.audio := rfl
@[simp] theorem State.setHen_ptp (s : State) (h : Nat) (v : HenSt) : (s.setHen h v).ptp = s.ptp := rfl
@[simp] theorem State.setHen_ref (s : State) (h : Nat) (v : HenSt) : (s.setHen h v).ref = s.ref := rfl
@[simp] theorem State.setHen_eth (s : State) (h : Nat) (v : HenSt) : (s.setHen h v).eth = s.eth := rfl
@[simp] theorem State.setHen_str (s : State) (h : Nat) (v : HenSt) : (s.setHen h v).str = s.str := rfl
@[simp] theorem State.setHen_psm (s : State) (h : Nat) (v : HenSt) : (s.setHen h v).psm = s.psm := rfl
@[simp] theorem State.setHen_twin (s : State) (h : Nat) (v : HenSt) : (s.setHen h v).twin = s.twin := rfl
@[simp] theorem State.setHen_fab (s : State) (h : Nat) (v : HenSt) : (s.setHen h v).fab = s.fab := rfl
@[simp] theorem State.setHen_rails (s : State) (h : Nat) (v : HenSt) : (s.setHen h v).rails = s.rails := rfl
@[simp] theorem State.setHen_pwr (s : State) (h : Nat) (v : HenSt) : (s.setHen h v).pwr = s.pwr := rfl
@[simp] theorem State.setHen_lp (s : State) (h : Nat) (v : HenSt) : (s.setHen h v).lp = s.lp := rfl
@[simp] theorem State.setHen_getW (s : State) (h : Nat) (v : HenSt) (w : Nat) : (s.setHen h v).getW w = s.getW w := by simp [State.getW]
@[simp] theorem State.setHen_rd (s : State) (h : Nat) (v : HenSt) (fl : RField) : (s.setHen h v).rd fl = s.rd fl := by simp [State.rd]
@[simp] theorem State.setHen_on (s : State) (h : Nat) (v : HenSt) (fl : RField) : (s.setHen h v).on fl = s.on fl := by simp [State.on]
@[simp] theorem State.setHen_pend (s : State) (h : Nat) (v : HenSt) (pg bt : Nat) : (s.setHen h v).pend pg bt = s.pend pg bt := by simp [State.pend]

/-! `State.setFlock`. -/

@[simp] theorem State.setFlock_pending (s : State) (f : Nat) (v : FlockSt) : (s.setFlock f v).pending = s.pending := rfl
@[simp] theorem State.setFlock_outs (s : State) (f : Nat) (v : FlockSt) : (s.setFlock f v).outs = s.outs := rfl
@[simp] theorem State.setFlock_freeCtr (s : State) (f : Nat) (v : FlockSt) : (s.setFlock f v).freeCtr = s.freeCtr := rfl
@[simp] theorem State.setFlock_clk (s : State) (f : Nat) (v : FlockSt) : (s.setFlock f v).clk = s.clk := rfl
@[simp] theorem State.setFlock_tl (s : State) (f : Nat) (v : FlockSt) : (s.setFlock f v).tl = s.tl := rfl
@[simp] theorem State.setFlock_smp (s : State) (f : Nat) (v : FlockSt) : (s.setFlock f v).smp = s.smp := rfl
@[simp] theorem State.setFlock_tlOfs (s : State) (f : Nat) (v : FlockSt) : (s.setFlock f v).tlOfs = s.tlOfs := rfl
@[simp] theorem State.setFlock_bndDue (s : State) (f : Nat) (v : FlockSt) : (s.setFlock f v).bndDue = s.bndDue := rfl
@[simp] theorem State.setFlock_mode (s : State) (f : Nat) (v : FlockSt) : (s.setFlock f v).mode = s.mode := rfl
@[simp] theorem State.setFlock_regs (s : State) (f : Nat) (v : FlockSt) : (s.setFlock f v).regs = s.regs := rfl
@[simp] theorem State.setFlock_inForce (s : State) (f : Nat) (v : FlockSt) : (s.setFlock f v).inForce = s.inForce := rfl
@[simp] theorem State.setFlock_host (s : State) (f : Nat) (v : FlockSt) : (s.setFlock f v).host = s.host := rfl
@[simp] theorem State.setFlock_elog (s : State) (f : Nat) (v : FlockSt) : (s.setFlock f v).elog = s.elog := rfl
@[simp] theorem State.setFlock_elogSeq (s : State) (f : Nat) (v : FlockSt) : (s.setFlock f v).elogSeq = s.elogSeq := rfl
@[simp] theorem State.setFlock_slots (s : State) (f : Nat) (v : FlockSt) : (s.setFlock f v).slots = s.slots := rfl
@[simp] theorem State.setFlock_dev (s : State) (f : Nat) (v : FlockSt) : (s.setFlock f v).dev = s.dev := rfl
@[simp] theorem State.setFlock_active (s : State) (f : Nat) (v : FlockSt) : (s.setFlock f v).active = s.active := rfl
@[simp] theorem State.setFlock_latent (s : State) (f : Nat) (v : FlockSt) : (s.setFlock f v).latent = s.latent := rfl
@[simp] theorem State.setFlock_shm (s : State) (f : Nat) (v : FlockSt) : (s.setFlock f v).shm = s.shm := rfl
@[simp] theorem State.setFlock_hens (s : State) (f : Nat) (v : FlockSt) : (s.setFlock f v).hens = s.hens := rfl
@[simp] theorem State.setFlock_audio (s : State) (f : Nat) (v : FlockSt) : (s.setFlock f v).audio = s.audio := rfl
@[simp] theorem State.setFlock_ptp (s : State) (f : Nat) (v : FlockSt) : (s.setFlock f v).ptp = s.ptp := rfl
@[simp] theorem State.setFlock_ref (s : State) (f : Nat) (v : FlockSt) : (s.setFlock f v).ref = s.ref := rfl
@[simp] theorem State.setFlock_eth (s : State) (f : Nat) (v : FlockSt) : (s.setFlock f v).eth = s.eth := rfl
@[simp] theorem State.setFlock_str (s : State) (f : Nat) (v : FlockSt) : (s.setFlock f v).str = s.str := rfl
@[simp] theorem State.setFlock_psm (s : State) (f : Nat) (v : FlockSt) : (s.setFlock f v).psm = s.psm := rfl
@[simp] theorem State.setFlock_twin (s : State) (f : Nat) (v : FlockSt) : (s.setFlock f v).twin = s.twin := rfl
@[simp] theorem State.setFlock_fab (s : State) (f : Nat) (v : FlockSt) : (s.setFlock f v).fab = s.fab := rfl
@[simp] theorem State.setFlock_rails (s : State) (f : Nat) (v : FlockSt) : (s.setFlock f v).rails = s.rails := rfl
@[simp] theorem State.setFlock_pwr (s : State) (f : Nat) (v : FlockSt) : (s.setFlock f v).pwr = s.pwr := rfl
@[simp] theorem State.setFlock_lp (s : State) (f : Nat) (v : FlockSt) : (s.setFlock f v).lp = s.lp := rfl
@[simp] theorem State.setFlock_getW (s : State) (f : Nat) (v : FlockSt) (w : Nat) : (s.setFlock f v).getW w = s.getW w := by simp [State.getW]
@[simp] theorem State.setFlock_rd (s : State) (f : Nat) (v : FlockSt) (fl : RField) : (s.setFlock f v).rd fl = s.rd fl := by simp [State.rd]
@[simp] theorem State.setFlock_on (s : State) (f : Nat) (v : FlockSt) (fl : RField) : (s.setFlock f v).on fl = s.on fl := by simp [State.on]
@[simp] theorem State.setFlock_pend (s : State) (f : Nat) (v : FlockSt) (pg bt : Nat) : (s.setFlock f v).pend pg bt = s.pend pg bt := by simp [State.pend]

/-! `State.setJob`. -/

@[simp] theorem State.setJob_pending (s : State) (k : Nat) (v : JobSt) : (s.setJob k v).pending = s.pending := rfl
@[simp] theorem State.setJob_outs (s : State) (k : Nat) (v : JobSt) : (s.setJob k v).outs = s.outs := rfl
@[simp] theorem State.setJob_freeCtr (s : State) (k : Nat) (v : JobSt) : (s.setJob k v).freeCtr = s.freeCtr := rfl
@[simp] theorem State.setJob_clk (s : State) (k : Nat) (v : JobSt) : (s.setJob k v).clk = s.clk := rfl
@[simp] theorem State.setJob_tl (s : State) (k : Nat) (v : JobSt) : (s.setJob k v).tl = s.tl := rfl
@[simp] theorem State.setJob_smp (s : State) (k : Nat) (v : JobSt) : (s.setJob k v).smp = s.smp := rfl
@[simp] theorem State.setJob_tlOfs (s : State) (k : Nat) (v : JobSt) : (s.setJob k v).tlOfs = s.tlOfs := rfl
@[simp] theorem State.setJob_bndDue (s : State) (k : Nat) (v : JobSt) : (s.setJob k v).bndDue = s.bndDue := rfl
@[simp] theorem State.setJob_mode (s : State) (k : Nat) (v : JobSt) : (s.setJob k v).mode = s.mode := rfl
@[simp] theorem State.setJob_regs (s : State) (k : Nat) (v : JobSt) : (s.setJob k v).regs = s.regs := rfl
@[simp] theorem State.setJob_inForce (s : State) (k : Nat) (v : JobSt) : (s.setJob k v).inForce = s.inForce := rfl
@[simp] theorem State.setJob_host (s : State) (k : Nat) (v : JobSt) : (s.setJob k v).host = s.host := rfl
@[simp] theorem State.setJob_elog (s : State) (k : Nat) (v : JobSt) : (s.setJob k v).elog = s.elog := rfl
@[simp] theorem State.setJob_elogSeq (s : State) (k : Nat) (v : JobSt) : (s.setJob k v).elogSeq = s.elogSeq := rfl
@[simp] theorem State.setJob_slots (s : State) (k : Nat) (v : JobSt) : (s.setJob k v).slots = s.slots := rfl
@[simp] theorem State.setJob_dev (s : State) (k : Nat) (v : JobSt) : (s.setJob k v).dev = s.dev := rfl
@[simp] theorem State.setJob_active (s : State) (k : Nat) (v : JobSt) : (s.setJob k v).active = s.active := rfl
@[simp] theorem State.setJob_latent (s : State) (k : Nat) (v : JobSt) : (s.setJob k v).latent = s.latent := rfl
@[simp] theorem State.setJob_shm (s : State) (k : Nat) (v : JobSt) : (s.setJob k v).shm = s.shm := rfl
@[simp] theorem State.setJob_hens (s : State) (k : Nat) (v : JobSt) : (s.setJob k v).hens = s.hens := rfl
@[simp] theorem State.setJob_audio (s : State) (k : Nat) (v : JobSt) : (s.setJob k v).audio = s.audio := rfl
@[simp] theorem State.setJob_ptp (s : State) (k : Nat) (v : JobSt) : (s.setJob k v).ptp = s.ptp := rfl
@[simp] theorem State.setJob_ref (s : State) (k : Nat) (v : JobSt) : (s.setJob k v).ref = s.ref := rfl
@[simp] theorem State.setJob_eth (s : State) (k : Nat) (v : JobSt) : (s.setJob k v).eth = s.eth := rfl
@[simp] theorem State.setJob_str (s : State) (k : Nat) (v : JobSt) : (s.setJob k v).str = s.str := rfl
@[simp] theorem State.setJob_psm (s : State) (k : Nat) (v : JobSt) : (s.setJob k v).psm = s.psm := rfl
@[simp] theorem State.setJob_twin (s : State) (k : Nat) (v : JobSt) : (s.setJob k v).twin = s.twin := rfl
@[simp] theorem State.setJob_fab (s : State) (k : Nat) (v : JobSt) : (s.setJob k v).fab = s.fab := rfl
@[simp] theorem State.setJob_rails (s : State) (k : Nat) (v : JobSt) : (s.setJob k v).rails = s.rails := rfl
@[simp] theorem State.setJob_pwr (s : State) (k : Nat) (v : JobSt) : (s.setJob k v).pwr = s.pwr := rfl
@[simp] theorem State.setJob_lp (s : State) (k : Nat) (v : JobSt) : (s.setJob k v).lp = s.lp := rfl
@[simp] theorem State.setJob_getW (s : State) (k : Nat) (v : JobSt) (w : Nat) : (s.setJob k v).getW w = s.getW w := by simp [State.getW]
@[simp] theorem State.setJob_rd (s : State) (k : Nat) (v : JobSt) (fl : RField) : (s.setJob k v).rd fl = s.rd fl := by simp [State.rd]
@[simp] theorem State.setJob_on (s : State) (k : Nat) (v : JobSt) (fl : RField) : (s.setJob k v).on fl = s.on fl := by simp [State.on]
@[simp] theorem State.setJob_pend (s : State) (k : Nat) (v : JobSt) (pg bt : Nat) : (s.setJob k v).pend pg bt = s.pend pg bt := by simp [State.pend]

/-! `State.setQueue`. -/

@[simp] theorem State.setQueue_pending (s : State) (f : Nat) (q : List Nat) : (s.setQueue f q).pending = s.pending := rfl
@[simp] theorem State.setQueue_outs (s : State) (f : Nat) (q : List Nat) : (s.setQueue f q).outs = s.outs := rfl
@[simp] theorem State.setQueue_freeCtr (s : State) (f : Nat) (q : List Nat) : (s.setQueue f q).freeCtr = s.freeCtr := rfl
@[simp] theorem State.setQueue_clk (s : State) (f : Nat) (q : List Nat) : (s.setQueue f q).clk = s.clk := rfl
@[simp] theorem State.setQueue_tl (s : State) (f : Nat) (q : List Nat) : (s.setQueue f q).tl = s.tl := rfl
@[simp] theorem State.setQueue_smp (s : State) (f : Nat) (q : List Nat) : (s.setQueue f q).smp = s.smp := rfl
@[simp] theorem State.setQueue_tlOfs (s : State) (f : Nat) (q : List Nat) : (s.setQueue f q).tlOfs = s.tlOfs := rfl
@[simp] theorem State.setQueue_bndDue (s : State) (f : Nat) (q : List Nat) : (s.setQueue f q).bndDue = s.bndDue := rfl
@[simp] theorem State.setQueue_mode (s : State) (f : Nat) (q : List Nat) : (s.setQueue f q).mode = s.mode := rfl
@[simp] theorem State.setQueue_regs (s : State) (f : Nat) (q : List Nat) : (s.setQueue f q).regs = s.regs := rfl
@[simp] theorem State.setQueue_inForce (s : State) (f : Nat) (q : List Nat) : (s.setQueue f q).inForce = s.inForce := rfl
@[simp] theorem State.setQueue_host (s : State) (f : Nat) (q : List Nat) : (s.setQueue f q).host = s.host := rfl
@[simp] theorem State.setQueue_elog (s : State) (f : Nat) (q : List Nat) : (s.setQueue f q).elog = s.elog := rfl
@[simp] theorem State.setQueue_elogSeq (s : State) (f : Nat) (q : List Nat) : (s.setQueue f q).elogSeq = s.elogSeq := rfl
@[simp] theorem State.setQueue_slots (s : State) (f : Nat) (q : List Nat) : (s.setQueue f q).slots = s.slots := rfl
@[simp] theorem State.setQueue_dev (s : State) (f : Nat) (q : List Nat) : (s.setQueue f q).dev = s.dev := rfl
@[simp] theorem State.setQueue_active (s : State) (f : Nat) (q : List Nat) : (s.setQueue f q).active = s.active := rfl
@[simp] theorem State.setQueue_latent (s : State) (f : Nat) (q : List Nat) : (s.setQueue f q).latent = s.latent := rfl
@[simp] theorem State.setQueue_shm (s : State) (f : Nat) (q : List Nat) : (s.setQueue f q).shm = s.shm := rfl
@[simp] theorem State.setQueue_hens (s : State) (f : Nat) (q : List Nat) : (s.setQueue f q).hens = s.hens := rfl
@[simp] theorem State.setQueue_audio (s : State) (f : Nat) (q : List Nat) : (s.setQueue f q).audio = s.audio := rfl
@[simp] theorem State.setQueue_ptp (s : State) (f : Nat) (q : List Nat) : (s.setQueue f q).ptp = s.ptp := rfl
@[simp] theorem State.setQueue_ref (s : State) (f : Nat) (q : List Nat) : (s.setQueue f q).ref = s.ref := rfl
@[simp] theorem State.setQueue_eth (s : State) (f : Nat) (q : List Nat) : (s.setQueue f q).eth = s.eth := rfl
@[simp] theorem State.setQueue_str (s : State) (f : Nat) (q : List Nat) : (s.setQueue f q).str = s.str := rfl
@[simp] theorem State.setQueue_psm (s : State) (f : Nat) (q : List Nat) : (s.setQueue f q).psm = s.psm := rfl
@[simp] theorem State.setQueue_twin (s : State) (f : Nat) (q : List Nat) : (s.setQueue f q).twin = s.twin := rfl
@[simp] theorem State.setQueue_fab (s : State) (f : Nat) (q : List Nat) : (s.setQueue f q).fab = s.fab := rfl
@[simp] theorem State.setQueue_rails (s : State) (f : Nat) (q : List Nat) : (s.setQueue f q).rails = s.rails := rfl
@[simp] theorem State.setQueue_pwr (s : State) (f : Nat) (q : List Nat) : (s.setQueue f q).pwr = s.pwr := rfl
@[simp] theorem State.setQueue_lp (s : State) (f : Nat) (q : List Nat) : (s.setQueue f q).lp = s.lp := rfl
@[simp] theorem State.setQueue_getW (s : State) (f : Nat) (q : List Nat) (w : Nat) : (s.setQueue f q).getW w = s.getW w := by simp [State.getW]
@[simp] theorem State.setQueue_rd (s : State) (f : Nat) (q : List Nat) (fl : RField) : (s.setQueue f q).rd fl = s.rd fl := by simp [State.rd]
@[simp] theorem State.setQueue_on (s : State) (f : Nat) (q : List Nat) (fl : RField) : (s.setQueue f q).on fl = s.on fl := by simp [State.on]
@[simp] theorem State.setQueue_pend (s : State) (f : Nat) (q : List Nat) (pg bt : Nat) : (s.setQueue f q).pend pg bt = s.pend pg bt := by simp [State.pend]

/-! `State.setIch`. -/

@[simp] theorem State.setIch_pending (s : State) (blk ch : Nat) (c : Chan) : (s.setIch blk ch c).pending = s.pending := rfl
@[simp] theorem State.setIch_outs (s : State) (blk ch : Nat) (c : Chan) : (s.setIch blk ch c).outs = s.outs := rfl
@[simp] theorem State.setIch_freeCtr (s : State) (blk ch : Nat) (c : Chan) : (s.setIch blk ch c).freeCtr = s.freeCtr := rfl
@[simp] theorem State.setIch_clk (s : State) (blk ch : Nat) (c : Chan) : (s.setIch blk ch c).clk = s.clk := rfl
@[simp] theorem State.setIch_tl (s : State) (blk ch : Nat) (c : Chan) : (s.setIch blk ch c).tl = s.tl := rfl
@[simp] theorem State.setIch_smp (s : State) (blk ch : Nat) (c : Chan) : (s.setIch blk ch c).smp = s.smp := rfl
@[simp] theorem State.setIch_tlOfs (s : State) (blk ch : Nat) (c : Chan) : (s.setIch blk ch c).tlOfs = s.tlOfs := rfl
@[simp] theorem State.setIch_bndDue (s : State) (blk ch : Nat) (c : Chan) : (s.setIch blk ch c).bndDue = s.bndDue := rfl
@[simp] theorem State.setIch_mode (s : State) (blk ch : Nat) (c : Chan) : (s.setIch blk ch c).mode = s.mode := rfl
@[simp] theorem State.setIch_regs (s : State) (blk ch : Nat) (c : Chan) : (s.setIch blk ch c).regs = s.regs := rfl
@[simp] theorem State.setIch_inForce (s : State) (blk ch : Nat) (c : Chan) : (s.setIch blk ch c).inForce = s.inForce := rfl
@[simp] theorem State.setIch_host (s : State) (blk ch : Nat) (c : Chan) : (s.setIch blk ch c).host = s.host := rfl
@[simp] theorem State.setIch_elog (s : State) (blk ch : Nat) (c : Chan) : (s.setIch blk ch c).elog = s.elog := rfl
@[simp] theorem State.setIch_elogSeq (s : State) (blk ch : Nat) (c : Chan) : (s.setIch blk ch c).elogSeq = s.elogSeq := rfl
@[simp] theorem State.setIch_slots (s : State) (blk ch : Nat) (c : Chan) : (s.setIch blk ch c).slots = s.slots := rfl
@[simp] theorem State.setIch_dev (s : State) (blk ch : Nat) (c : Chan) : (s.setIch blk ch c).dev = s.dev := rfl
@[simp] theorem State.setIch_active (s : State) (blk ch : Nat) (c : Chan) : (s.setIch blk ch c).active = s.active := rfl
@[simp] theorem State.setIch_latent (s : State) (blk ch : Nat) (c : Chan) : (s.setIch blk ch c).latent = s.latent := rfl
@[simp] theorem State.setIch_shm (s : State) (blk ch : Nat) (c : Chan) : (s.setIch blk ch c).shm = s.shm := rfl
@[simp] theorem State.setIch_hens (s : State) (blk ch : Nat) (c : Chan) : (s.setIch blk ch c).hens = s.hens := rfl
@[simp] theorem State.setIch_audio (s : State) (blk ch : Nat) (c : Chan) : (s.setIch blk ch c).audio = s.audio := rfl
@[simp] theorem State.setIch_ptp (s : State) (blk ch : Nat) (c : Chan) : (s.setIch blk ch c).ptp = s.ptp := rfl
@[simp] theorem State.setIch_ref (s : State) (blk ch : Nat) (c : Chan) : (s.setIch blk ch c).ref = s.ref := rfl
@[simp] theorem State.setIch_eth (s : State) (blk ch : Nat) (c : Chan) : (s.setIch blk ch c).eth = s.eth := rfl
@[simp] theorem State.setIch_str (s : State) (blk ch : Nat) (c : Chan) : (s.setIch blk ch c).str = s.str := rfl
@[simp] theorem State.setIch_psm (s : State) (blk ch : Nat) (c : Chan) : (s.setIch blk ch c).psm = s.psm := rfl
@[simp] theorem State.setIch_twin (s : State) (blk ch : Nat) (c : Chan) : (s.setIch blk ch c).twin = s.twin := rfl
@[simp] theorem State.setIch_fab (s : State) (blk ch : Nat) (c : Chan) : (s.setIch blk ch c).fab = s.fab := rfl
@[simp] theorem State.setIch_rails (s : State) (blk ch : Nat) (c : Chan) : (s.setIch blk ch c).rails = s.rails := rfl
@[simp] theorem State.setIch_pwr (s : State) (blk ch : Nat) (c : Chan) : (s.setIch blk ch c).pwr = s.pwr := rfl
@[simp] theorem State.setIch_lp (s : State) (blk ch : Nat) (c : Chan) : (s.setIch blk ch c).lp = s.lp := rfl
@[simp] theorem State.setIch_getW (s : State) (blk ch : Nat) (c : Chan) (w : Nat) : (s.setIch blk ch c).getW w = s.getW w := by simp [State.getW]
@[simp] theorem State.setIch_rd (s : State) (blk ch : Nat) (c : Chan) (fl : RField) : (s.setIch blk ch c).rd fl = s.rd fl := by simp [State.rd]
@[simp] theorem State.setIch_on (s : State) (blk ch : Nat) (c : Chan) (fl : RField) : (s.setIch blk ch c).on fl = s.on fl := by simp [State.on]
@[simp] theorem State.setIch_pend (s : State) (blk ch : Nat) (c : Chan) (pg bt : Nat) : (s.setIch blk ch c).pend pg bt = s.pend pg bt := by simp [State.pend]

/-! `State.setGrp`. -/

@[simp] theorem State.setGrp_pending (s : State) (g : Nat) (v : GrpSt) : (s.setGrp g v).pending = s.pending := rfl
@[simp] theorem State.setGrp_outs (s : State) (g : Nat) (v : GrpSt) : (s.setGrp g v).outs = s.outs := rfl
@[simp] theorem State.setGrp_freeCtr (s : State) (g : Nat) (v : GrpSt) : (s.setGrp g v).freeCtr = s.freeCtr := rfl
@[simp] theorem State.setGrp_clk (s : State) (g : Nat) (v : GrpSt) : (s.setGrp g v).clk = s.clk := rfl
@[simp] theorem State.setGrp_tl (s : State) (g : Nat) (v : GrpSt) : (s.setGrp g v).tl = s.tl := rfl
@[simp] theorem State.setGrp_smp (s : State) (g : Nat) (v : GrpSt) : (s.setGrp g v).smp = s.smp := rfl
@[simp] theorem State.setGrp_tlOfs (s : State) (g : Nat) (v : GrpSt) : (s.setGrp g v).tlOfs = s.tlOfs := rfl
@[simp] theorem State.setGrp_bndDue (s : State) (g : Nat) (v : GrpSt) : (s.setGrp g v).bndDue = s.bndDue := rfl
@[simp] theorem State.setGrp_mode (s : State) (g : Nat) (v : GrpSt) : (s.setGrp g v).mode = s.mode := rfl
@[simp] theorem State.setGrp_regs (s : State) (g : Nat) (v : GrpSt) : (s.setGrp g v).regs = s.regs := rfl
@[simp] theorem State.setGrp_inForce (s : State) (g : Nat) (v : GrpSt) : (s.setGrp g v).inForce = s.inForce := rfl
@[simp] theorem State.setGrp_host (s : State) (g : Nat) (v : GrpSt) : (s.setGrp g v).host = s.host := rfl
@[simp] theorem State.setGrp_elog (s : State) (g : Nat) (v : GrpSt) : (s.setGrp g v).elog = s.elog := rfl
@[simp] theorem State.setGrp_elogSeq (s : State) (g : Nat) (v : GrpSt) : (s.setGrp g v).elogSeq = s.elogSeq := rfl
@[simp] theorem State.setGrp_slots (s : State) (g : Nat) (v : GrpSt) : (s.setGrp g v).slots = s.slots := rfl
@[simp] theorem State.setGrp_dev (s : State) (g : Nat) (v : GrpSt) : (s.setGrp g v).dev = s.dev := rfl
@[simp] theorem State.setGrp_active (s : State) (g : Nat) (v : GrpSt) : (s.setGrp g v).active = s.active := rfl
@[simp] theorem State.setGrp_latent (s : State) (g : Nat) (v : GrpSt) : (s.setGrp g v).latent = s.latent := rfl
@[simp] theorem State.setGrp_shm (s : State) (g : Nat) (v : GrpSt) : (s.setGrp g v).shm = s.shm := rfl
@[simp] theorem State.setGrp_hens (s : State) (g : Nat) (v : GrpSt) : (s.setGrp g v).hens = s.hens := rfl
@[simp] theorem State.setGrp_jobs (s : State) (g : Nat) (v : GrpSt) : (s.setGrp g v).jobs = s.jobs := rfl
@[simp] theorem State.setGrp_ptp (s : State) (g : Nat) (v : GrpSt) : (s.setGrp g v).ptp = s.ptp := rfl
@[simp] theorem State.setGrp_ref (s : State) (g : Nat) (v : GrpSt) : (s.setGrp g v).ref = s.ref := rfl
@[simp] theorem State.setGrp_eth (s : State) (g : Nat) (v : GrpSt) : (s.setGrp g v).eth = s.eth := rfl
@[simp] theorem State.setGrp_str (s : State) (g : Nat) (v : GrpSt) : (s.setGrp g v).str = s.str := rfl
@[simp] theorem State.setGrp_psm (s : State) (g : Nat) (v : GrpSt) : (s.setGrp g v).psm = s.psm := rfl
@[simp] theorem State.setGrp_twin (s : State) (g : Nat) (v : GrpSt) : (s.setGrp g v).twin = s.twin := rfl
@[simp] theorem State.setGrp_fab (s : State) (g : Nat) (v : GrpSt) : (s.setGrp g v).fab = s.fab := rfl
@[simp] theorem State.setGrp_rails (s : State) (g : Nat) (v : GrpSt) : (s.setGrp g v).rails = s.rails := rfl
@[simp] theorem State.setGrp_pwr (s : State) (g : Nat) (v : GrpSt) : (s.setGrp g v).pwr = s.pwr := rfl
@[simp] theorem State.setGrp_lp (s : State) (g : Nat) (v : GrpSt) : (s.setGrp g v).lp = s.lp := rfl
@[simp] theorem State.setGrp_getW (s : State) (g : Nat) (v : GrpSt) (w : Nat) : (s.setGrp g v).getW w = s.getW w := by simp [State.getW]
@[simp] theorem State.setGrp_rd (s : State) (g : Nat) (v : GrpSt) (fl : RField) : (s.setGrp g v).rd fl = s.rd fl := by simp [State.rd]
@[simp] theorem State.setGrp_on (s : State) (g : Nat) (v : GrpSt) (fl : RField) : (s.setGrp g v).on fl = s.on fl := by simp [State.on]
@[simp] theorem State.setGrp_pend (s : State) (g : Nat) (v : GrpSt) (pg bt : Nat) : (s.setGrp g v).pend pg bt = s.pend pg bt := by simp [State.pend]

/-! `State.setConv`. -/

@[simp] theorem State.setConv_pending (s : State) (ch : Nat) (v : ConvSt) : (s.setConv ch v).pending = s.pending := rfl
@[simp] theorem State.setConv_outs (s : State) (ch : Nat) (v : ConvSt) : (s.setConv ch v).outs = s.outs := rfl
@[simp] theorem State.setConv_freeCtr (s : State) (ch : Nat) (v : ConvSt) : (s.setConv ch v).freeCtr = s.freeCtr := rfl
@[simp] theorem State.setConv_clk (s : State) (ch : Nat) (v : ConvSt) : (s.setConv ch v).clk = s.clk := rfl
@[simp] theorem State.setConv_tl (s : State) (ch : Nat) (v : ConvSt) : (s.setConv ch v).tl = s.tl := rfl
@[simp] theorem State.setConv_smp (s : State) (ch : Nat) (v : ConvSt) : (s.setConv ch v).smp = s.smp := rfl
@[simp] theorem State.setConv_tlOfs (s : State) (ch : Nat) (v : ConvSt) : (s.setConv ch v).tlOfs = s.tlOfs := rfl
@[simp] theorem State.setConv_bndDue (s : State) (ch : Nat) (v : ConvSt) : (s.setConv ch v).bndDue = s.bndDue := rfl
@[simp] theorem State.setConv_mode (s : State) (ch : Nat) (v : ConvSt) : (s.setConv ch v).mode = s.mode := rfl
@[simp] theorem State.setConv_regs (s : State) (ch : Nat) (v : ConvSt) : (s.setConv ch v).regs = s.regs := rfl
@[simp] theorem State.setConv_inForce (s : State) (ch : Nat) (v : ConvSt) : (s.setConv ch v).inForce = s.inForce := rfl
@[simp] theorem State.setConv_host (s : State) (ch : Nat) (v : ConvSt) : (s.setConv ch v).host = s.host := rfl
@[simp] theorem State.setConv_elog (s : State) (ch : Nat) (v : ConvSt) : (s.setConv ch v).elog = s.elog := rfl
@[simp] theorem State.setConv_elogSeq (s : State) (ch : Nat) (v : ConvSt) : (s.setConv ch v).elogSeq = s.elogSeq := rfl
@[simp] theorem State.setConv_slots (s : State) (ch : Nat) (v : ConvSt) : (s.setConv ch v).slots = s.slots := rfl
@[simp] theorem State.setConv_dev (s : State) (ch : Nat) (v : ConvSt) : (s.setConv ch v).dev = s.dev := rfl
@[simp] theorem State.setConv_active (s : State) (ch : Nat) (v : ConvSt) : (s.setConv ch v).active = s.active := rfl
@[simp] theorem State.setConv_latent (s : State) (ch : Nat) (v : ConvSt) : (s.setConv ch v).latent = s.latent := rfl
@[simp] theorem State.setConv_shm (s : State) (ch : Nat) (v : ConvSt) : (s.setConv ch v).shm = s.shm := rfl
@[simp] theorem State.setConv_hens (s : State) (ch : Nat) (v : ConvSt) : (s.setConv ch v).hens = s.hens := rfl
@[simp] theorem State.setConv_jobs (s : State) (ch : Nat) (v : ConvSt) : (s.setConv ch v).jobs = s.jobs := rfl
@[simp] theorem State.setConv_ptp (s : State) (ch : Nat) (v : ConvSt) : (s.setConv ch v).ptp = s.ptp := rfl
@[simp] theorem State.setConv_ref (s : State) (ch : Nat) (v : ConvSt) : (s.setConv ch v).ref = s.ref := rfl
@[simp] theorem State.setConv_eth (s : State) (ch : Nat) (v : ConvSt) : (s.setConv ch v).eth = s.eth := rfl
@[simp] theorem State.setConv_str (s : State) (ch : Nat) (v : ConvSt) : (s.setConv ch v).str = s.str := rfl
@[simp] theorem State.setConv_psm (s : State) (ch : Nat) (v : ConvSt) : (s.setConv ch v).psm = s.psm := rfl
@[simp] theorem State.setConv_twin (s : State) (ch : Nat) (v : ConvSt) : (s.setConv ch v).twin = s.twin := rfl
@[simp] theorem State.setConv_fab (s : State) (ch : Nat) (v : ConvSt) : (s.setConv ch v).fab = s.fab := rfl
@[simp] theorem State.setConv_rails (s : State) (ch : Nat) (v : ConvSt) : (s.setConv ch v).rails = s.rails := rfl
@[simp] theorem State.setConv_pwr (s : State) (ch : Nat) (v : ConvSt) : (s.setConv ch v).pwr = s.pwr := rfl
@[simp] theorem State.setConv_lp (s : State) (ch : Nat) (v : ConvSt) : (s.setConv ch v).lp = s.lp := rfl
@[simp] theorem State.setConv_getW (s : State) (ch : Nat) (v : ConvSt) (w : Nat) : (s.setConv ch v).getW w = s.getW w := by simp [State.getW]
@[simp] theorem State.setConv_rd (s : State) (ch : Nat) (v : ConvSt) (fl : RField) : (s.setConv ch v).rd fl = s.rd fl := by simp [State.rd]
@[simp] theorem State.setConv_on (s : State) (ch : Nat) (v : ConvSt) (fl : RField) : (s.setConv ch v).on fl = s.on fl := by simp [State.on]
@[simp] theorem State.setConv_pend (s : State) (ch : Nat) (v : ConvSt) (pg bt : Nat) : (s.setConv ch v).pend pg bt = s.pend pg bt := by simp [State.pend]

/-! `State.setPort`. -/

@[simp] theorem State.setPort_pending (s : State) (p : Nat) (v : EthPort) : (s.setPort p v).pending = s.pending := rfl
@[simp] theorem State.setPort_outs (s : State) (p : Nat) (v : EthPort) : (s.setPort p v).outs = s.outs := rfl
@[simp] theorem State.setPort_freeCtr (s : State) (p : Nat) (v : EthPort) : (s.setPort p v).freeCtr = s.freeCtr := rfl
@[simp] theorem State.setPort_clk (s : State) (p : Nat) (v : EthPort) : (s.setPort p v).clk = s.clk := rfl
@[simp] theorem State.setPort_tl (s : State) (p : Nat) (v : EthPort) : (s.setPort p v).tl = s.tl := rfl
@[simp] theorem State.setPort_smp (s : State) (p : Nat) (v : EthPort) : (s.setPort p v).smp = s.smp := rfl
@[simp] theorem State.setPort_tlOfs (s : State) (p : Nat) (v : EthPort) : (s.setPort p v).tlOfs = s.tlOfs := rfl
@[simp] theorem State.setPort_bndDue (s : State) (p : Nat) (v : EthPort) : (s.setPort p v).bndDue = s.bndDue := rfl
@[simp] theorem State.setPort_mode (s : State) (p : Nat) (v : EthPort) : (s.setPort p v).mode = s.mode := rfl
@[simp] theorem State.setPort_regs (s : State) (p : Nat) (v : EthPort) : (s.setPort p v).regs = s.regs := rfl
@[simp] theorem State.setPort_inForce (s : State) (p : Nat) (v : EthPort) : (s.setPort p v).inForce = s.inForce := rfl
@[simp] theorem State.setPort_host (s : State) (p : Nat) (v : EthPort) : (s.setPort p v).host = s.host := rfl
@[simp] theorem State.setPort_elog (s : State) (p : Nat) (v : EthPort) : (s.setPort p v).elog = s.elog := rfl
@[simp] theorem State.setPort_elogSeq (s : State) (p : Nat) (v : EthPort) : (s.setPort p v).elogSeq = s.elogSeq := rfl
@[simp] theorem State.setPort_slots (s : State) (p : Nat) (v : EthPort) : (s.setPort p v).slots = s.slots := rfl
@[simp] theorem State.setPort_dev (s : State) (p : Nat) (v : EthPort) : (s.setPort p v).dev = s.dev := rfl
@[simp] theorem State.setPort_active (s : State) (p : Nat) (v : EthPort) : (s.setPort p v).active = s.active := rfl
@[simp] theorem State.setPort_latent (s : State) (p : Nat) (v : EthPort) : (s.setPort p v).latent = s.latent := rfl
@[simp] theorem State.setPort_shm (s : State) (p : Nat) (v : EthPort) : (s.setPort p v).shm = s.shm := rfl
@[simp] theorem State.setPort_hens (s : State) (p : Nat) (v : EthPort) : (s.setPort p v).hens = s.hens := rfl
@[simp] theorem State.setPort_jobs (s : State) (p : Nat) (v : EthPort) : (s.setPort p v).jobs = s.jobs := rfl
@[simp] theorem State.setPort_audio (s : State) (p : Nat) (v : EthPort) : (s.setPort p v).audio = s.audio := rfl
@[simp] theorem State.setPort_ptp (s : State) (p : Nat) (v : EthPort) : (s.setPort p v).ptp = s.ptp := rfl
@[simp] theorem State.setPort_ref (s : State) (p : Nat) (v : EthPort) : (s.setPort p v).ref = s.ref := rfl
@[simp] theorem State.setPort_str (s : State) (p : Nat) (v : EthPort) : (s.setPort p v).str = s.str := rfl
@[simp] theorem State.setPort_psm (s : State) (p : Nat) (v : EthPort) : (s.setPort p v).psm = s.psm := rfl
@[simp] theorem State.setPort_twin (s : State) (p : Nat) (v : EthPort) : (s.setPort p v).twin = s.twin := rfl
@[simp] theorem State.setPort_fab (s : State) (p : Nat) (v : EthPort) : (s.setPort p v).fab = s.fab := rfl
@[simp] theorem State.setPort_rails (s : State) (p : Nat) (v : EthPort) : (s.setPort p v).rails = s.rails := rfl
@[simp] theorem State.setPort_pwr (s : State) (p : Nat) (v : EthPort) : (s.setPort p v).pwr = s.pwr := rfl
@[simp] theorem State.setPort_lp (s : State) (p : Nat) (v : EthPort) : (s.setPort p v).lp = s.lp := rfl
@[simp] theorem State.setPort_getW (s : State) (p : Nat) (v : EthPort) (w : Nat) : (s.setPort p v).getW w = s.getW w := by simp [State.getW]
@[simp] theorem State.setPort_rd (s : State) (p : Nat) (v : EthPort) (fl : RField) : (s.setPort p v).rd fl = s.rd fl := by simp [State.rd]
@[simp] theorem State.setPort_on (s : State) (p : Nat) (v : EthPort) (fl : RField) : (s.setPort p v).on fl = s.on fl := by simp [State.on]
@[simp] theorem State.setPort_pend (s : State) (p : Nat) (v : EthPort) (pg bt : Nat) : (s.setPort p v).pend pg bt = s.pend pg bt := by simp [State.pend]

/-! `State.setAtu`. -/

@[simp] theorem State.setAtu_pending (s : State) (i : Nat) (e : Option AtuE) : (s.setAtu i e).pending = s.pending := rfl
@[simp] theorem State.setAtu_outs (s : State) (i : Nat) (e : Option AtuE) : (s.setAtu i e).outs = s.outs := rfl
@[simp] theorem State.setAtu_freeCtr (s : State) (i : Nat) (e : Option AtuE) : (s.setAtu i e).freeCtr = s.freeCtr := rfl
@[simp] theorem State.setAtu_clk (s : State) (i : Nat) (e : Option AtuE) : (s.setAtu i e).clk = s.clk := rfl
@[simp] theorem State.setAtu_tl (s : State) (i : Nat) (e : Option AtuE) : (s.setAtu i e).tl = s.tl := rfl
@[simp] theorem State.setAtu_smp (s : State) (i : Nat) (e : Option AtuE) : (s.setAtu i e).smp = s.smp := rfl
@[simp] theorem State.setAtu_tlOfs (s : State) (i : Nat) (e : Option AtuE) : (s.setAtu i e).tlOfs = s.tlOfs := rfl
@[simp] theorem State.setAtu_bndDue (s : State) (i : Nat) (e : Option AtuE) : (s.setAtu i e).bndDue = s.bndDue := rfl
@[simp] theorem State.setAtu_mode (s : State) (i : Nat) (e : Option AtuE) : (s.setAtu i e).mode = s.mode := rfl
@[simp] theorem State.setAtu_regs (s : State) (i : Nat) (e : Option AtuE) : (s.setAtu i e).regs = s.regs := rfl
@[simp] theorem State.setAtu_inForce (s : State) (i : Nat) (e : Option AtuE) : (s.setAtu i e).inForce = s.inForce := rfl
@[simp] theorem State.setAtu_host (s : State) (i : Nat) (e : Option AtuE) : (s.setAtu i e).host = s.host := rfl
@[simp] theorem State.setAtu_elog (s : State) (i : Nat) (e : Option AtuE) : (s.setAtu i e).elog = s.elog := rfl
@[simp] theorem State.setAtu_elogSeq (s : State) (i : Nat) (e : Option AtuE) : (s.setAtu i e).elogSeq = s.elogSeq := rfl
@[simp] theorem State.setAtu_slots (s : State) (i : Nat) (e : Option AtuE) : (s.setAtu i e).slots = s.slots := rfl
@[simp] theorem State.setAtu_dev (s : State) (i : Nat) (e : Option AtuE) : (s.setAtu i e).dev = s.dev := rfl
@[simp] theorem State.setAtu_active (s : State) (i : Nat) (e : Option AtuE) : (s.setAtu i e).active = s.active := rfl
@[simp] theorem State.setAtu_latent (s : State) (i : Nat) (e : Option AtuE) : (s.setAtu i e).latent = s.latent := rfl
@[simp] theorem State.setAtu_shm (s : State) (i : Nat) (e : Option AtuE) : (s.setAtu i e).shm = s.shm := rfl
@[simp] theorem State.setAtu_hens (s : State) (i : Nat) (e : Option AtuE) : (s.setAtu i e).hens = s.hens := rfl
@[simp] theorem State.setAtu_jobs (s : State) (i : Nat) (e : Option AtuE) : (s.setAtu i e).jobs = s.jobs := rfl
@[simp] theorem State.setAtu_audio (s : State) (i : Nat) (e : Option AtuE) : (s.setAtu i e).audio = s.audio := rfl
@[simp] theorem State.setAtu_ptp (s : State) (i : Nat) (e : Option AtuE) : (s.setAtu i e).ptp = s.ptp := rfl
@[simp] theorem State.setAtu_ref (s : State) (i : Nat) (e : Option AtuE) : (s.setAtu i e).ref = s.ref := rfl
@[simp] theorem State.setAtu_str (s : State) (i : Nat) (e : Option AtuE) : (s.setAtu i e).str = s.str := rfl
@[simp] theorem State.setAtu_psm (s : State) (i : Nat) (e : Option AtuE) : (s.setAtu i e).psm = s.psm := rfl
@[simp] theorem State.setAtu_twin (s : State) (i : Nat) (e : Option AtuE) : (s.setAtu i e).twin = s.twin := rfl
@[simp] theorem State.setAtu_fab (s : State) (i : Nat) (e : Option AtuE) : (s.setAtu i e).fab = s.fab := rfl
@[simp] theorem State.setAtu_rails (s : State) (i : Nat) (e : Option AtuE) : (s.setAtu i e).rails = s.rails := rfl
@[simp] theorem State.setAtu_pwr (s : State) (i : Nat) (e : Option AtuE) : (s.setAtu i e).pwr = s.pwr := rfl
@[simp] theorem State.setAtu_lp (s : State) (i : Nat) (e : Option AtuE) : (s.setAtu i e).lp = s.lp := rfl
@[simp] theorem State.setAtu_getW (s : State) (i : Nat) (e : Option AtuE) (w : Nat) : (s.setAtu i e).getW w = s.getW w := by simp [State.getW]
@[simp] theorem State.setAtu_rd (s : State) (i : Nat) (e : Option AtuE) (fl : RField) : (s.setAtu i e).rd fl = s.rd fl := by simp [State.rd]
@[simp] theorem State.setAtu_on (s : State) (i : Nat) (e : Option AtuE) (fl : RField) : (s.setAtu i e).on fl = s.on fl := by simp [State.on]
@[simp] theorem State.setAtu_pend (s : State) (i : Nat) (e : Option AtuE) (pg bt : Nat) : (s.setAtu i e).pend pg bt = s.pend pg bt := by simp [State.pend]

/-! `State.setRx`. -/

@[simp] theorem State.setRx_pending (s : State) (n : Nat) (v : RxSt) : (s.setRx n v).pending = s.pending := rfl
@[simp] theorem State.setRx_outs (s : State) (n : Nat) (v : RxSt) : (s.setRx n v).outs = s.outs := rfl
@[simp] theorem State.setRx_freeCtr (s : State) (n : Nat) (v : RxSt) : (s.setRx n v).freeCtr = s.freeCtr := rfl
@[simp] theorem State.setRx_clk (s : State) (n : Nat) (v : RxSt) : (s.setRx n v).clk = s.clk := rfl
@[simp] theorem State.setRx_tl (s : State) (n : Nat) (v : RxSt) : (s.setRx n v).tl = s.tl := rfl
@[simp] theorem State.setRx_smp (s : State) (n : Nat) (v : RxSt) : (s.setRx n v).smp = s.smp := rfl
@[simp] theorem State.setRx_tlOfs (s : State) (n : Nat) (v : RxSt) : (s.setRx n v).tlOfs = s.tlOfs := rfl
@[simp] theorem State.setRx_bndDue (s : State) (n : Nat) (v : RxSt) : (s.setRx n v).bndDue = s.bndDue := rfl
@[simp] theorem State.setRx_mode (s : State) (n : Nat) (v : RxSt) : (s.setRx n v).mode = s.mode := rfl
@[simp] theorem State.setRx_regs (s : State) (n : Nat) (v : RxSt) : (s.setRx n v).regs = s.regs := rfl
@[simp] theorem State.setRx_inForce (s : State) (n : Nat) (v : RxSt) : (s.setRx n v).inForce = s.inForce := rfl
@[simp] theorem State.setRx_host (s : State) (n : Nat) (v : RxSt) : (s.setRx n v).host = s.host := rfl
@[simp] theorem State.setRx_elog (s : State) (n : Nat) (v : RxSt) : (s.setRx n v).elog = s.elog := rfl
@[simp] theorem State.setRx_elogSeq (s : State) (n : Nat) (v : RxSt) : (s.setRx n v).elogSeq = s.elogSeq := rfl
@[simp] theorem State.setRx_slots (s : State) (n : Nat) (v : RxSt) : (s.setRx n v).slots = s.slots := rfl
@[simp] theorem State.setRx_dev (s : State) (n : Nat) (v : RxSt) : (s.setRx n v).dev = s.dev := rfl
@[simp] theorem State.setRx_active (s : State) (n : Nat) (v : RxSt) : (s.setRx n v).active = s.active := rfl
@[simp] theorem State.setRx_latent (s : State) (n : Nat) (v : RxSt) : (s.setRx n v).latent = s.latent := rfl
@[simp] theorem State.setRx_shm (s : State) (n : Nat) (v : RxSt) : (s.setRx n v).shm = s.shm := rfl
@[simp] theorem State.setRx_hens (s : State) (n : Nat) (v : RxSt) : (s.setRx n v).hens = s.hens := rfl
@[simp] theorem State.setRx_jobs (s : State) (n : Nat) (v : RxSt) : (s.setRx n v).jobs = s.jobs := rfl
@[simp] theorem State.setRx_audio (s : State) (n : Nat) (v : RxSt) : (s.setRx n v).audio = s.audio := rfl
@[simp] theorem State.setRx_ptp (s : State) (n : Nat) (v : RxSt) : (s.setRx n v).ptp = s.ptp := rfl
@[simp] theorem State.setRx_ref (s : State) (n : Nat) (v : RxSt) : (s.setRx n v).ref = s.ref := rfl
@[simp] theorem State.setRx_eth (s : State) (n : Nat) (v : RxSt) : (s.setRx n v).eth = s.eth := rfl
@[simp] theorem State.setRx_psm (s : State) (n : Nat) (v : RxSt) : (s.setRx n v).psm = s.psm := rfl
@[simp] theorem State.setRx_twin (s : State) (n : Nat) (v : RxSt) : (s.setRx n v).twin = s.twin := rfl
@[simp] theorem State.setRx_fab (s : State) (n : Nat) (v : RxSt) : (s.setRx n v).fab = s.fab := rfl
@[simp] theorem State.setRx_rails (s : State) (n : Nat) (v : RxSt) : (s.setRx n v).rails = s.rails := rfl
@[simp] theorem State.setRx_pwr (s : State) (n : Nat) (v : RxSt) : (s.setRx n v).pwr = s.pwr := rfl
@[simp] theorem State.setRx_lp (s : State) (n : Nat) (v : RxSt) : (s.setRx n v).lp = s.lp := rfl
@[simp] theorem State.setRx_getW (s : State) (n : Nat) (v : RxSt) (w : Nat) : (s.setRx n v).getW w = s.getW w := by simp [State.getW]
@[simp] theorem State.setRx_rd (s : State) (n : Nat) (v : RxSt) (fl : RField) : (s.setRx n v).rd fl = s.rd fl := by simp [State.rd]
@[simp] theorem State.setRx_on (s : State) (n : Nat) (v : RxSt) (fl : RField) : (s.setRx n v).on fl = s.on fl := by simp [State.on]
@[simp] theorem State.setRx_pend (s : State) (n : Nat) (v : RxSt) (pg bt : Nat) : (s.setRx n v).pend pg bt = s.pend pg bt := by simp [State.pend]

/-! `State.setTx`. -/

@[simp] theorem State.setTx_pending (s : State) (n : Nat) (v : TxSt) : (s.setTx n v).pending = s.pending := rfl
@[simp] theorem State.setTx_outs (s : State) (n : Nat) (v : TxSt) : (s.setTx n v).outs = s.outs := rfl
@[simp] theorem State.setTx_freeCtr (s : State) (n : Nat) (v : TxSt) : (s.setTx n v).freeCtr = s.freeCtr := rfl
@[simp] theorem State.setTx_clk (s : State) (n : Nat) (v : TxSt) : (s.setTx n v).clk = s.clk := rfl
@[simp] theorem State.setTx_tl (s : State) (n : Nat) (v : TxSt) : (s.setTx n v).tl = s.tl := rfl
@[simp] theorem State.setTx_smp (s : State) (n : Nat) (v : TxSt) : (s.setTx n v).smp = s.smp := rfl
@[simp] theorem State.setTx_tlOfs (s : State) (n : Nat) (v : TxSt) : (s.setTx n v).tlOfs = s.tlOfs := rfl
@[simp] theorem State.setTx_bndDue (s : State) (n : Nat) (v : TxSt) : (s.setTx n v).bndDue = s.bndDue := rfl
@[simp] theorem State.setTx_mode (s : State) (n : Nat) (v : TxSt) : (s.setTx n v).mode = s.mode := rfl
@[simp] theorem State.setTx_regs (s : State) (n : Nat) (v : TxSt) : (s.setTx n v).regs = s.regs := rfl
@[simp] theorem State.setTx_inForce (s : State) (n : Nat) (v : TxSt) : (s.setTx n v).inForce = s.inForce := rfl
@[simp] theorem State.setTx_host (s : State) (n : Nat) (v : TxSt) : (s.setTx n v).host = s.host := rfl
@[simp] theorem State.setTx_elog (s : State) (n : Nat) (v : TxSt) : (s.setTx n v).elog = s.elog := rfl
@[simp] theorem State.setTx_elogSeq (s : State) (n : Nat) (v : TxSt) : (s.setTx n v).elogSeq = s.elogSeq := rfl
@[simp] theorem State.setTx_slots (s : State) (n : Nat) (v : TxSt) : (s.setTx n v).slots = s.slots := rfl
@[simp] theorem State.setTx_dev (s : State) (n : Nat) (v : TxSt) : (s.setTx n v).dev = s.dev := rfl
@[simp] theorem State.setTx_active (s : State) (n : Nat) (v : TxSt) : (s.setTx n v).active = s.active := rfl
@[simp] theorem State.setTx_latent (s : State) (n : Nat) (v : TxSt) : (s.setTx n v).latent = s.latent := rfl
@[simp] theorem State.setTx_shm (s : State) (n : Nat) (v : TxSt) : (s.setTx n v).shm = s.shm := rfl
@[simp] theorem State.setTx_hens (s : State) (n : Nat) (v : TxSt) : (s.setTx n v).hens = s.hens := rfl
@[simp] theorem State.setTx_jobs (s : State) (n : Nat) (v : TxSt) : (s.setTx n v).jobs = s.jobs := rfl
@[simp] theorem State.setTx_audio (s : State) (n : Nat) (v : TxSt) : (s.setTx n v).audio = s.audio := rfl
@[simp] theorem State.setTx_ptp (s : State) (n : Nat) (v : TxSt) : (s.setTx n v).ptp = s.ptp := rfl
@[simp] theorem State.setTx_ref (s : State) (n : Nat) (v : TxSt) : (s.setTx n v).ref = s.ref := rfl
@[simp] theorem State.setTx_eth (s : State) (n : Nat) (v : TxSt) : (s.setTx n v).eth = s.eth := rfl
@[simp] theorem State.setTx_psm (s : State) (n : Nat) (v : TxSt) : (s.setTx n v).psm = s.psm := rfl
@[simp] theorem State.setTx_twin (s : State) (n : Nat) (v : TxSt) : (s.setTx n v).twin = s.twin := rfl
@[simp] theorem State.setTx_fab (s : State) (n : Nat) (v : TxSt) : (s.setTx n v).fab = s.fab := rfl
@[simp] theorem State.setTx_rails (s : State) (n : Nat) (v : TxSt) : (s.setTx n v).rails = s.rails := rfl
@[simp] theorem State.setTx_pwr (s : State) (n : Nat) (v : TxSt) : (s.setTx n v).pwr = s.pwr := rfl
@[simp] theorem State.setTx_lp (s : State) (n : Nat) (v : TxSt) : (s.setTx n v).lp = s.lp := rfl
@[simp] theorem State.setTx_getW (s : State) (n : Nat) (v : TxSt) (w : Nat) : (s.setTx n v).getW w = s.getW w := by simp [State.getW]
@[simp] theorem State.setTx_rd (s : State) (n : Nat) (v : TxSt) (fl : RField) : (s.setTx n v).rd fl = s.rd fl := by simp [State.rd]
@[simp] theorem State.setTx_on (s : State) (n : Nat) (v : TxSt) (fl : RField) : (s.setTx n v).on fl = s.on fl := by simp [State.on]
@[simp] theorem State.setTx_pend (s : State) (n : Nat) (v : TxSt) (pg bt : Nat) : (s.setTx n v).pend pg bt = s.pend pg bt := by simp [State.pend]

/-! `State.setHerd`. -/

@[simp] theorem State.setHerd_pending (s : State) (h : Nat) (v : HerdSt) : (s.setHerd h v).pending = s.pending := rfl
@[simp] theorem State.setHerd_outs (s : State) (h : Nat) (v : HerdSt) : (s.setHerd h v).outs = s.outs := rfl
@[simp] theorem State.setHerd_freeCtr (s : State) (h : Nat) (v : HerdSt) : (s.setHerd h v).freeCtr = s.freeCtr := rfl
@[simp] theorem State.setHerd_clk (s : State) (h : Nat) (v : HerdSt) : (s.setHerd h v).clk = s.clk := rfl
@[simp] theorem State.setHerd_tl (s : State) (h : Nat) (v : HerdSt) : (s.setHerd h v).tl = s.tl := rfl
@[simp] theorem State.setHerd_smp (s : State) (h : Nat) (v : HerdSt) : (s.setHerd h v).smp = s.smp := rfl
@[simp] theorem State.setHerd_tlOfs (s : State) (h : Nat) (v : HerdSt) : (s.setHerd h v).tlOfs = s.tlOfs := rfl
@[simp] theorem State.setHerd_bndDue (s : State) (h : Nat) (v : HerdSt) : (s.setHerd h v).bndDue = s.bndDue := rfl
@[simp] theorem State.setHerd_mode (s : State) (h : Nat) (v : HerdSt) : (s.setHerd h v).mode = s.mode := rfl
@[simp] theorem State.setHerd_regs (s : State) (h : Nat) (v : HerdSt) : (s.setHerd h v).regs = s.regs := rfl
@[simp] theorem State.setHerd_inForce (s : State) (h : Nat) (v : HerdSt) : (s.setHerd h v).inForce = s.inForce := rfl
@[simp] theorem State.setHerd_host (s : State) (h : Nat) (v : HerdSt) : (s.setHerd h v).host = s.host := rfl
@[simp] theorem State.setHerd_elog (s : State) (h : Nat) (v : HerdSt) : (s.setHerd h v).elog = s.elog := rfl
@[simp] theorem State.setHerd_elogSeq (s : State) (h : Nat) (v : HerdSt) : (s.setHerd h v).elogSeq = s.elogSeq := rfl
@[simp] theorem State.setHerd_slots (s : State) (h : Nat) (v : HerdSt) : (s.setHerd h v).slots = s.slots := rfl
@[simp] theorem State.setHerd_dev (s : State) (h : Nat) (v : HerdSt) : (s.setHerd h v).dev = s.dev := rfl
@[simp] theorem State.setHerd_active (s : State) (h : Nat) (v : HerdSt) : (s.setHerd h v).active = s.active := rfl
@[simp] theorem State.setHerd_latent (s : State) (h : Nat) (v : HerdSt) : (s.setHerd h v).latent = s.latent := rfl
@[simp] theorem State.setHerd_shm (s : State) (h : Nat) (v : HerdSt) : (s.setHerd h v).shm = s.shm := rfl
@[simp] theorem State.setHerd_hens (s : State) (h : Nat) (v : HerdSt) : (s.setHerd h v).hens = s.hens := rfl
@[simp] theorem State.setHerd_jobs (s : State) (h : Nat) (v : HerdSt) : (s.setHerd h v).jobs = s.jobs := rfl
@[simp] theorem State.setHerd_audio (s : State) (h : Nat) (v : HerdSt) : (s.setHerd h v).audio = s.audio := rfl
@[simp] theorem State.setHerd_ptp (s : State) (h : Nat) (v : HerdSt) : (s.setHerd h v).ptp = s.ptp := rfl
@[simp] theorem State.setHerd_ref (s : State) (h : Nat) (v : HerdSt) : (s.setHerd h v).ref = s.ref := rfl
@[simp] theorem State.setHerd_eth (s : State) (h : Nat) (v : HerdSt) : (s.setHerd h v).eth = s.eth := rfl
@[simp] theorem State.setHerd_psm (s : State) (h : Nat) (v : HerdSt) : (s.setHerd h v).psm = s.psm := rfl
@[simp] theorem State.setHerd_twin (s : State) (h : Nat) (v : HerdSt) : (s.setHerd h v).twin = s.twin := rfl
@[simp] theorem State.setHerd_fab (s : State) (h : Nat) (v : HerdSt) : (s.setHerd h v).fab = s.fab := rfl
@[simp] theorem State.setHerd_rails (s : State) (h : Nat) (v : HerdSt) : (s.setHerd h v).rails = s.rails := rfl
@[simp] theorem State.setHerd_pwr (s : State) (h : Nat) (v : HerdSt) : (s.setHerd h v).pwr = s.pwr := rfl
@[simp] theorem State.setHerd_lp (s : State) (h : Nat) (v : HerdSt) : (s.setHerd h v).lp = s.lp := rfl
@[simp] theorem State.setHerd_getW (s : State) (h : Nat) (v : HerdSt) (w : Nat) : (s.setHerd h v).getW w = s.getW w := by simp [State.getW]
@[simp] theorem State.setHerd_rd (s : State) (h : Nat) (v : HerdSt) (fl : RField) : (s.setHerd h v).rd fl = s.rd fl := by simp [State.rd]
@[simp] theorem State.setHerd_on (s : State) (h : Nat) (v : HerdSt) (fl : RField) : (s.setHerd h v).on fl = s.on fl := by simp [State.on]
@[simp] theorem State.setHerd_pend (s : State) (h : Nat) (v : HerdSt) (pg bt : Nat) : (s.setHerd h v).pend pg bt = s.pend pg bt := by simp [State.pend]

/-! `State.setPs`. -/

@[simp] theorem State.setPs_pending (s : State) (c : Nat) (v : PsCh) : (s.setPs c v).pending = s.pending := rfl
@[simp] theorem State.setPs_outs (s : State) (c : Nat) (v : PsCh) : (s.setPs c v).outs = s.outs := rfl
@[simp] theorem State.setPs_freeCtr (s : State) (c : Nat) (v : PsCh) : (s.setPs c v).freeCtr = s.freeCtr := rfl
@[simp] theorem State.setPs_clk (s : State) (c : Nat) (v : PsCh) : (s.setPs c v).clk = s.clk := rfl
@[simp] theorem State.setPs_tl (s : State) (c : Nat) (v : PsCh) : (s.setPs c v).tl = s.tl := rfl
@[simp] theorem State.setPs_smp (s : State) (c : Nat) (v : PsCh) : (s.setPs c v).smp = s.smp := rfl
@[simp] theorem State.setPs_tlOfs (s : State) (c : Nat) (v : PsCh) : (s.setPs c v).tlOfs = s.tlOfs := rfl
@[simp] theorem State.setPs_bndDue (s : State) (c : Nat) (v : PsCh) : (s.setPs c v).bndDue = s.bndDue := rfl
@[simp] theorem State.setPs_mode (s : State) (c : Nat) (v : PsCh) : (s.setPs c v).mode = s.mode := rfl
@[simp] theorem State.setPs_regs (s : State) (c : Nat) (v : PsCh) : (s.setPs c v).regs = s.regs := rfl
@[simp] theorem State.setPs_inForce (s : State) (c : Nat) (v : PsCh) : (s.setPs c v).inForce = s.inForce := rfl
@[simp] theorem State.setPs_host (s : State) (c : Nat) (v : PsCh) : (s.setPs c v).host = s.host := rfl
@[simp] theorem State.setPs_elog (s : State) (c : Nat) (v : PsCh) : (s.setPs c v).elog = s.elog := rfl
@[simp] theorem State.setPs_elogSeq (s : State) (c : Nat) (v : PsCh) : (s.setPs c v).elogSeq = s.elogSeq := rfl
@[simp] theorem State.setPs_slots (s : State) (c : Nat) (v : PsCh) : (s.setPs c v).slots = s.slots := rfl
@[simp] theorem State.setPs_dev (s : State) (c : Nat) (v : PsCh) : (s.setPs c v).dev = s.dev := rfl
@[simp] theorem State.setPs_active (s : State) (c : Nat) (v : PsCh) : (s.setPs c v).active = s.active := rfl
@[simp] theorem State.setPs_latent (s : State) (c : Nat) (v : PsCh) : (s.setPs c v).latent = s.latent := rfl
@[simp] theorem State.setPs_shm (s : State) (c : Nat) (v : PsCh) : (s.setPs c v).shm = s.shm := rfl
@[simp] theorem State.setPs_hens (s : State) (c : Nat) (v : PsCh) : (s.setPs c v).hens = s.hens := rfl
@[simp] theorem State.setPs_jobs (s : State) (c : Nat) (v : PsCh) : (s.setPs c v).jobs = s.jobs := rfl
@[simp] theorem State.setPs_audio (s : State) (c : Nat) (v : PsCh) : (s.setPs c v).audio = s.audio := rfl
@[simp] theorem State.setPs_ptp (s : State) (c : Nat) (v : PsCh) : (s.setPs c v).ptp = s.ptp := rfl
@[simp] theorem State.setPs_ref (s : State) (c : Nat) (v : PsCh) : (s.setPs c v).ref = s.ref := rfl
@[simp] theorem State.setPs_eth (s : State) (c : Nat) (v : PsCh) : (s.setPs c v).eth = s.eth := rfl
@[simp] theorem State.setPs_str (s : State) (c : Nat) (v : PsCh) : (s.setPs c v).str = s.str := rfl
@[simp] theorem State.setPs_twin (s : State) (c : Nat) (v : PsCh) : (s.setPs c v).twin = s.twin := rfl
@[simp] theorem State.setPs_fab (s : State) (c : Nat) (v : PsCh) : (s.setPs c v).fab = s.fab := rfl
@[simp] theorem State.setPs_rails (s : State) (c : Nat) (v : PsCh) : (s.setPs c v).rails = s.rails := rfl
@[simp] theorem State.setPs_pwr (s : State) (c : Nat) (v : PsCh) : (s.setPs c v).pwr = s.pwr := rfl
@[simp] theorem State.setPs_lp (s : State) (c : Nat) (v : PsCh) : (s.setPs c v).lp = s.lp := rfl
@[simp] theorem State.setPs_getW (s : State) (c : Nat) (v : PsCh) (w : Nat) : (s.setPs c v).getW w = s.getW w := by simp [State.getW]
@[simp] theorem State.setPs_rd (s : State) (c : Nat) (v : PsCh) (fl : RField) : (s.setPs c v).rd fl = s.rd fl := by simp [State.rd]
@[simp] theorem State.setPs_on (s : State) (c : Nat) (v : PsCh) (fl : RField) : (s.setPs c v).on fl = s.on fl := by simp [State.on]
@[simp] theorem State.setPs_pend (s : State) (c : Nat) (v : PsCh) (pg bt : Nat) : (s.setPs c v).pend pg bt = s.pend pg bt := by simp [State.pend]

/-! `State.setTwin`. -/

@[simp] theorem State.setTwin_pending (s : State) (t : TwinSt) : (s.setTwin t).pending = s.pending := rfl
@[simp] theorem State.setTwin_outs (s : State) (t : TwinSt) : (s.setTwin t).outs = s.outs := rfl
@[simp] theorem State.setTwin_freeCtr (s : State) (t : TwinSt) : (s.setTwin t).freeCtr = s.freeCtr := rfl
@[simp] theorem State.setTwin_clk (s : State) (t : TwinSt) : (s.setTwin t).clk = s.clk := rfl
@[simp] theorem State.setTwin_tl (s : State) (t : TwinSt) : (s.setTwin t).tl = s.tl := rfl
@[simp] theorem State.setTwin_smp (s : State) (t : TwinSt) : (s.setTwin t).smp = s.smp := rfl
@[simp] theorem State.setTwin_tlOfs (s : State) (t : TwinSt) : (s.setTwin t).tlOfs = s.tlOfs := rfl
@[simp] theorem State.setTwin_bndDue (s : State) (t : TwinSt) : (s.setTwin t).bndDue = s.bndDue := rfl
@[simp] theorem State.setTwin_mode (s : State) (t : TwinSt) : (s.setTwin t).mode = s.mode := rfl
@[simp] theorem State.setTwin_regs (s : State) (t : TwinSt) : (s.setTwin t).regs = s.regs := rfl
@[simp] theorem State.setTwin_inForce (s : State) (t : TwinSt) : (s.setTwin t).inForce = s.inForce := rfl
@[simp] theorem State.setTwin_host (s : State) (t : TwinSt) : (s.setTwin t).host = s.host := rfl
@[simp] theorem State.setTwin_elog (s : State) (t : TwinSt) : (s.setTwin t).elog = s.elog := rfl
@[simp] theorem State.setTwin_elogSeq (s : State) (t : TwinSt) : (s.setTwin t).elogSeq = s.elogSeq := rfl
@[simp] theorem State.setTwin_slots (s : State) (t : TwinSt) : (s.setTwin t).slots = s.slots := rfl
@[simp] theorem State.setTwin_dev (s : State) (t : TwinSt) : (s.setTwin t).dev = s.dev := rfl
@[simp] theorem State.setTwin_active (s : State) (t : TwinSt) : (s.setTwin t).active = s.active := rfl
@[simp] theorem State.setTwin_latent (s : State) (t : TwinSt) : (s.setTwin t).latent = s.latent := rfl
@[simp] theorem State.setTwin_shm (s : State) (t : TwinSt) : (s.setTwin t).shm = s.shm := rfl
@[simp] theorem State.setTwin_hens (s : State) (t : TwinSt) : (s.setTwin t).hens = s.hens := rfl
@[simp] theorem State.setTwin_jobs (s : State) (t : TwinSt) : (s.setTwin t).jobs = s.jobs := rfl
@[simp] theorem State.setTwin_audio (s : State) (t : TwinSt) : (s.setTwin t).audio = s.audio := rfl
@[simp] theorem State.setTwin_ptp (s : State) (t : TwinSt) : (s.setTwin t).ptp = s.ptp := rfl
@[simp] theorem State.setTwin_ref (s : State) (t : TwinSt) : (s.setTwin t).ref = s.ref := rfl
@[simp] theorem State.setTwin_eth (s : State) (t : TwinSt) : (s.setTwin t).eth = s.eth := rfl
@[simp] theorem State.setTwin_str (s : State) (t : TwinSt) : (s.setTwin t).str = s.str := rfl
@[simp] theorem State.setTwin_psm (s : State) (t : TwinSt) : (s.setTwin t).psm = s.psm := rfl
@[simp] theorem State.setTwin_fab (s : State) (t : TwinSt) : (s.setTwin t).fab = s.fab := rfl
@[simp] theorem State.setTwin_rails (s : State) (t : TwinSt) : (s.setTwin t).rails = s.rails := rfl
@[simp] theorem State.setTwin_pwr (s : State) (t : TwinSt) : (s.setTwin t).pwr = s.pwr := rfl
@[simp] theorem State.setTwin_lp (s : State) (t : TwinSt) : (s.setTwin t).lp = s.lp := rfl
@[simp] theorem State.setTwin_getW (s : State) (t : TwinSt) (w : Nat) : (s.setTwin t).getW w = s.getW w := by simp [State.getW]
@[simp] theorem State.setTwin_rd (s : State) (t : TwinSt) (fl : RField) : (s.setTwin t).rd fl = s.rd fl := by simp [State.rd]
@[simp] theorem State.setTwin_on (s : State) (t : TwinSt) (fl : RField) : (s.setTwin t).on fl = s.on fl := by simp [State.on]
@[simp] theorem State.setTwin_pend (s : State) (t : TwinSt) (pg bt : Nat) : (s.setTwin t).pend pg bt = s.pend pg bt := by simp [State.pend]

/-! `State.setCand`. -/

@[simp] theorem State.setCand_pending (s : State) (n : Nat) (c : CandSt) : (s.setCand n c).pending = s.pending := rfl
@[simp] theorem State.setCand_outs (s : State) (n : Nat) (c : CandSt) : (s.setCand n c).outs = s.outs := rfl
@[simp] theorem State.setCand_freeCtr (s : State) (n : Nat) (c : CandSt) : (s.setCand n c).freeCtr = s.freeCtr := rfl
@[simp] theorem State.setCand_clk (s : State) (n : Nat) (c : CandSt) : (s.setCand n c).clk = s.clk := rfl
@[simp] theorem State.setCand_tl (s : State) (n : Nat) (c : CandSt) : (s.setCand n c).tl = s.tl := rfl
@[simp] theorem State.setCand_smp (s : State) (n : Nat) (c : CandSt) : (s.setCand n c).smp = s.smp := rfl
@[simp] theorem State.setCand_tlOfs (s : State) (n : Nat) (c : CandSt) : (s.setCand n c).tlOfs = s.tlOfs := rfl
@[simp] theorem State.setCand_bndDue (s : State) (n : Nat) (c : CandSt) : (s.setCand n c).bndDue = s.bndDue := rfl
@[simp] theorem State.setCand_mode (s : State) (n : Nat) (c : CandSt) : (s.setCand n c).mode = s.mode := rfl
@[simp] theorem State.setCand_regs (s : State) (n : Nat) (c : CandSt) : (s.setCand n c).regs = s.regs := rfl
@[simp] theorem State.setCand_inForce (s : State) (n : Nat) (c : CandSt) : (s.setCand n c).inForce = s.inForce := rfl
@[simp] theorem State.setCand_host (s : State) (n : Nat) (c : CandSt) : (s.setCand n c).host = s.host := rfl
@[simp] theorem State.setCand_elog (s : State) (n : Nat) (c : CandSt) : (s.setCand n c).elog = s.elog := rfl
@[simp] theorem State.setCand_elogSeq (s : State) (n : Nat) (c : CandSt) : (s.setCand n c).elogSeq = s.elogSeq := rfl
@[simp] theorem State.setCand_slots (s : State) (n : Nat) (c : CandSt) : (s.setCand n c).slots = s.slots := rfl
@[simp] theorem State.setCand_dev (s : State) (n : Nat) (c : CandSt) : (s.setCand n c).dev = s.dev := rfl
@[simp] theorem State.setCand_active (s : State) (n : Nat) (c : CandSt) : (s.setCand n c).active = s.active := rfl
@[simp] theorem State.setCand_latent (s : State) (n : Nat) (c : CandSt) : (s.setCand n c).latent = s.latent := rfl
@[simp] theorem State.setCand_shm (s : State) (n : Nat) (c : CandSt) : (s.setCand n c).shm = s.shm := rfl
@[simp] theorem State.setCand_hens (s : State) (n : Nat) (c : CandSt) : (s.setCand n c).hens = s.hens := rfl
@[simp] theorem State.setCand_jobs (s : State) (n : Nat) (c : CandSt) : (s.setCand n c).jobs = s.jobs := rfl
@[simp] theorem State.setCand_audio (s : State) (n : Nat) (c : CandSt) : (s.setCand n c).audio = s.audio := rfl
@[simp] theorem State.setCand_ptp (s : State) (n : Nat) (c : CandSt) : (s.setCand n c).ptp = s.ptp := rfl
@[simp] theorem State.setCand_eth (s : State) (n : Nat) (c : CandSt) : (s.setCand n c).eth = s.eth := rfl
@[simp] theorem State.setCand_str (s : State) (n : Nat) (c : CandSt) : (s.setCand n c).str = s.str := rfl
@[simp] theorem State.setCand_psm (s : State) (n : Nat) (c : CandSt) : (s.setCand n c).psm = s.psm := rfl
@[simp] theorem State.setCand_twin (s : State) (n : Nat) (c : CandSt) : (s.setCand n c).twin = s.twin := rfl
@[simp] theorem State.setCand_fab (s : State) (n : Nat) (c : CandSt) : (s.setCand n c).fab = s.fab := rfl
@[simp] theorem State.setCand_rails (s : State) (n : Nat) (c : CandSt) : (s.setCand n c).rails = s.rails := rfl
@[simp] theorem State.setCand_pwr (s : State) (n : Nat) (c : CandSt) : (s.setCand n c).pwr = s.pwr := rfl
@[simp] theorem State.setCand_lp (s : State) (n : Nat) (c : CandSt) : (s.setCand n c).lp = s.lp := rfl
@[simp] theorem State.setCand_getW (s : State) (n : Nat) (c : CandSt) (w : Nat) : (s.setCand n c).getW w = s.getW w := by simp [State.getW]
@[simp] theorem State.setCand_rd (s : State) (n : Nat) (c : CandSt) (fl : RField) : (s.setCand n c).rd fl = s.rd fl := by simp [State.rd]
@[simp] theorem State.setCand_on (s : State) (n : Nat) (c : CandSt) (fl : RField) : (s.setCand n c).on fl = s.on fl := by simp [State.on]
@[simp] theorem State.setCand_pend (s : State) (n : Nat) (c : CandSt) (pg bt : Nat) : (s.setCand n c).pend pg bt = s.pend pg bt := by simp [State.pend]

/-! `State.setDip`. -/

@[simp] theorem State.setDip_pending (s : State) (r : Rail) (d : Option Dip) (mv : Nat) : (s.setDip r d mv).pending = s.pending := by cases r <;> rfl
@[simp] theorem State.setDip_outs (s : State) (r : Rail) (d : Option Dip) (mv : Nat) : (s.setDip r d mv).outs = s.outs := by cases r <;> rfl
@[simp] theorem State.setDip_freeCtr (s : State) (r : Rail) (d : Option Dip) (mv : Nat) : (s.setDip r d mv).freeCtr = s.freeCtr := by cases r <;> rfl
@[simp] theorem State.setDip_clk (s : State) (r : Rail) (d : Option Dip) (mv : Nat) : (s.setDip r d mv).clk = s.clk := by cases r <;> rfl
@[simp] theorem State.setDip_tl (s : State) (r : Rail) (d : Option Dip) (mv : Nat) : (s.setDip r d mv).tl = s.tl := by cases r <;> rfl
@[simp] theorem State.setDip_smp (s : State) (r : Rail) (d : Option Dip) (mv : Nat) : (s.setDip r d mv).smp = s.smp := by cases r <;> rfl
@[simp] theorem State.setDip_tlOfs (s : State) (r : Rail) (d : Option Dip) (mv : Nat) : (s.setDip r d mv).tlOfs = s.tlOfs := by cases r <;> rfl
@[simp] theorem State.setDip_bndDue (s : State) (r : Rail) (d : Option Dip) (mv : Nat) : (s.setDip r d mv).bndDue = s.bndDue := by cases r <;> rfl
@[simp] theorem State.setDip_mode (s : State) (r : Rail) (d : Option Dip) (mv : Nat) : (s.setDip r d mv).mode = s.mode := by cases r <;> rfl
@[simp] theorem State.setDip_regs (s : State) (r : Rail) (d : Option Dip) (mv : Nat) : (s.setDip r d mv).regs = s.regs := by cases r <;> rfl
@[simp] theorem State.setDip_inForce (s : State) (r : Rail) (d : Option Dip) (mv : Nat) : (s.setDip r d mv).inForce = s.inForce := by cases r <;> rfl
@[simp] theorem State.setDip_host (s : State) (r : Rail) (d : Option Dip) (mv : Nat) : (s.setDip r d mv).host = s.host := by cases r <;> rfl
@[simp] theorem State.setDip_elog (s : State) (r : Rail) (d : Option Dip) (mv : Nat) : (s.setDip r d mv).elog = s.elog := by cases r <;> rfl
@[simp] theorem State.setDip_elogSeq (s : State) (r : Rail) (d : Option Dip) (mv : Nat) : (s.setDip r d mv).elogSeq = s.elogSeq := by cases r <;> rfl
@[simp] theorem State.setDip_slots (s : State) (r : Rail) (d : Option Dip) (mv : Nat) : (s.setDip r d mv).slots = s.slots := by cases r <;> rfl
@[simp] theorem State.setDip_dev (s : State) (r : Rail) (d : Option Dip) (mv : Nat) : (s.setDip r d mv).dev = s.dev := by cases r <;> rfl
@[simp] theorem State.setDip_active (s : State) (r : Rail) (d : Option Dip) (mv : Nat) : (s.setDip r d mv).active = s.active := by cases r <;> rfl
@[simp] theorem State.setDip_latent (s : State) (r : Rail) (d : Option Dip) (mv : Nat) : (s.setDip r d mv).latent = s.latent := by cases r <;> rfl
@[simp] theorem State.setDip_shm (s : State) (r : Rail) (d : Option Dip) (mv : Nat) : (s.setDip r d mv).shm = s.shm := by cases r <;> rfl
@[simp] theorem State.setDip_hens (s : State) (r : Rail) (d : Option Dip) (mv : Nat) : (s.setDip r d mv).hens = s.hens := by cases r <;> rfl
@[simp] theorem State.setDip_jobs (s : State) (r : Rail) (d : Option Dip) (mv : Nat) : (s.setDip r d mv).jobs = s.jobs := by cases r <;> rfl
@[simp] theorem State.setDip_audio (s : State) (r : Rail) (d : Option Dip) (mv : Nat) : (s.setDip r d mv).audio = s.audio := by cases r <;> rfl
@[simp] theorem State.setDip_ptp (s : State) (r : Rail) (d : Option Dip) (mv : Nat) : (s.setDip r d mv).ptp = s.ptp := by cases r <;> rfl
@[simp] theorem State.setDip_ref (s : State) (r : Rail) (d : Option Dip) (mv : Nat) : (s.setDip r d mv).ref = s.ref := by cases r <;> rfl
@[simp] theorem State.setDip_eth (s : State) (r : Rail) (d : Option Dip) (mv : Nat) : (s.setDip r d mv).eth = s.eth := by cases r <;> rfl
@[simp] theorem State.setDip_str (s : State) (r : Rail) (d : Option Dip) (mv : Nat) : (s.setDip r d mv).str = s.str := by cases r <;> rfl
@[simp] theorem State.setDip_psm (s : State) (r : Rail) (d : Option Dip) (mv : Nat) : (s.setDip r d mv).psm = s.psm := by cases r <;> rfl
@[simp] theorem State.setDip_twin (s : State) (r : Rail) (d : Option Dip) (mv : Nat) : (s.setDip r d mv).twin = s.twin := by cases r <;> rfl
@[simp] theorem State.setDip_fab (s : State) (r : Rail) (d : Option Dip) (mv : Nat) : (s.setDip r d mv).fab = s.fab := by cases r <;> rfl
@[simp] theorem State.setDip_rails (s : State) (r : Rail) (d : Option Dip) (mv : Nat) : (s.setDip r d mv).rails = s.rails := by cases r <;> rfl
@[simp] theorem State.setDip_lp (s : State) (r : Rail) (d : Option Dip) (mv : Nat) : (s.setDip r d mv).lp = s.lp := by cases r <;> rfl
@[simp] theorem State.setDip_getW (s : State) (r : Rail) (d : Option Dip) (mv : Nat) (w : Nat) : (s.setDip r d mv).getW w = s.getW w := by simp [State.getW]
@[simp] theorem State.setDip_rd (s : State) (r : Rail) (d : Option Dip) (mv : Nat) (fl : RField) : (s.setDip r d mv).rd fl = s.rd fl := by simp [State.rd]
@[simp] theorem State.setDip_on (s : State) (r : Rail) (d : Option Dip) (mv : Nat) (fl : RField) : (s.setDip r d mv).on fl = s.on fl := by simp [State.on]
@[simp] theorem State.setDip_pend (s : State) (r : Rail) (d : Option Dip) (mv : Nat) (pg bt : Nat) : (s.setDip r d mv).pend pg bt = s.pend pg bt := by simp [State.pend]

/-! `State.inc`. -/

@[simp] theorem State.inc_pending (s : State) (f : RField) : (s.inc f).pending = s.pending := by unfold State.inc; split <;> rfl
@[simp] theorem State.inc_outs (s : State) (f : RField) : (s.inc f).outs = s.outs := by unfold State.inc; split <;> rfl
@[simp] theorem State.inc_freeCtr (s : State) (f : RField) : (s.inc f).freeCtr = s.freeCtr := by unfold State.inc; split <;> rfl
@[simp] theorem State.inc_clk (s : State) (f : RField) : (s.inc f).clk = s.clk := by unfold State.inc; split <;> rfl
@[simp] theorem State.inc_tl (s : State) (f : RField) : (s.inc f).tl = s.tl := by unfold State.inc; split <;> rfl
@[simp] theorem State.inc_smp (s : State) (f : RField) : (s.inc f).smp = s.smp := by unfold State.inc; split <;> rfl
@[simp] theorem State.inc_tlOfs (s : State) (f : RField) : (s.inc f).tlOfs = s.tlOfs := by unfold State.inc; split <;> rfl
@[simp] theorem State.inc_bndDue (s : State) (f : RField) : (s.inc f).bndDue = s.bndDue := by unfold State.inc; split <;> rfl
@[simp] theorem State.inc_mode (s : State) (f : RField) : (s.inc f).mode = s.mode := by unfold State.inc; split <;> rfl
@[simp] theorem State.inc_inForce (s : State) (f : RField) : (s.inc f).inForce = s.inForce := by unfold State.inc; split <;> rfl
@[simp] theorem State.inc_host (s : State) (f : RField) : (s.inc f).host = s.host := by unfold State.inc; split <;> rfl
@[simp] theorem State.inc_elog (s : State) (f : RField) : (s.inc f).elog = s.elog := by unfold State.inc; split <;> rfl
@[simp] theorem State.inc_elogSeq (s : State) (f : RField) : (s.inc f).elogSeq = s.elogSeq := by unfold State.inc; split <;> rfl
@[simp] theorem State.inc_slots (s : State) (f : RField) : (s.inc f).slots = s.slots := by unfold State.inc; split <;> rfl
@[simp] theorem State.inc_dev (s : State) (f : RField) : (s.inc f).dev = s.dev := by unfold State.inc; split <;> rfl
@[simp] theorem State.inc_active (s : State) (f : RField) : (s.inc f).active = s.active := by unfold State.inc; split <;> rfl
@[simp] theorem State.inc_latent (s : State) (f : RField) : (s.inc f).latent = s.latent := by unfold State.inc; split <;> rfl
@[simp] theorem State.inc_shm (s : State) (f : RField) : (s.inc f).shm = s.shm := by unfold State.inc; split <;> rfl
@[simp] theorem State.inc_hens (s : State) (f : RField) : (s.inc f).hens = s.hens := by unfold State.inc; split <;> rfl
@[simp] theorem State.inc_jobs (s : State) (f : RField) : (s.inc f).jobs = s.jobs := by unfold State.inc; split <;> rfl
@[simp] theorem State.inc_audio (s : State) (f : RField) : (s.inc f).audio = s.audio := by unfold State.inc; split <;> rfl
@[simp] theorem State.inc_ptp (s : State) (f : RField) : (s.inc f).ptp = s.ptp := by unfold State.inc; split <;> rfl
@[simp] theorem State.inc_ref (s : State) (f : RField) : (s.inc f).ref = s.ref := by unfold State.inc; split <;> rfl
@[simp] theorem State.inc_eth (s : State) (f : RField) : (s.inc f).eth = s.eth := by unfold State.inc; split <;> rfl
@[simp] theorem State.inc_str (s : State) (f : RField) : (s.inc f).str = s.str := by unfold State.inc; split <;> rfl
@[simp] theorem State.inc_psm (s : State) (f : RField) : (s.inc f).psm = s.psm := by unfold State.inc; split <;> rfl
@[simp] theorem State.inc_twin (s : State) (f : RField) : (s.inc f).twin = s.twin := by unfold State.inc; split <;> rfl
@[simp] theorem State.inc_fab (s : State) (f : RField) : (s.inc f).fab = s.fab := by unfold State.inc; split <;> rfl
@[simp] theorem State.inc_rails (s : State) (f : RField) : (s.inc f).rails = s.rails := by unfold State.inc; split <;> rfl
@[simp] theorem State.inc_pwr (s : State) (f : RField) : (s.inc f).pwr = s.pwr := by unfold State.inc; split <;> rfl
@[simp] theorem State.inc_lp (s : State) (f : RField) : (s.inc f).lp = s.lp := by unfold State.inc; split <;> rfl

/-! `State.incBy`. -/

@[simp] theorem State.incBy_pending (s : State) (f : RField) (k : Nat) : (s.incBy f k).pending = s.pending := by unfold State.incBy; split <;> rfl
@[simp] theorem State.incBy_outs (s : State) (f : RField) (k : Nat) : (s.incBy f k).outs = s.outs := by unfold State.incBy; split <;> rfl
@[simp] theorem State.incBy_freeCtr (s : State) (f : RField) (k : Nat) : (s.incBy f k).freeCtr = s.freeCtr := by unfold State.incBy; split <;> rfl
@[simp] theorem State.incBy_clk (s : State) (f : RField) (k : Nat) : (s.incBy f k).clk = s.clk := by unfold State.incBy; split <;> rfl
@[simp] theorem State.incBy_tl (s : State) (f : RField) (k : Nat) : (s.incBy f k).tl = s.tl := by unfold State.incBy; split <;> rfl
@[simp] theorem State.incBy_smp (s : State) (f : RField) (k : Nat) : (s.incBy f k).smp = s.smp := by unfold State.incBy; split <;> rfl
@[simp] theorem State.incBy_tlOfs (s : State) (f : RField) (k : Nat) : (s.incBy f k).tlOfs = s.tlOfs := by unfold State.incBy; split <;> rfl
@[simp] theorem State.incBy_bndDue (s : State) (f : RField) (k : Nat) : (s.incBy f k).bndDue = s.bndDue := by unfold State.incBy; split <;> rfl
@[simp] theorem State.incBy_mode (s : State) (f : RField) (k : Nat) : (s.incBy f k).mode = s.mode := by unfold State.incBy; split <;> rfl
@[simp] theorem State.incBy_inForce (s : State) (f : RField) (k : Nat) : (s.incBy f k).inForce = s.inForce := by unfold State.incBy; split <;> rfl
@[simp] theorem State.incBy_host (s : State) (f : RField) (k : Nat) : (s.incBy f k).host = s.host := by unfold State.incBy; split <;> rfl
@[simp] theorem State.incBy_elog (s : State) (f : RField) (k : Nat) : (s.incBy f k).elog = s.elog := by unfold State.incBy; split <;> rfl
@[simp] theorem State.incBy_elogSeq (s : State) (f : RField) (k : Nat) : (s.incBy f k).elogSeq = s.elogSeq := by unfold State.incBy; split <;> rfl
@[simp] theorem State.incBy_slots (s : State) (f : RField) (k : Nat) : (s.incBy f k).slots = s.slots := by unfold State.incBy; split <;> rfl
@[simp] theorem State.incBy_dev (s : State) (f : RField) (k : Nat) : (s.incBy f k).dev = s.dev := by unfold State.incBy; split <;> rfl
@[simp] theorem State.incBy_active (s : State) (f : RField) (k : Nat) : (s.incBy f k).active = s.active := by unfold State.incBy; split <;> rfl
@[simp] theorem State.incBy_latent (s : State) (f : RField) (k : Nat) : (s.incBy f k).latent = s.latent := by unfold State.incBy; split <;> rfl
@[simp] theorem State.incBy_shm (s : State) (f : RField) (k : Nat) : (s.incBy f k).shm = s.shm := by unfold State.incBy; split <;> rfl
@[simp] theorem State.incBy_hens (s : State) (f : RField) (k : Nat) : (s.incBy f k).hens = s.hens := by unfold State.incBy; split <;> rfl
@[simp] theorem State.incBy_jobs (s : State) (f : RField) (k : Nat) : (s.incBy f k).jobs = s.jobs := by unfold State.incBy; split <;> rfl
@[simp] theorem State.incBy_audio (s : State) (f : RField) (k : Nat) : (s.incBy f k).audio = s.audio := by unfold State.incBy; split <;> rfl
@[simp] theorem State.incBy_ptp (s : State) (f : RField) (k : Nat) : (s.incBy f k).ptp = s.ptp := by unfold State.incBy; split <;> rfl
@[simp] theorem State.incBy_ref (s : State) (f : RField) (k : Nat) : (s.incBy f k).ref = s.ref := by unfold State.incBy; split <;> rfl
@[simp] theorem State.incBy_eth (s : State) (f : RField) (k : Nat) : (s.incBy f k).eth = s.eth := by unfold State.incBy; split <;> rfl
@[simp] theorem State.incBy_str (s : State) (f : RField) (k : Nat) : (s.incBy f k).str = s.str := by unfold State.incBy; split <;> rfl
@[simp] theorem State.incBy_psm (s : State) (f : RField) (k : Nat) : (s.incBy f k).psm = s.psm := by unfold State.incBy; split <;> rfl
@[simp] theorem State.incBy_twin (s : State) (f : RField) (k : Nat) : (s.incBy f k).twin = s.twin := by unfold State.incBy; split <;> rfl
@[simp] theorem State.incBy_fab (s : State) (f : RField) (k : Nat) : (s.incBy f k).fab = s.fab := by unfold State.incBy; split <;> rfl
@[simp] theorem State.incBy_rails (s : State) (f : RField) (k : Nat) : (s.incBy f k).rails = s.rails := by unfold State.incBy; split <;> rfl
@[simp] theorem State.incBy_pwr (s : State) (f : RField) (k : Nat) : (s.incBy f k).pwr = s.pwr := by unfold State.incBy; split <;> rfl
@[simp] theorem State.incBy_lp (s : State) (f : RField) (k : Nat) : (s.incBy f k).lp = s.lp := by unfold State.incBy; split <;> rfl

/-! `State.err`. -/

@[simp] theorem State.err_pending (s : State) (page off code path : Nat) (data : Word) : (s.err page off code path data).pending = s.pending := by
  unfold State.err; rw [State.raise_pending, State.logRec_pending, State.setW_pending, State.setW_pending, State.setW_pending, State.inc_pending]
@[simp] theorem State.err_outs (s : State) (page off code path : Nat) (data : Word) : (s.err page off code path data).outs = s.outs := by
  unfold State.err; rw [State.raise_outs, State.logRec_outs, State.setW_outs, State.setW_outs, State.setW_outs, State.inc_outs]
@[simp] theorem State.err_freeCtr (s : State) (page off code path : Nat) (data : Word) : (s.err page off code path data).freeCtr = s.freeCtr := by
  unfold State.err; rw [State.raise_freeCtr, State.logRec_freeCtr, State.setW_freeCtr, State.setW_freeCtr, State.setW_freeCtr, State.inc_freeCtr]
@[simp] theorem State.err_clk (s : State) (page off code path : Nat) (data : Word) : (s.err page off code path data).clk = s.clk := by
  unfold State.err; rw [State.raise_clk, State.logRec_clk, State.setW_clk, State.setW_clk, State.setW_clk, State.inc_clk]
@[simp] theorem State.err_tl (s : State) (page off code path : Nat) (data : Word) : (s.err page off code path data).tl = s.tl := by
  unfold State.err; rw [State.raise_tl, State.logRec_tl, State.setW_tl, State.setW_tl, State.setW_tl, State.inc_tl]
@[simp] theorem State.err_smp (s : State) (page off code path : Nat) (data : Word) : (s.err page off code path data).smp = s.smp := by
  unfold State.err; rw [State.raise_smp, State.logRec_smp, State.setW_smp, State.setW_smp, State.setW_smp, State.inc_smp]
@[simp] theorem State.err_tlOfs (s : State) (page off code path : Nat) (data : Word) : (s.err page off code path data).tlOfs = s.tlOfs := by
  unfold State.err; rw [State.raise_tlOfs, State.logRec_tlOfs, State.setW_tlOfs, State.setW_tlOfs, State.setW_tlOfs, State.inc_tlOfs]
@[simp] theorem State.err_bndDue (s : State) (page off code path : Nat) (data : Word) : (s.err page off code path data).bndDue = s.bndDue := by
  unfold State.err; rw [State.raise_bndDue, State.logRec_bndDue, State.setW_bndDue, State.setW_bndDue, State.setW_bndDue, State.inc_bndDue]
@[simp] theorem State.err_mode (s : State) (page off code path : Nat) (data : Word) : (s.err page off code path data).mode = s.mode := by
  unfold State.err; rw [State.raise_mode, State.logRec_mode, State.setW_mode, State.setW_mode, State.setW_mode, State.inc_mode]
@[simp] theorem State.err_inForce (s : State) (page off code path : Nat) (data : Word) : (s.err page off code path data).inForce = s.inForce := by
  unfold State.err; rw [State.raise_inForce, State.logRec_inForce, State.setW_inForce, State.setW_inForce, State.setW_inForce, State.inc_inForce]
@[simp] theorem State.err_host (s : State) (page off code path : Nat) (data : Word) : (s.err page off code path data).host = s.host := by
  unfold State.err; rw [State.raise_host, State.logRec_host, State.setW_host, State.setW_host, State.setW_host, State.inc_host]
@[simp] theorem State.err_slots (s : State) (page off code path : Nat) (data : Word) : (s.err page off code path data).slots = s.slots := by
  unfold State.err; rw [State.raise_slots, State.logRec_slots, State.setW_slots, State.setW_slots, State.setW_slots, State.inc_slots]
@[simp] theorem State.err_dev (s : State) (page off code path : Nat) (data : Word) : (s.err page off code path data).dev = s.dev := by
  unfold State.err; rw [State.raise_dev, State.logRec_dev, State.setW_dev, State.setW_dev, State.setW_dev, State.inc_dev]
@[simp] theorem State.err_active (s : State) (page off code path : Nat) (data : Word) : (s.err page off code path data).active = s.active := by
  unfold State.err; rw [State.raise_active, State.logRec_active, State.setW_active, State.setW_active, State.setW_active, State.inc_active]
@[simp] theorem State.err_latent (s : State) (page off code path : Nat) (data : Word) : (s.err page off code path data).latent = s.latent := by
  unfold State.err; rw [State.raise_latent, State.logRec_latent, State.setW_latent, State.setW_latent, State.setW_latent, State.inc_latent]
@[simp] theorem State.err_shm (s : State) (page off code path : Nat) (data : Word) : (s.err page off code path data).shm = s.shm := by
  unfold State.err; rw [State.raise_shm, State.logRec_shm, State.setW_shm, State.setW_shm, State.setW_shm, State.inc_shm]
@[simp] theorem State.err_hens (s : State) (page off code path : Nat) (data : Word) : (s.err page off code path data).hens = s.hens := by
  unfold State.err; rw [State.raise_hens, State.logRec_hens, State.setW_hens, State.setW_hens, State.setW_hens, State.inc_hens]
@[simp] theorem State.err_jobs (s : State) (page off code path : Nat) (data : Word) : (s.err page off code path data).jobs = s.jobs := by
  unfold State.err; rw [State.raise_jobs, State.logRec_jobs, State.setW_jobs, State.setW_jobs, State.setW_jobs, State.inc_jobs]
@[simp] theorem State.err_audio (s : State) (page off code path : Nat) (data : Word) : (s.err page off code path data).audio = s.audio := by
  unfold State.err; rw [State.raise_audio, State.logRec_audio, State.setW_audio, State.setW_audio, State.setW_audio, State.inc_audio]
@[simp] theorem State.err_ptp (s : State) (page off code path : Nat) (data : Word) : (s.err page off code path data).ptp = s.ptp := by
  unfold State.err; rw [State.raise_ptp, State.logRec_ptp, State.setW_ptp, State.setW_ptp, State.setW_ptp, State.inc_ptp]
@[simp] theorem State.err_ref (s : State) (page off code path : Nat) (data : Word) : (s.err page off code path data).ref = s.ref := by
  unfold State.err; rw [State.raise_ref, State.logRec_ref, State.setW_ref, State.setW_ref, State.setW_ref, State.inc_ref]
@[simp] theorem State.err_eth (s : State) (page off code path : Nat) (data : Word) : (s.err page off code path data).eth = s.eth := by
  unfold State.err; rw [State.raise_eth, State.logRec_eth, State.setW_eth, State.setW_eth, State.setW_eth, State.inc_eth]
@[simp] theorem State.err_str (s : State) (page off code path : Nat) (data : Word) : (s.err page off code path data).str = s.str := by
  unfold State.err; rw [State.raise_str, State.logRec_str, State.setW_str, State.setW_str, State.setW_str, State.inc_str]
@[simp] theorem State.err_psm (s : State) (page off code path : Nat) (data : Word) : (s.err page off code path data).psm = s.psm := by
  unfold State.err; rw [State.raise_psm, State.logRec_psm, State.setW_psm, State.setW_psm, State.setW_psm, State.inc_psm]
@[simp] theorem State.err_twin (s : State) (page off code path : Nat) (data : Word) : (s.err page off code path data).twin = s.twin := by
  unfold State.err; rw [State.raise_twin, State.logRec_twin, State.setW_twin, State.setW_twin, State.setW_twin, State.inc_twin]
@[simp] theorem State.err_fab (s : State) (page off code path : Nat) (data : Word) : (s.err page off code path data).fab = s.fab := by
  unfold State.err; rw [State.raise_fab, State.logRec_fab, State.setW_fab, State.setW_fab, State.setW_fab, State.inc_fab]
@[simp] theorem State.err_rails (s : State) (page off code path : Nat) (data : Word) : (s.err page off code path data).rails = s.rails := by
  unfold State.err; rw [State.raise_rails, State.logRec_rails, State.setW_rails, State.setW_rails, State.setW_rails, State.inc_rails]
@[simp] theorem State.err_pwr (s : State) (page off code path : Nat) (data : Word) : (s.err page off code path data).pwr = s.pwr := by
  unfold State.err; rw [State.raise_pwr, State.logRec_pwr, State.setW_pwr, State.setW_pwr, State.setW_pwr, State.inc_pwr]
@[simp] theorem State.err_lp (s : State) (page off code path : Nat) (data : Word) : (s.err page off code path data).lp = s.lp := by
  unfold State.err; rw [State.raise_lp, State.logRec_lp, State.setW_lp, State.setW_lp, State.setW_lp, State.inc_lp]

/-! `State.emitAll`. -/

@[simp] theorem State.emitAll_pending (s : State) (es : List Emit) : (s.emitAll es).pending = s.pending := by
  induction es generalizing s with
  | nil => rfl
  | cons e t ih => exact ih (s.emit e)
@[simp] theorem State.emitAll_freeCtr (s : State) (es : List Emit) : (s.emitAll es).freeCtr = s.freeCtr := by
  induction es generalizing s with
  | nil => rfl
  | cons e t ih => exact ih (s.emit e)
@[simp] theorem State.emitAll_clk (s : State) (es : List Emit) : (s.emitAll es).clk = s.clk := by
  induction es generalizing s with
  | nil => rfl
  | cons e t ih => exact ih (s.emit e)
@[simp] theorem State.emitAll_tl (s : State) (es : List Emit) : (s.emitAll es).tl = s.tl := by
  induction es generalizing s with
  | nil => rfl
  | cons e t ih => exact ih (s.emit e)
@[simp] theorem State.emitAll_smp (s : State) (es : List Emit) : (s.emitAll es).smp = s.smp := by
  induction es generalizing s with
  | nil => rfl
  | cons e t ih => exact ih (s.emit e)
@[simp] theorem State.emitAll_tlOfs (s : State) (es : List Emit) : (s.emitAll es).tlOfs = s.tlOfs := by
  induction es generalizing s with
  | nil => rfl
  | cons e t ih => exact ih (s.emit e)
@[simp] theorem State.emitAll_bndDue (s : State) (es : List Emit) : (s.emitAll es).bndDue = s.bndDue := by
  induction es generalizing s with
  | nil => rfl
  | cons e t ih => exact ih (s.emit e)
@[simp] theorem State.emitAll_mode (s : State) (es : List Emit) : (s.emitAll es).mode = s.mode := by
  induction es generalizing s with
  | nil => rfl
  | cons e t ih => exact ih (s.emit e)
@[simp] theorem State.emitAll_regs (s : State) (es : List Emit) : (s.emitAll es).regs = s.regs := by
  induction es generalizing s with
  | nil => rfl
  | cons e t ih => exact ih (s.emit e)
@[simp] theorem State.emitAll_inForce (s : State) (es : List Emit) : (s.emitAll es).inForce = s.inForce := by
  induction es generalizing s with
  | nil => rfl
  | cons e t ih => exact ih (s.emit e)
@[simp] theorem State.emitAll_host (s : State) (es : List Emit) : (s.emitAll es).host = s.host := by
  induction es generalizing s with
  | nil => rfl
  | cons e t ih => exact ih (s.emit e)
@[simp] theorem State.emitAll_elog (s : State) (es : List Emit) : (s.emitAll es).elog = s.elog := by
  induction es generalizing s with
  | nil => rfl
  | cons e t ih => exact ih (s.emit e)
@[simp] theorem State.emitAll_elogSeq (s : State) (es : List Emit) : (s.emitAll es).elogSeq = s.elogSeq := by
  induction es generalizing s with
  | nil => rfl
  | cons e t ih => exact ih (s.emit e)
@[simp] theorem State.emitAll_slots (s : State) (es : List Emit) : (s.emitAll es).slots = s.slots := by
  induction es generalizing s with
  | nil => rfl
  | cons e t ih => exact ih (s.emit e)
@[simp] theorem State.emitAll_dev (s : State) (es : List Emit) : (s.emitAll es).dev = s.dev := by
  induction es generalizing s with
  | nil => rfl
  | cons e t ih => exact ih (s.emit e)
@[simp] theorem State.emitAll_active (s : State) (es : List Emit) : (s.emitAll es).active = s.active := by
  induction es generalizing s with
  | nil => rfl
  | cons e t ih => exact ih (s.emit e)
@[simp] theorem State.emitAll_latent (s : State) (es : List Emit) : (s.emitAll es).latent = s.latent := by
  induction es generalizing s with
  | nil => rfl
  | cons e t ih => exact ih (s.emit e)
@[simp] theorem State.emitAll_shm (s : State) (es : List Emit) : (s.emitAll es).shm = s.shm := by
  induction es generalizing s with
  | nil => rfl
  | cons e t ih => exact ih (s.emit e)
@[simp] theorem State.emitAll_hens (s : State) (es : List Emit) : (s.emitAll es).hens = s.hens := by
  induction es generalizing s with
  | nil => rfl
  | cons e t ih => exact ih (s.emit e)
@[simp] theorem State.emitAll_jobs (s : State) (es : List Emit) : (s.emitAll es).jobs = s.jobs := by
  induction es generalizing s with
  | nil => rfl
  | cons e t ih => exact ih (s.emit e)
@[simp] theorem State.emitAll_audio (s : State) (es : List Emit) : (s.emitAll es).audio = s.audio := by
  induction es generalizing s with
  | nil => rfl
  | cons e t ih => exact ih (s.emit e)
@[simp] theorem State.emitAll_ptp (s : State) (es : List Emit) : (s.emitAll es).ptp = s.ptp := by
  induction es generalizing s with
  | nil => rfl
  | cons e t ih => exact ih (s.emit e)
@[simp] theorem State.emitAll_ref (s : State) (es : List Emit) : (s.emitAll es).ref = s.ref := by
  induction es generalizing s with
  | nil => rfl
  | cons e t ih => exact ih (s.emit e)
@[simp] theorem State.emitAll_eth (s : State) (es : List Emit) : (s.emitAll es).eth = s.eth := by
  induction es generalizing s with
  | nil => rfl
  | cons e t ih => exact ih (s.emit e)
@[simp] theorem State.emitAll_str (s : State) (es : List Emit) : (s.emitAll es).str = s.str := by
  induction es generalizing s with
  | nil => rfl
  | cons e t ih => exact ih (s.emit e)
@[simp] theorem State.emitAll_psm (s : State) (es : List Emit) : (s.emitAll es).psm = s.psm := by
  induction es generalizing s with
  | nil => rfl
  | cons e t ih => exact ih (s.emit e)
@[simp] theorem State.emitAll_twin (s : State) (es : List Emit) : (s.emitAll es).twin = s.twin := by
  induction es generalizing s with
  | nil => rfl
  | cons e t ih => exact ih (s.emit e)
@[simp] theorem State.emitAll_fab (s : State) (es : List Emit) : (s.emitAll es).fab = s.fab := by
  induction es generalizing s with
  | nil => rfl
  | cons e t ih => exact ih (s.emit e)
@[simp] theorem State.emitAll_rails (s : State) (es : List Emit) : (s.emitAll es).rails = s.rails := by
  induction es generalizing s with
  | nil => rfl
  | cons e t ih => exact ih (s.emit e)
@[simp] theorem State.emitAll_pwr (s : State) (es : List Emit) : (s.emitAll es).pwr = s.pwr := by
  induction es generalizing s with
  | nil => rfl
  | cons e t ih => exact ih (s.emit e)
@[simp] theorem State.emitAll_lp (s : State) (es : List Emit) : (s.emitAll es).lp = s.lp := by
  induction es generalizing s with
  | nil => rfl
  | cons e t ih => exact ih (s.emit e)

/-! Registers. -/

/-- A register read after a register is written. -/
theorem State.getW_setW (s : State) (a b : Nat) (v : Word) : (s.setW a v).getW b = if b = a then v else s.getW b :=
  tget_tset resetWord s.regs b a v

@[simp] theorem State.getW_setW_same (s : State) (a : Nat) (v : Word) : (s.setW a v).getW a = v := by simp [State.getW_setW]

theorem State.getW_setW_ne (s : State) {a b : Nat} (v : Word) (h : b ≠ a) : (s.setW a v).getW b = s.getW b := by
  simp [State.getW_setW, h]

/-- A register read after a field is written. -/
theorem State.getW_wr (s : State) (f : RField) (v b : Nat) :
    (s.wr f v).getW b = if b = f.addr then BitVec.ofNat 32 (setBitsN (s.getW f.addr).toNat f.lo f.w v) else s.getW b :=
  State.getW_setW s f.addr b _

theorem State.getW_wr_ne (s : State) (f : RField) (v : Nat) {b : Nat} (h : b ≠ f.addr) : (s.wr f v).getW b = s.getW b := by
  simp [State.getW_wr, h]

theorem State.getW_raise_ne (s : State) (page bit : Nat) {b : Nat} (h : b ≠ evtAddr page) : (s.raise page bit).getW b = s.getW b :=
  State.getW_wr_ne s _ 1 h

theorem State.getW_inc_ne (s : State) (f : RField) {b : Nat} (h : b ≠ f.addr) : (s.inc f).getW b = s.getW b := by
  unfold State.inc; split <;> exact State.getW_wr_ne s f _ h

theorem State.getW_incBy_ne (s : State) (f : RField) (k : Nat) {b : Nat} (h : b ≠ f.addr) : (s.incBy f k).getW b = s.getW b := by
  unfold State.incBy; split <;> exact State.getW_wr_ne s f _ h

theorem setBitsN_same (n lo w v : Nat) : bitsN (setBitsN n lo w v) lo w = v % 2 ^ w := by
  unfold bitsN setBitsN
  have h1 : n / 2 ^ (lo + w) * 2 ^ (lo + w) + v % 2 ^ w * 2 ^ lo + n % 2 ^ lo
      = (n / 2 ^ (lo + w) * 2 ^ w + v % 2 ^ w) * 2 ^ lo + n % 2 ^ lo := by rw [Nat.pow_add, Nat.add_mul, Nat.mul_comm (2 ^ lo), Nat.mul_assoc]
  rw [h1, Nat.mul_comm, Nat.mul_add_div (Nat.two_pow_pos lo), Nat.div_eq_of_lt (Nat.mod_lt n (Nat.two_pow_pos lo)), Nat.add_zero,
    Nat.add_comm, Nat.add_mul_mod_self_right, Nat.mod_mod]

theorem setBitsN_lt (n lo w v : Nat) (hn : n < 2 ^ 32) (h : lo + w ≤ 32) : setBitsN n lo w v < 2 ^ 32 := by
  unfold setBitsN
  obtain ⟨k, hk⟩ : ∃ k, 32 = lo + w + k := ⟨32 - (lo + w), by omega⟩
  have e : (2 : Nat) ^ 32 = 2 ^ (lo + w) * 2 ^ k := by rw [← Nat.pow_add, ← hk]
  have h1 : n / 2 ^ (lo + w) < 2 ^ k := Nat.div_lt_of_lt_mul (by rw [← e]; exact hn)
  have h2 : v % 2 ^ w * 2 ^ lo + n % 2 ^ lo < 2 ^ (lo + w) := by
    have := Nat.mod_lt v (Nat.two_pow_pos w)
    have := Nat.mod_lt n (Nat.two_pow_pos lo)
    calc v % 2 ^ w * 2 ^ lo + n % 2 ^ lo < v % 2 ^ w * 2 ^ lo + 2 ^ lo := by omega
      _ = (v % 2 ^ w + 1) * 2 ^ lo := by rw [Nat.add_mul, Nat.one_mul]
      _ ≤ 2 ^ w * 2 ^ lo := Nat.mul_le_mul_right _ (by omega)
      _ = 2 ^ (lo + w) := by rw [← Nat.pow_add, Nat.add_comm]
  calc n / 2 ^ (lo + w) * 2 ^ (lo + w) + v % 2 ^ w * 2 ^ lo + n % 2 ^ lo
      < n / 2 ^ (lo + w) * 2 ^ (lo + w) + 2 ^ (lo + w) := by omega
    _ = (n / 2 ^ (lo + w) + 1) * 2 ^ (lo + w) := by rw [Nat.add_mul, Nat.one_mul]
    _ ≤ 2 ^ k * 2 ^ (lo + w) := Nat.mul_le_mul_right _ (by omega)
    _ = 2 ^ 32 := by rw [e, Nat.mul_comm]

/-- A field read after it is written: the value cut to the field's width. -/
theorem State.rd_wr_same (s : State) (f : RField) (v : Nat) (h : f.lo + f.w ≤ 32) : (s.wr f v).rd f = v % 2 ^ f.w := by
  unfold State.rd
  rw [State.getW_wr, if_pos rfl, BitVec.toNat_ofNat, Nat.mod_eq_of_lt (setBitsN_lt _ _ _ _ (BitVec.isLt _) h), setBitsN_same]

/-- A field in another word reads as before. -/
theorem State.rd_wr_ne (s : State) (f g : RField) (v : Nat) (h : g.addr ≠ f.addr) : (s.wr f v).rd g = s.rd g := by
  unfold State.rd; rw [State.getW_wr_ne s f v h]

/-- An event bit raised is pending. -/
theorem State.pend_raise (s : State) (page bit : Nat) (h : bit < 32) : (s.raise page bit).pend page bit = true := by
  have := State.rd_wr_same s ⟨pageAddr page 0x018, bit, 1⟩ 1 (by simp only []; omega)
  simp only [State.rd, bitsN, Nat.pow_one] at this
  simp only [State.pend, State.raise, evtAddr, bitN, beq_iff_eq]
  omega

/-! Units. -/

theorem State.ps_setPs (s : State) (c d : Nat) (v : PsCh) : (s.setPs c v).ps d = if d = c then v else s.ps d := tget_tset _ _ d c v
theorem State.mule_setMule (s : State) (c d : Nat) (v : MuleSt) : (s.setMule c v).mule d = if d = c then v else s.mule d := tget_tset _ _ d c v
theorem State.slot_setSlot (s : State) (c d : Nat) (v : Slot) : (s.setSlot c v).slot d = if d = c then v else s.slot d := tget_tset _ _ d c v
theorem State.hen_setHen (s : State) (c d : Nat) (v : HenSt) : (s.setHen c v).hen d = if d = c then v else s.hen d := tget_tset _ _ d c v
theorem State.flock_setFlock (s : State) (c d : Nat) (v : FlockSt) : (s.setFlock c v).flock d = if d = c then v else s.flock d :=
  tget_tset _ _ d c v
theorem State.job_setJob (s : State) (c d : Nat) (v : JobSt) : (s.setJob c v).job d = if d = c then v else s.job d := tget_tset _ _ d c v
theorem State.grp_setGrp (s : State) (c d : Nat) (v : GrpSt) : (s.setGrp c v).grp d = if d = c then v else s.grp d := tget_tset _ _ d c v
theorem State.conv_setConv (s : State) (c d : Nat) (v : ConvSt) : (s.setConv c v).conv d = if d = c then v else s.conv d := tget_tset _ _ d c v
theorem State.port_setPort (s : State) (c d : Nat) (v : EthPort) : (s.setPort c v).port d = if d = c then v else s.port d := tget_tset _ _ d c v
theorem State.rx_setRx (s : State) (c d : Nat) (v : RxSt) : (s.setRx c v).rx d = if d = c then v else s.rx d := tget_tset _ _ d c v
theorem State.tx_setTx (s : State) (c d : Nat) (v : TxSt) : (s.setTx c v).tx d = if d = c then v else s.tx d := tget_tset _ _ d c v
theorem State.herd_setHerd (s : State) (c d : Nat) (v : HerdSt) : (s.setHerd c v).herd d = if d = c then v else s.herd d := tget_tset _ _ d c v
theorem State.cand_setCand (s : State) (c d : Nat) (v : CandSt) : (s.setCand c v).cand d = if d = c then v else s.cand d := tget_tset _ _ d c v

/-! Parts. -/

theorem Only.refl (l : List Part) (s : State) : Only l s s := fun p _ => by cases p <;> simp [Part.same]

theorem Only.mono {l m : List Part} {s t : State} (h : Only l s t) (hl : ∀ p, p ∈ l → p ∈ m) : Only m s t :=
  fun p hp => h p fun hpl => hp (hl p hpl)

theorem Only.trans {l : List Part} {s t u : State} (h : Only l s t) (k : Only l t u) : Only l s u := fun p hp => by
  have a := h p hp
  have b := k p hp
  cases p <;> simp only [Part.same] at a b ⊢ <;> simp [a, b]

theorem RegsOnly.refl (l : List Nat) (s : State) : RegsOnly l s s := fun _ _ => rfl

theorem RegsOnly.trans {l : List Nat} {s t u : State} (h : RegsOnly l s t) (k : RegsOnly l t u) : RegsOnly l s u :=
  fun a ha => (k a ha).trans (h a ha)

theorem State.err_only (s : State) (page off code path : Nat) (data : Word) : Only [.regs, .elog] s (s.err page off code path data) := fun p hp => by
  cases p <;> simp_all [Part.same]

theorem State.err_getW_ne (s : State) (page off code path : Nat) (data : Word) {a : Nat} (h : a ∉ errAddrs page) :
    (s.err page off code path data).getW a = s.getW a := by
  simp only [errAddrs, List.mem_cons, List.not_mem_nil, or_false, not_or] at h
  unfold State.err
  rw [State.getW_raise_ne _ _ _ h.1, State.logRec_getW, State.getW_setW_ne _ _ h.2.2.2.2, State.getW_setW_ne _ _ h.2.2.2.1,
    State.getW_setW_ne _ _ h.2.2.1, State.getW_inc_ne _ _ h.2.1]

theorem State.logRec_elogSeq (s : State) (page off code path : Nat) (data : Word) : (s.logRec page off code path data).elogSeq = s.elogSeq + 1 := rfl

theorem State.logRec_elog (s : State) (page off code path : Nat) (data : Word) :
    (s.logRec page off code path data).elog = (⟨s.elogSeq + 1, s.tl, s.calStamp, page, code, off, path, data⟩ :: s.elog).take 64 := rfl

theorem State.calStamp_eq {s t : State} (h : t.lp = s.lp) : t.calStamp = s.calStamp := by unfold State.calStamp; rw [h]

theorem State.err_logged (s : State) (page off code path : Nat) (data : Word) : Logged s (s.err page off code path data) page off code path data := by
  unfold Logged State.err
  rw [State.raise_elogSeq, State.raise_elog, State.logRec_elogSeq, State.logRec_elog]
  generalize hx : (((s.inc ⟨pageAddr page 0x020, 0, 32⟩).setW (pageAddr page 0x024) (BitVec.ofNat 32 (off + code * 2 ^ 16 + path * 2 ^ 24))).setW
    (pageAddr page 0x028) (BitVec.ofNat 32 s.tl)).setW (pageAddr page 0x02C) (BitVec.ofNat 32 (s.tl / 2 ^ 32)) = x
  have h1 : x.elogSeq = s.elogSeq := by rw [← hx, State.setW_elogSeq, State.setW_elogSeq, State.setW_elogSeq, State.inc_elogSeq]
  have h2 : x.elog = s.elog := by rw [← hx, State.setW_elog, State.setW_elog, State.setW_elog, State.inc_elog]
  have h3 : x.tl = s.tl := by rw [← hx, State.setW_tl, State.setW_tl, State.setW_tl, State.inc_tl]
  have h4 : x.lp = s.lp := by rw [← hx, State.setW_lp, State.setW_lp, State.setW_lp, State.inc_lp]
  rw [h1, h2, h3, State.calStamp_eq h4]
  exact ⟨rfl, rfl⟩

theorem State.err_pend (s : State) (page off code path : Nat) (data : Word) : (s.err page off code path data).pend page 0 = true := by
  unfold State.err; exact State.pend_raise _ page 0 (by decide)

/-- What recording an error can do (R50). -/
theorem State.err_spec (s : State) (page off code path : Nat) (data : Word) :
    Only [.regs, .elog] s (s.err page off code path data) ∧ RegsOnly (errAddrs page) s (s.err page off code path data) ∧
    Logged s (s.err page off code path data) page off code path data ∧ (s.err page off code path data).pend page 0 = true :=
  ⟨s.err_only page off code path data, fun _ ha => s.err_getW_ne page off code path data ha, s.err_logged page off code path data,
    s.err_pend page off code path data⟩

end Sys2Proof.Machine
end

