-- ==== Sys2Proof/Laws/Access.lean ====
section
/-! SUPPORT. What a host register write can do, said once: routing, the twin rules, keys and protection. -/

namespace Sys2Proof.Machine

theorem pageAddr_div {page off : Nat} (h : off < 0x1000) : (pageAddr page off - 0x40000000) / 0x1000 = page := by
  unfold pageAddr; omega

theorem pageAddr_mod {page off : Nat} (h : off < 0x1000) : pageAddr page off % 0x1000 = off := by
  unfold pageAddr; omega

/-- A register write that its chip takes is carried out. -/
theorem State.hostWrite_taken (s : State) (path : Path) (a : Nat) (v : Word) (h : Taken s path a v) :
    s.hostWrite (onPath path.code) (.reg a v) = s.carry (onPath path.code) 21 (.reg a v) := by
  obtain ⟨hn, hp⟩ := h
  unfold State.hostWrite
  have hb : mgmtBarred (onPath path.code).path (.reg a v) = false := by
    cases path <;> simp_all [mgmtBarred, onPath, Path.code]
  rw [hb]
  simp only [Bool.false_eq_true, if_false]
  rcases hp with hp | hp | ⟨h1, h2, h3⟩
  · simp [onPath, hp]
  · simp [State.localReq, hp]
  · simp only [State.carryMirror]
    have e1 : (s.mode.cur == Mode.follower) = false := by simpa using h1
    have e2 : (s.mode.cur == Mode.leader) = false := by simpa using h2
    have e3 : (s.mode.cur == Mode.quiesce) = false := by simpa using h3
    simp [State.refusesWrites, e1, e2, e3]

/-- An access that waits for nothing is carried out. -/
theorem State.access_now (s : State) (o : HostOp) (hq : s.fab.hostWait = []) (hw : s.mustWait o = false) : s.access o = s.runOp o := by
  simp [State.access, State.pathBusy, hq, hw]

/-- A register write that its chip takes waits for nothing. -/
theorem State.reg_mustWait (s : State) (path : Path) (a : Nat) (v : Word) (b : Bool) (h : Taken s path a v) :
    s.mustWait (.req (onPath path.code) (.reg a v) b) = false := by
  obtain ⟨_, hp⟩ := h
  simp only [State.mustWait, State.holds, State.reqWaits, State.localReq, onPath, Bool.or_false]
  rcases hp with hp | hp | ⟨-, hp, -⟩
  · simp [hp]
  · simp [hp]
  · have : (s.mode.cur == Mode.leader) = false := by simpa using hp
    simp [this]

/-- A word written to a page by a path whose write the chip takes. -/
theorem State.hostReg_taken (s : State) (path : Path) (page off : Nat) (v : Word) (ho : off < 0x1000) (hp : isPage page = true)
    (hq : s.fab.hostWait = []) (h : Taken s path (pageAddr page off) v) :
    s.hostReg (onPath path.code) page off v = (s.pageWrite (onPath path.code) page off v).emit (.response path.code true []) := by
  unfold State.hostReg
  simp only [hp, if_true, State.access_now s _ hq (State.reg_mustWait s path _ v true h), State.runOp, State.hostWrite_taken s path _ v h]
  simp only [State.carry, pageAddr_div ho, pageAddr_mod ho, onPath]

/-- A write that needs no key, or whose key is in order. -/
theorem State.pageWrite_word (s : State) (c : WCtx) (page off : Nat) (v : Word) (ho : off ≠ 0x034)
    (h : s.needsKey page off v = false ∨ s.holdsKey page c.path = true ∨ c.path = 4) :
    s.pageWrite c page off v =
      if s.holdsKey page c.path then (s.wordWrite c page off v).setKey page none else s.wordWrite c page off v := by
  unfold State.pageWrite
  rw [if_neg ho]
  have : (s.needsKey page off v && !s.holdsKey page c.path && decide (c.path ≠ 4)) = false := by
    rcases h with h | h | h <;> simp [h]
  simp only [this]
  rfl

end Sys2Proof.Machine
end

