-- ==== Sys2Proof/WellFormed.lean ====
section
/-! DEFINITION. Which commands can reach the device: the operands that the types of `Instr` leave too wide. A command that breaks a rule of access
(R13, R16, R38) is well formed: the device answers it with the error that the spec gives. -/

namespace Sys2Proof

/-- A mirrored write names an address that the fabric has, or an offset of a parameter window. -/
def reqOk : WriteReq → Bool
  | .reg addr _ => decide (addr < 2 ^ 32)
  | .latent off _ => decide (off < 2 ^ 23)
  | .direct off _ => decide (off < 2 ^ 23)
  | .memory addr _ => decide (addr < 2 ^ 32)

/-- A fabric address that the fabric has; an offset of a BAR within it, which only PCIe reaches (R36). -/
def addrOk (path : Path) : HostAddr → Bool
  | .fabric a => decide (a < 2 ^ 32)
  | .bar0 o => path == .pcie && decide (o < 2 ^ 26)
  | .bar2 o => path == .pcie && decide (o < 2 ^ 28)
  | .msixControl => path == .pcie

/-- Well-formed commands. Commands of a host path never come over the twin link: those are MIRRORED_WRITE. -/
def Instr.wf : Instr → Bool
  | .registerWrite path addr size _ => path != .twin && addrOk path addr && decide (1 ≤ size) && decide (size ≤ 64)
  | .loReadCapture path addr size => path != .twin && addrOk path addr && decide (1 ≤ size) && decide (size ≤ 512)
  | .hiWriteApply path addr _ => path != .twin && addrOk path addr
  | .contactSheetRead path _ => path != .twin
  | .latentWindowWrite path off _ => path != .twin && decide (off < 2 ^ 23)
  | .directClassWrite path off _ => path != .twin && decide (off < 2 ^ 23)
  | .direct => true
  | .writeWords addr _ _ => decide (addr < 2 ^ 32)
  | .readWords addr _ => decide (addr < 2 ^ 32)
  | .quadWriteWords addr _ _ => decide (addr < 2 ^ 32)
  | .quadReadWords addr _ => decide (addr < 2 ^ 32)
  | .readSlaveStatus => true
  | .chipSelectRise => true
  | .mgmtRequest mac vid _ => decide (mac < 2 ^ 48) && decide (vid < 2 ^ 12)
  | .hstNkey0Write path _ => path != .twin
  | .hstNkey7Write path _ => path != .twin
  | .pageKeyWrite path _ _ => path != .twin
  | .pageKeyTimeout _ => true
  | .softReset path _ => path != .twin
  | .freeze path _ _ => path != .twin
  | .evtPendClear path _ _ _ => path != .twin
  | .msixUnmask _ => true
  | .devWdtCtrlWrite path _ => path != .twin
  | .wdtKick path _ => path != .twin
  | .wdtWarn => true
  | .wdtExpire => true
  | .samplePeriod _ => true
  | .blockBoundary => true
  | .actArm path _ _ => path != .twin
  | .actCancel path _ _ => path != .twin
  | .developCheckDone => true
  | .develop => true
  | .timedWrite _ => true
  | .timer _ => true
  | .stageSwitch _ => true
  | .drainEnd => true
  | .refill path _ => path != .twin
  | .refillDone => true
  | .jobRelease _ => true
  | .runAhead _ => true
  | .jobStart _ => true
  | .steal _ => true
  | .runEnd _ => true
  | .late _ => true
  | .henEccError _ => true
  | .abandon _ => true
  | .flockGateRequest path _ => path != .twin
  | .flockUngate path _ => path != .twin
  | .ungated _ => true
  | .schEnableWrite path _ => path != .twin
  | .wordIssue _ => true
  | .deadlineAlarm _ => true
  | .doorbell _ _ => true
  | .interruptEntry _ => true
  | .crossfadeEnd _ => true
  | .mixMtrClr path _ => path != .twin
  | .locked _ _ => true
  | .lockLost _ _ => true
  | .serialFrame _ bits _ => bits.length == 8
  | .biphaseFrame _ _ _ _ => true
  | .laneLock _ _ => true
  | .csNew _ _ => true
  | .fwinWindowEnd _ _ => true
  | .clkLost _ => true
  | .clkOk _ => true
  | .sapgApply path _ => path != .twin
  | .applied _ => true
  | .slip _ => true
  | .sapgEnableWrite path _ _ => path != .twin
  | .linkUp _ _ => true
  | .linkDown _ => true
  | .ethEnableWrite path _ _ => path != .twin
  | .frameReceive _ frame _ => decide (14 ≤ frame.length)
  | .frameTransmit _ _ => true
  | .addressAgeOut _ => true
  | .atuReadIndex path => path != .twin
  | .atuWriteStatic path => path != .twin
  | .atuDeleteKey path => path != .twin
  | .atuLookupKey path => path != .twin
  | .atuFlushDynamic path _ => path != .twin
  | .ringCheckReceive _ mac _ => decide (mac < 2 ^ 48)
  | .ringOpen _ => true
  | .ringChangeReceive _ mac _ => decide (mac < 2 ^ 48)
  | .pauseReceive _ _ => true
  | .pauseEnd _ => true
  | .pauseBroken _ => true
  | .holdEnd _ => true
  | .mdioAddress path _ _ => path != .twin
  | .mdioWrite path _ _ _ => path != .twin
  | .mdioRead path _ _ _ => path != .twin
  | .mdioReadInc path _ _ => path != .twin
  | .mdioDone _ => true
  | .copyReceive _ frame => decide (14 ≤ frame.length)
  | .underrun _ => true
  | .playoutDeadline => true
  | .srcLost _ => true
  | .streamPacketQueue _ => true
  | .strxApply path => path != .twin
  | .sttxApply path => path != .twin
  | .streamApplied _ => true
  | .sync _ _ => true
  | .followUp _ _ => true
  | .announce _ _ => true
  | .delayReq _ _ => true
  | .delayResp _ _ => true
  | .pdelayReq _ _ => true
  | .pdelayResp _ _ => true
  | .pdelayRespFollowUp _ _ => true
  | .syncSend => true
  | .announceSend => true
  | .delayReqSend _ => true
  | .ptpLocked => true
  | .masterLost => true
  | .ptpTodWrite path _ => path != .twin
  | .todApply => true
  | .ptpConfigApply => true
  | .candChange _ _ => true
  | .switchDone => true
  | .switchFail => true
  | .wtrEnd _ => true
  | .freqMeasure averages _ => averages.length == 8
  | .holdoverUpdate _ => true
  | .ageUpd => true
  | .specEnd => true
  | .serviceChange => true
  | .apllLost => true
  | .apllRelock => true
  | .twinLinkUp peer => peer.image.length == 8
  | .twinLinkDown => true
  | .laneFail => true
  | .heartbeatSend => true
  | .twinHeartbeat _ => true
  | .hbSilence => true
  | .hbStall => true
  | .netHeartbeat _ payload => decide (32 ≤ payload.length)
  | .nhbMiss => true
  | .blockMessageSend => true
  | .blockMessage m => m.lead.all (fun l => l.waits.length == 8 && l.disq.length == 8)
  | .blockMessageMissed => true
  | .mirroredWrite _ req _ => reqOk req
  | .mirrorWriteRelease => true
  | .mirrorBlock _ samples concealed taint => samples.length == 1024 && concealed.length == 128 && taint.length == 128
  | .mirrorBlockMissed => true
  | .digestReceive _ taint _ => taint.all (fun l => l.length == 1216)
  | .resync path _ => path != .twin
  | .bankCopyDone _ _ _ => true
  | .sliceInstall _ _ _ => true
  | .resyncDone _ => true
  | .driveBoundary => true
  | .driveInChange _ => true
  | .feedLost => true
  | .relinquish path _ => path != .twin
  | .relinquishToFollower => true
  | .relinquishWitnessExpire => true
  | .leadership => true
  | .orphan => true
  | .joinTakeover _ _ _ => true
  | .sampleFeed => true
  | .periodBoundary _ _ _ => true
  | .trip _ => true
  | .psocRise _ _ => true
  | .channelStart _ => true
  | .diagStep _ _ _ _ => true
  | .rampStart _ => true
  | .rampEnd _ => true
  | .channelStop _ => true
  | .stopEnd _ => true
  | .feedStall => true
  | .unmute => true
  | .restart path _ => path != .twin
  | .diag path _ => path != .twin
  | .psEnableWrite path _ _ => path != .twin
  | .psmBandWrite path _ _ _ => path != .twin
  | .railConversion _ _ => true
  | .muleStart path _ => path != .twin
  | .muleStop path _ => path != .twin
  | .moveLinear _ => true
  | .moveI2p _ => true
  | .moveP2i _ => true
  | .moveTranspose _ => true
  | .muleLoop _ => true
  | .waitBlock _ => true
  | .waitTl _ => true
  | .waitFlag _ => true
  | .signalFlag _ => true
  | .signalEvent _ => true
  | .signalRelease _ => true
  | .muleJump _ => true
  | .muleEnd _ => true
  | .muleIllegal _ _ => true
  | .runaway _ _ => true
  | .muleTimeout _ _ acked _ _ => decide (acked ≤ 2 ^ 26)
  | .busErr _ _ acked _ _ => decide (acked ≤ 2 ^ 26)
  | .muleRestart _ => true
  | .mulHflagSet path _ _ => path != .twin
  | .mulHflagClr path _ _ _ => path != .twin
  | .fenceTimeout _ => true
  | .domainPowerDown _ => true
  | .beatGrant _ _ beats => beats.all fun b => decide (b.addr < 2 ^ 32)
  | .lockBreak _ _ => true
  | .ceWriteback addr => decide (addr < 2 ^ 32) && addr % 8 == 0
  | .scrubLine _ addr found => decide (addr < 2 ^ 32) && addr % 64 == 0 && found.length == 8
  | .prio path _ => path != .twin
  | .prioDone _ _ => true
  | .lpPowerOn _ _ => true
  | .lpVddLoss => true
  | .lpReset => true
  | .lpFrame _ _ => true
  | .lafUpdate => true
  | .intervalEnd _ => true
  | .lpId => true
  | .lpTime => true
  | .lpHead => true
  | .lpRead _ _ => true
  | .lpLive => true
  | .setTime _ _ _ _ _ _ _ => true
  | .lpTrim _ _ => true
  | .lpCal _ _ _ _ => true
  | .calDone _ => true
  | .calEnFall => true
  | .lpOffset _ _ _ _ => true
  | .lpAlert _ _ _ _ => true
  | .logSec _ _ => true
  | .lpKey _ words _ => words.length == 8
  | .lpmReqGo path _ => path != .twin
  | .reqDone => true
  | .powerOnReset _ _ => true
  | .brownOut _ _ => true
  | .resetN _ _ => true
  | .device path => path != .twin
  | .functionLevelReset => true
  | .railBelowWarning _ _ => true
  | .boWarn _ _ _ _ => true
  | .dipScrub => true
  | .dipRelinquish => true
  | .dipQuiesce => true
  | .bootSearch _ _ => true
  | .push path => path != .twin
  | .bootComplete => true
  | .modeReqStandalone path => path != .twin
  | .modeReqLeader path => path != .twin
  | .modeReqFollower path => path != .twin
  | .modeReqQuiesce path => path != .twin
  | .modeReqReturn path _ => path != .twin
  | .modeReqDark path _ => path != .twin
  | .modeReqCommission path => path != .twin
  | .changed => true
  | .darkEntry => true
  | .wakePin => true
  | .loupeAlarm => true
  | .audioReady => true
  | .prog path => path != .twin
  | .fuseDone => true
  | .fuseHoldTimeout => true
  | .twlOff path _ => path != .twin
  | .hotReset lanes gen => (lanes == 1 || lanes == 2) && decide (1 ≤ gen) && decide (gen ≤ 3)
  | .pcieLinkDown => true
  | .laneReturn => true
  | .lpVbatLoss => true
  | .anFail _ => true
  | .biphaseOutputFrame _ _ => true

end Sys2Proof
end

