-- ==== Sys2Proof/Tests/Slice0.lean ====
section
/-! SUPPORT. The model's own tests: ill-formed commands, values that the spec gives, and for every statement a witness of its hypotheses. -/

open Sys2Proof
open Sys2Proof.Machine

section

set_option Elab.async false

/-! States of the tests. -/

namespace W
/-- COMMISSION, with the audio PLL locked. -/
def com : State := { State.reset with mode := ⟨.commission, .boot, none, 0, true, none, false⟩, audio := { State.reset.audio with apllLost := false }, pwr := { State.reset.pwr with booting := false } }
/-- A state in a mode. -/
def at_ (m : Mode) : State := { com with mode := { com.mode with cur := m } }
/-- STANDALONE. -/
def run : State := at_ .standalone
/-- DARK, with a boundary due. -/
def dark : State := { at_ .dark with bndDue := true }
/-- STANDALONE, with a boundary due. -/
def due : State := { run with bndDue := true }
/-- A page's key held by a path. -/
def key (page : Nat) (p : Path) (s : State) : State := s.setKey page (some ⟨p.code, s.clk⟩)
/-- A bank with some words. -/
def bank (l : List (Nat × Nat)) : Mem := l.foldl (fun m x => mPutB bankD m x.1 (toLe 4 x.2)) []
/-- Stream input 5 read by instance `j`, in the list at word `l`. -/
def listOf (l nin w : Nat) : List (Nat × Nat) := [(listOff l, nin), (listOff (l + 2), w)]
/-- A graph: a program of class 0 with 4 words, and three instances, of flocks 0, 0 and 2, with deadlines 500, 400 and 300; the first reads a
stream channel ahead of tick 10, the last is pinned. -/
def graph : Mem := bank ([(0x680000, 0x4B5A4A47), (0x680004, 0x10000), (0x680008, 1), (0x68000C, 3), (progOff 0, 0x10000000), (progOff 0 + 4, 0x20004),
  (instOff 0, 0x8000 + 0x1000 + 500 * 65536), (instOff 0 + 4, 10), (instOff 0 + 12, 0), (instOff 1, 0x8000 + 400 * 65536), (instOff 1 + 12, 8),
  (instOff 2, 0x8000 + 0x2000 + 0x200 + 300 * 65536), (instOff 2 + 12, 8)] ++ listOf 0 1 (4 * 144))
/-- An empty graph that a develop accepts. -/
def empty : Mem := bank [(0x680000, 0x4B5A4A47), (0x680004, 0x10000), (0x680008, 1), (progOff 0 + 4, 256), (progOff 0 + 12, 0x110001), (progOff 0 + 16, 0x210021), (progOff 0 + 20, 0x21), (progOff 0 + 28, 5)]
/-- Action slots 0 to 4: empty, timer, empty, DEVELOP, TIMED_WRITE. -/
def slots (tl : Nat) : State := { run with tl := tl, slots := [(0, ⟨1024, 0, 0, 0, .empty, 0⟩), (1, ⟨2000, 0, 0, 3, .armed, 1⟩), (2, ⟨1001, 0, 0, 0, .empty, 0⟩), (3, ⟨1024, 0, 0, 1, .armed, 1⟩),
  (4, ⟨90, BitVec.ofNat 32 A.STRX_CFG, 500, 2, .armed, 1⟩)] }
/-- An armed DEVELOP. -/
def devd : State := { run with tl := 1000, dev := { run.dev with state := .armed, slot := 3, t := 1024, back := .undoHeld }, slots := (slots 0).slots }
/-- A DEVELOP in its drain. -/
def drain : State := { run with tl := 1050, latent := graph, active := graph, dev := { run.dev with state := .armed, slot := 3, t := 1024, draining := true, depth := 1, jobsDone := 1, egressDone := 0 }, slots := (slots 0).slots }
/-- The graph running in block 10. -/
def jobs : State := { (run.setEnable Pg.SCH true) with active := graph, clk := 0, tl := 80, smp := 80 }
/-- A run of instance `j` by a program of class `cls`. -/
def runSt (j cls : Nat) : RunSt := ⟨false, j, cls, 4, [], false, [], 0⟩
/-- Hen 3 runs instance 1. -/
def running (cls : Nat) : State := { jobs.setHen 3 { hen0 3 with run := some (runSt 1 cls) } with jobs := { jobs.jobs with jobs := [(1, { job0 1 with phase := .running })] } }
/-- Instances 0 and 1 queued. -/
def queued : State := { jobs with jobs := { jobs.jobs with jobs := [(0, { job0 0 with phase := .queued }), (1, { job0 0 with phase := .queued })], queues := [(0, [1, 0])] } }

/-- A stage of class 1, 2 or 3 serving bus 0: instance 0, reading and writing link 0. -/
def stage (cls : Nat) : Mem := bank ([(0x680000, 0x4B5A4A47), (0x680004, 0x10000), (0x680008, 1), (0x68000C, 1), (progOff 0 + 4, 4), (progOff 0 + 28, cls),
  (instOff 0, 0x8000 + 500 * 65536), (listOff 0, 0x101), (listOff 1, 0x100000), (listOff 2, 1), (listOff 3, 1)])
/-- A crossfade of bus 0 from sample 8. -/
def fading (cls : Nat) (smp : Nat) : State := { run with active := stage cls, smp := smp, tl := smp, jobs := { run.jobs with stock := [(0, ⟨[(0, { busSt0 0 with xf := some ⟨8, 0, []⟩ })], []⟩)] } }
/-- Slot tables of the first four groups. -/
def slotBank : Mem := bank [(0x600000, 0x931), (0x600004, 0xFFFF), (0x600008, 0xFFFF), (0x600100, 0x930), (0x600104, 0xF), (0x600108, 0xF),
  (0x600200, 0x932), (0x600204, 0xF), (0x600300, 0x931), (0x600304, 0xFFFF), (0x600308, 0xFFFF), (0x60030C, 0xFF00FF)]
/-- All serial groups enabled. -/
def enAll (s : State) : State := (List.range 8).foldl (fun s g => s.setEnable (Pg.SAPG g) true) s
/-- Groups 0 to 3 running at sample 1000. -/
def serial (f : GrpSt → GrpSt) : State :=
  let s := enAll { run with active := slotBank, smp := 1000, tl := 1000, clk := 128000 }
  (List.range 4).foldl (fun s g => s.setGrp g (f { grp0 g with phase := .run })) s
/-- Lane 0 of the groups in a state. -/
def lane (x : LaneSt) : State := serial fun v => { v with lanes := [(0, x)] }
/-- 192 channel status bits, their CRCC right or wrong. -/
def csBits (pro ok : Bool) : List Bool :=
  let l := (List.range 184).map fun i => (i == 0 && pro) || i % 5 == 3
  let c := crcc l
  l ++ (List.range 8).map fun k => (bitN c k == 1) != !ok
/-- The same with every group's mules running. -/
def serialM (f : GrpSt → GrpSt) : State :=
  let s := serial f
  { s with fab := { s.fab with mules := ((List.range 8).flatMap fun g => [64 + 2 * g, 65 + 2 * g]).map fun m => (m, { mule0 m with st := .run }) } }
/-! Ethernet. -/
def link (s : State) : State := (List.range 4).foldl (fun s p => (s.setEnable (Pg.ETH p) true).wrB (R.ETH_STAT_LINK p) true) s
/-- A frame to `dst` with type field `t`, `n` payload bytes, and its FCS. -/
def frame (dst : Nat) (t : Bytes) (n : Nat) : Bytes :=
  let b := toBe 6 dst ++ toBe 6 0x020000000001 ++ t ++ List.replicate n 0x11
  b ++ fcsOf b
/-- VLAN 1 with members on every port. -/
def vl (s : State) : State := (s.setW (pageAddr Pg.BR 0x200) 0x8001).setW (pageAddr Pg.BR 0x204) 0x0F1F
/-- The bridge at work. -/
def eth : State := vl ((((link { run with clk := 20000000 }).setEnable Pg.BR true).wrB R.BR_CFG_LEARN false))
/-- An address table. -/
def withAtu (s : State) (l : List (Nat × Option AtuE)) : State := { s with eth := { s.eth with atu := l } }
/-- An address entry. -/
def entry (static : Bool) (ports : Nat) : AtuE := ⟨0x020000000002, 1, ports, static, false, 0, 0⟩
/-- A state of one port. -/
def withPort (s : State) (p : Nat) (v : EthPort) : State := { s with eth := { s.eth with ports := [(p, v)] } }
/-- Rings A and B open or closed. -/
def ringSt (mgr : Bool) (bit : Nat) : State := (((eth.setW A.BR_NET_A (if mgr then 0x303 else 0x301)).setW A.BR_NET_B (if mgr then 0x303 else 0x301)).wrB (ringBit 0 bit) true).wrB (ringBit 1 bit) true

/-! Streams. -/
/-- AAF stream 0 at 96 kHz and stream 1 at 48 kHz, two channels of 24 bits in 32 each. -/
def rxBank : Mem := bank [(0x601000, 0x020D), (0x601004, 0x11), (0x601010, 1), (0x601014, 0x0200), (0x601020, 0x10209), (0x601024, 0x12), (0x601030, 1), (0x601034, 0x0200),
  (0x604000, 0x80000000), (0x604004, 0x80000100), (0x604008, 0x80000001), (0x603000, 0x0205), (0x603004, 0x77), (0x603010, 5), (0x603014, 0x10200), (0x603018, 100),
  (0x603020, 0x0207 - 4), (0x603024, 0x78), (0x603030, 5), (0x603034, 0x10200), (0x603038, 100)]
/-- Streams enabled at sample `smp`, tick `c`. -/
def str (smp c : Nat) : State := (({ run with smp := smp, tl := smp, clk := 128 * smp + c, active := rxBank }.setEnable Pg.STRX true).setEnable Pg.STTX true)
/-- An AAF frame of stream `id` for presentation at `tl`. -/
def aaf (id tl : Nat) (seq : Nat) (half conc : Bool) (fl : Nat) : Bytes :=
  let n := if half then 4 else 8
  toBe 6 0x91E0F0000001 ++ toBe 6 0x020000000001 ++ toBe 2 0x22F0 ++ toBe 1 2 ++ toBe 1 fl ++ toBe 1 seq ++ toBe 1 1 ++ toBe 4 0 ++ toBe 4 id ++ toBe 4 (unsignedN 32 (stampNs tl)) ++
    toBe 1 2 ++ toBe 1 (if half then 0x50 else 0x70) ++ toBe 1 2 ++ toBe 1 24 ++ toBe 2 (8 * n) ++ toBe 1 (b2n conc) ++ toBe 1 0 ++ (List.range (8 * n)).map fun i => BitVec.ofNat 8 i
/-- A held copy. -/
def copy0 (p : Int) (seq : Nat) (conc : Bool) : HeldCopy := ⟨p, false, seq, conc, 0, List.replicate 8 [1, 2]⟩
/-- Stream 0 in a state. -/
def held (s : State) (v : RxSt) : State := { s with str := { s.str with rx := [(0, v)] } }
/-- A receiving stream with held copies. -/
def recv (l : List HeldCopy) : RxSt := { rx0 0 with state := .receiving, held := l, seq := some 6, live := 100 }
/-! Time. -/
def ptp (st : Nat) : State := (((link { run with clk := 400000000, smp := 3125000, tl := 3125000 }).setEnable Pg.PTP true).wr R.PTP_STAT_STATE st).wr R.PTP_STAT_PORT 1
/-- A PTP slave that follows clock 7. -/
def slave : State := let s := ptp 3; { s with ptp := { s.ptp with parent := some 7, lastSync := 400000000, lastAnn := 400000000 }, inForce := [(A.PTP_CFG, 0x10)] }
/-- The reference selector in a state. -/
def refc (f : RefSt → RefSt) : State := let s : State := { run with clk := 400000000, smp := 3125000, tl := 3125000, inForce := [(A.REF_CAND 1, 3), (A.REF_CAND 6, 5), (A.REF_QUAL 1, 5)] }; { s with ref := f s.ref }

/-! Twin. -/
def tw (m : Mode) (smp c : Nat) (f : TwinSt → TwinSt) : State :=
  let s := { at_ m with smp := smp, tl := smp, clk := 128 * smp + c }
  let s := { s with twin := f { s.twin with lanes := 2, pairOk := true, hb := true, nhb := true, hbAt := s.clk, hbFeedAt := s.clk } }
  (s.wrB R.TW_CFG_EN true).wrB R.TW_CFG_INMIR true
/-- A network heartbeat payload. -/
def nhb (flags feed : Nat) : Bytes := [0x20, 1, 0, 0, BitVec.ofNat 8 flags, 0] ++ toBe 4 9 ++ toBe 4 feed ++ [0, 0] ++ List.replicate 16 0
/-- Accesses of host paths that wait. -/
def waits (l : List (Bool × HostOp)) (s : State) : State := { s with fab := { s.fab with hostWait := l } }
/-- Following a leader over the twin link. -/
def inPair (s : State) : State := { s with mode := { s.mode with cur := .follower }, twin := { s.twin with lanes := 2, pairOk := true, hb := true } }
/-! Power. -/
def psBank : Mem := bank [(0x60A000, 0x10008300), (0x60A010, 0x8300), (0x60A020, 0x8320)]
/-- Channel `c` in a state. -/
def ps (c : Nat) (f : PsCh → PsCh) : State :=
  let s := { run with smp := 1000, tl := 1000, clk := 128000, active := psBank, psm := { run.psm with fedSmp := some 1000, fedAt := 128000, fresh := 9 } }
  (s.setEnable (Pg.PS 0) true).setPs c (f (psCh0 c))

/-! Mules and the fabric. -/
def at4 (ws : List Nat) (s : State) : State := { s with shm := (List.range 4).foldl (fun m i => mPutB zeroByte m (0x100 + 4 * i) (toLe 4 (nth 0 ws i))) s.shm }
/-- Mules 0, 3 and 95 in a state. -/
def withMules (f : MuleSt → MuleSt) (s : State) : State := { s with fab := { s.fab with mules := [0, 3, 95].map fun m => (m, f { mule0 m with st := .run, pc := 0x10000100 }) } }
/-- All mule pages enabled. -/
def mulEn (s : State) : State := (List.range 12).foldl (fun s p => s.setEnable (Pg.MUL p) true) s
/-- Mules at a program of four words. -/
def mule (ws : List Nat) (f : MuleSt → MuleSt) : State := at4 ws (withMules f (mulEn { run with clk := 128000, smp := 1000, tl := 1000, shm := [] }))
/-- A fence on a domain. -/
def fence (dom since : Nat) (s : State) : State := { s with fab := { s.fab with fences := [⟨dom, since⟩] } }
/-- A fabric beat. -/
def beat (m addr dl pres : Nat) (w : Option (List (Option Byte))) : Beat := ⟨Fin.ofNat 24 m, addr, BitVec.ofNat 24 dl, pres, .pcie, w, false, false, []⟩
/-! The Loupe. -/
def loupe (f : LpSt → LpSt) : State := { run with lp := f { lp0 with power := .measure, flashSize := 2 ^ 21, sec := 1000, sub := 5, iSec := lpAcc0 true, iMin := lpAcc0 true, iQtr := lpAcc0 true } }
/-- An interval of `k` frames. -/
def full (k : Nat) : LpAcc := { lpAcc0 true with n := k, c0 := ⟨10 ^ 15, 10 ^ 14, 10 ^ 15, 0, 0, 1000, 2000, true⟩, c1 := ⟨10 ^ 13, 10 ^ 12, 10 ^ 15, 0, 0, 1000, 2000, true⟩ }
/-! Supplies. -/
def img : Bytes := (toBe 704 0x49425a4b00000100c0020000010000000700000000000000000000000000000000000000000000000000000000000000000000000000000000000000000000009fad84aeae08bbef7f010014d82cef6a09de2b0cf871b5ce0c4f1d13a59a593407cb45769f1070e2c2470fe5b1bfe63133c0b0cdc64ea4bf3791a8ec2a07fd4f01000000000000208002000000000000000000000000000000000000000000000000000000000000000000000000000000000000000000000000000000000000000000000000000000000000000000000000000000000000000000000000000000000000000000000000000000000000000000000000000000000000000000000000000000000000000000000000000000000000000000000000000000000000000000000000000000000000000000000000000000000000000000000000000000000000000000000000000000000000000000000000000000000000000000000000000000000000000000000000000000000000000000000000000000000000000000000000000000000000000000000000000000000000000000000000000000000000000000000000000000000000000000000000000000000000000000000000000000000000000000000000000000000000000000000000000000000000000000000000000000000000000000000000000000000000000000000000000000000000000000000000000000000000000000000000000000000000000000000000000000000000000000000000000000000000000000000000000000000000000000000000000000000000000000000000000000000000000000000000000000000000000000000000000000000000000000000000000000000000000000008140b0ae9b89fc0364fe2b78a32bfd0f71ab515b6b2dd0554cd91f811c49f35ecffd84c383b0c6efceee487b59bc922f3ed6dff438bf532565b01d18b598c664)
/-- Reset. -/
def boot : State := State.reset
/-- Waiting for a push with an image in shared memory. -/
def waitPush (b : Bytes) : State := { State.reset.wrB R.PWR_BOOT_STAT_WAIT_PUSH true with shm := mPutB zeroByte [] 0 b }
/-- Six beats. -/
def beats : List Beat := [beat 3 0x10000000 900 5 none, beat 4 0x10000000 800 6 none, beat 21 0x10001000 3 5 (some (List.replicate 64 (some 7))), beat 2 0x10001000 0xFFFFFF 1 none, beat 2 0x10300040 7 1 (some ((List.range 64).map fun i => some (BitVec.ofNat 8 i))), beat 5 0x10000080 7 1 none]
/-- The eight frames of two channels that `aaf` carries. -/
def aafFrames : List (List Word) := [[0x00010203, 0x04050607], [0x08090A0B, 0x0C0D0E0F], [0x10111213, 0x14151617], [0x18191A1B, 0x1C1D1E1F],
  [0x20212223, 0x24252627], [0x28292A2B, 0x2C2D2E2F], [0x30313233, 0x34353637], [0x38393A3B, 0x3C3D3E3F]]
/-- A management request of one read op with sequence number 5, its tag made with the key of zeros. -/
def mgmt : Bytes := toBe 24 0x010101000000000000000005010000004000004000000000 ++ toBe 16 0xbcdb0dab13186b4c2ae0c6e942c14356
end W

/-- A state of the witness of WideReads. -/
def W.wideReads0 : State := { W.run with tl := 0x123456789 }
/-- A state of the witness of WideReads. -/
def W.wideReads1 : State := { W.com with host := { W.com.host with loStage := Sys2Proof.Machine.tset noWord [] (stageKey 1 (A.TL_ACT_TL_LO 1)) (some 1) } }
/-- A state of the witness of BankWindows. -/
def W.bankWindows1 : State := { W.com with dev := { W.com.dev with state := .armed } }
/-- A state of the witness of BankWindows. -/
def W.bankWindows3 : State := W.key Pg.MIX .pcie (W.run.wrB R.MIX_DIRECT_EN_EN true)
/-- A state of the witness of BankWindows. -/
def W.bankWindows4 : State := { W.run with audio := { W.run.audio with direct := [⟨0x1000, [some 1, some 2], 0, false⟩] } }
/-- A state of the witness of GainsClamped. -/
def W.gainsClamped1 : State := W.key Pg.MIX .pcie (W.run.wrB R.MIX_DIRECT_EN_EN true)
/-- A state of the witness of Management. -/
def W.management0 : State := W.com.wrB R.HST_NMGT_CFG_EN true
/-- A state of the witness of Management. -/
def W.management1 : State := { W.com with host := { W.com.host with nkeySet := 127 } }
/-- A state of the witness of PageKeysFreezeAndReset. -/
def W.pageKeysFreezeAndReset1 : State := W.key 0x10 .pcie { W.com with clk := 5 }
/-- A state of the witness of PageKeysFreezeAndReset. -/
def W.pageKeysFreezeAndReset2 : State := { W.key 0x10 .pcie W.com with clk := 2000 }
/-- A state of the witness of PageKeysFreezeAndReset. -/
def W.pageKeysFreezeAndReset4 : State := W.com.setW (pageAddr 0x10 8) 0x11
/-- A state of the witness of PageKeysFreezeAndReset. -/
def W.pageKeysFreezeAndReset3 : State := W.key 4 .pcie W.run
/-- A state of the witness of Watchdog. -/
def W.watchdog1 : State := (W.key Pg.DEV .pcie W.com).wrB R.DEV_WDT_CTRL_EN true
/-- A state of the witness of Watchdog. -/
def W.watchdog3 : State := { (W.run.wrB R.DEV_WDT_CTRL_EN true).wr R.DEV_WDT_CTRL_PERIOD 12 with smp := 1000 }
/-- A state of the witness of Watchdog. -/
def W.watchdog4 : State := { (W.run.wrB R.DEV_WDT_CTRL_EN true).wr R.DEV_WDT_CTRL_PERIOD 12 with smp := 1000, host := { W.run.host with wdtWarned := true } }
/-- A state of the witness of Arming. -/
def W.arming0 : State := W.slots 0
/-- A state of the witness of Arming. -/
def W.arming3 : State := { W.slots 0 with dev := { W.com.dev with state := .refilling } }
/-- A state of the witness of SlotActions. -/
def W.slotActions0 : State := W.slots 0
/-- A state of the witness of SlotActions. -/
def W.slotActions1 : State := W.slots 3000
/-- A state of the witness of SlotActions. -/
def W.slotActions5 : State := { W.slots 3000 with slots := [(1, ⟨2000, 0, 0, 3, .armed, 1⟩)] }
/-- A state of the witness of SlotActions. -/
def W.slotActions6 : State := { W.slots 95 with slots := [(4, ⟨90, BitVec.ofNat 32 A.STRX_CFG, 0x3FF00000, 2, .armed, 1⟩)] }
/-- A state of the witness of Develop. -/
def W.develop4 : State := { W.devd with tl := 1024, dev := { W.devd.dev with checked := true } }
/-- A state of the witness of Develop. -/
def W.develop9 : State := { W.drain with tl := 1026 }
/-- A state of the witness of Develop. -/
def W.develop6 : State := { W.drain with dev := { W.drain.dev with jobsDone := 2, egressDone := 2 } }
/-- A state of the witness of Develop. -/
def W.develop8 : State := { W.run with dev := { W.run.dev with state := .refilling, refillEnd := 0 }, latent := [(5, 1)] }
/-- A state of the witness of ReleasesAndStarts. -/
def W.releasesAndStarts2 : State := { W.jobs with jobs := { W.jobs.jobs with ich := [(ichKey 9 144, { chan0 with missing := true })] }, clk := 20 }
/-- A state of the witness of EndsAndWithdrawals. -/
def W.endsAndWithdrawals1 : State := W.running 1
/-- A state of the witness of EndsAndWithdrawals. -/
def W.endsAndWithdrawals2 : State := { W.running 1 with clk := 66, smp := 83, tl := 83 }
/-- A state of the witness of EndsAndWithdrawals. -/
def W.endsAndWithdrawals5 : State := { W.jobs with clk := 66, smp := 83, tl := 83, jobs := { W.jobs.jobs with jobs := [(1, { job0 1 with phase := .running, rerun := true })] } }
/-- A state of the witness of FlockGating. -/
def W.flockGating3 : State := W.key (Pg.FL 0) .pcie { W.com with active := W.graph }
/-- A state of the witness of FlockGating. -/
def W.flockGating2 : State := W.key (Pg.FL 1) .pcie W.com
/-- A state of the witness of FlockGating. -/
def W.flockGating4 : State := (W.com.setEnable (Pg.FL 1) false).setFlock 1 { flock0 1 with powered := false, taking := false }
/-- A state of the witness of FlockGating. -/
def W.flockGating5 : State := W.com.setFlock 1 { flock0 1 with taking := false, readyAt := some 0 }
/-- A state of the witness of HenWordsAndInterrupts. -/
def W.henWordsAndInterrupts2 : State := W.running 0
/-- A state of the witness of HenWordsAndInterrupts. -/
def W.henWordsAndInterrupts3 : State := { W.running 0 with mode := W.com.mode }
/-- A state of the witness of HenWordsAndInterrupts. -/
def W.henWordsAndInterrupts4 : State := (W.running 0).setHen 3 { ((hen0 3).setA 35 0x80000105).setA 36 0x80000106 with run := some (W.runSt 1 0), ie := true, pendDbg := true, pc := 7 }
/-- A state of the witness of CrossfadesAndConverters. -/
def W.crossfadesAndConverters4 : State := W.serial id
/-- A state of the witness of CrossfadesAndConverters. -/
def W.crossfadesAndConverters6 : State := W.inPair (W.serial id)
/-- A state of the witness of CrossfadesAndConverters. -/
def W.crossfadesAndConverters5 : State := { W.serial id with audio := { (W.serial id).audio with convs := [(1040, { conv0 0 with lock := true, ratio := 5, since := 3, ownLock := true, ownRatio := 5 }), (3088, { conv0 0 with lock := true, ratio := 5, since := 3, ownLock := true, ownRatio := 5 })] } }
/-- A state of the witness of CrossfadesAndConverters. -/
def W.crossfadesAndConverters7 : State := W.inPair { W.serial id with audio := { (W.serial id).audio with convs := [(1040, { conv0 0 with lock := true, ratio := 5, since := 3, ownLock := true, ownRatio := 5 })] } }
/-- A state of the witness of SerialFramesAndClocks. -/
def W.serialFramesAndClocks1 : State := W.serial id
/-- A state of the witness of SerialFramesAndClocks. -/
def W.serialFramesAndClocks3 : State := W.serial fun v => { v with winFrames := 513 }
/-- A state of the witness of SerialFramesAndClocks. -/
def W.serialFramesAndClocks7 : State := W.serial fun v => { v with phase := .lost (some 20), lastEdge := 127990, mutes := [⟨900, none, true⟩] }
/-- A state of the witness of SerialFramesAndClocks. -/
def W.serialFramesAndClocks10 : State := W.serial fun v => { v with wr := 20, level := 100000, lastEdge := 127990 }
/-- A state of the witness of BiphaseAndChannelStatus. -/
def W.biphaseAndChannelStatus1 : State := W.serial id
/-- A state of the witness of BiphaseAndChannelStatus. -/
def W.biphaseAndChannelStatus5 : State := W.lane { lane0 0 with lock := true, pos := some 5, c1 := [true], txPos := 191 }
/-- A state of the witness of BiphaseAndChannelStatus. -/
def W.biphaseAndChannelStatus2 : State := W.lane { lane0 0 with good := 64 }
/-- A state of the witness of BiphaseAndChannelStatus. -/
def W.biphaseAndChannelStatus4 : State := W.lane { lane0 0 with lock := true, bad := 2 }
/-- A state of the witness of BiphaseAndChannelStatus. -/
def W.biphaseAndChannelStatus10 : State := W.lane { lane0 0 with ready := some (W.csBits true false, W.csBits false false, true) }
/-- A state of the witness of BiphaseAndChannelStatus. -/
def W.biphaseAndChannelStatus8 : State := W.lane { lane0 0 with ready := some (W.csBits false false, W.csBits false false, false) }
/-- A state of the witness of SerialSettings. -/
def W.serialSettings3 : State := { W.run with dev := { W.run.dev with state := .armed } }
/-- A state of the witness of SerialSettings. -/
def W.serialSettings6 : State := W.serial fun v => { v with apply := some (900, List.replicate 256 0) }
/-- A state of the witness of SerialSettings. -/
def W.serialSettings5 : State := { W.serial id with mode := W.com.mode }
/-- A state of the witness of EthernetLinks. -/
def W.ethernetLinks3 : State := (List.range 4).foldl (fun s p => s.setEnable (Pg.ETH p) true) W.run
/-- A state of the witness of EthernetLinks. -/
def W.ethernetLinks4 : State := (List.range 4).foldl (fun s p => ((s.setEnable (Pg.ETH p) true).wr (R.ETH_CFG_MODE p) 2).wrB (R.ETH_CFG_AN_EN p) true)
  W.run
/-- A state of the witness of Frames. -/
def W.frames5 : State := W.withPort W.eth 1 { port0 1 with frames := [⟨List.replicate 60 1, 2, none, 0⟩, ⟨List.replicate 60 2, 5, none, 0⟩, ⟨List.replicate 60 3, 5, none, 0⟩] }
/-- A state of the witness of PauseAndHold. -/
def W.pauseAndHold2 : State := W.withPort W.eth 1 { port0 1 with pauseEnd := some 5 }
/-- A state of the witness of PauseAndHold. -/
def W.pauseAndHold4 : State := W.withPort W.eth 1 { port0 1 with holdEnd := some 50 }
/-- A state of the witness of BridgeTableAndRing. -/
def W.bridgeTableAndRing2 : State := { W.withAtu W.eth [(1, some (W.entry false 2))] with clk := 40000000000 }
/-- A state of the witness of BridgeTableAndRing. -/
def W.bridgeTableAndRing3 : State := W.withAtu W.eth [(0, some (W.entry true 2)), (1, some (W.entry false 1))]
/-- A state of the witness of BridgeTableAndRing. -/
def W.bridgeTableAndRing4 : State := W.withAtu (((W.eth.setW A.BR_ATU_E0 2).setW A.BR_ATU_E1 0x10200)) [(4 * atuBucket 0x020000000002 1, some (W.entry
  true 2))]
/-- A state of the witness of BridgeTableAndRing. -/
def W.bridgeTableAndRing7 : State := W.withAtu W.eth [(4 * atuBucket 0 0, some (W.entry true 2)), (4 * atuBucket 0 0 + 1, some (W.entry true 3)), (4 *
  atuBucket 0 0 + 2, some (W.entry true 4)), (4 * atuBucket 0 0 + 3, some (W.entry true 5))]
/-- A state of the witness of BridgeTableAndRing. -/
def W.bridgeTableAndRing9 : State := W.ringSt true 0
/-- A state of the witness of BridgeTableAndRing. -/
def W.bridgeTableAndRing10 : State := W.ringSt true 1
/-- A state of the witness of BridgeTableAndRing. -/
def W.bridgeTableAndRing8 : State := W.ringSt false 0
/-- A state of the witness of MdioMaster. -/
def W.mdioMaster2 : State := W.com.wrB R.BR_MDIO_CMD_BUSY true
/-- A state of the witness of MdioMaster. -/
def W.mdioMaster3 : State := { W.com.wrB R.BR_MDIO_CMD_BUSY true with eth := { W.com.eth with mdioRead := true } }
/-- A state of the witness of StreamCopies. -/
def W.streamCopies1 : State := W.link (W.str 1000 5)
/-- A state of the witness of StreamCopies. -/
def W.streamCopies2 : State := W.link (W.held (W.str 1000 5) (W.recv [W.copy0 1010 7 false]))
/-- A state of the witness of StreamWindowsAndTables. -/
def W.streamWindowsAndTables2 : State := W.held (W.str 1007 100) (W.recv [])
/-- A state of the witness of StreamWindowsAndTables. -/
def W.streamWindowsAndTables4 : State := W.held (W.str 100007 10) { rx0 0 with start := 20 }
/-- A state of the witness of StreamWindowsAndTables. -/
def W.streamWindowsAndTables1 : State := W.str 1007 100
/-- A state of the witness of StreamWindowsAndTables. -/
def W.streamWindowsAndTables8 : State := { W.com with dev := { W.com.dev with state := .armed } }
/-- A state of the witness of StreamWindowsAndTables. -/
def W.streamWindowsAndTables9 : State := { W.str 1007 100 with str := { stream0 with rxApply := some (100, W.rxBank), txApply := some (100, W.rxBank) } }
/-- A state of the witness of PtpClock. -/
def W.ptpClock2 : State := { W.slave with ptp := { W.slave.ptp with wait := some (⟨0, 7, 1, true, 0, 3, 900, false⟩, 1), good := 50 } }
/-- A state of the witness of PtpClock. -/
def W.ptpClock5 : State := { W.slave with ptp := { W.slave.ptp with lastSync := 0, good := 100 } }
/-- A state of the witness of PtpClock. -/
def W.ptpClock7 : State := { W.com with inForce := [(A.PTP_CFG, 0x20)], host := { W.com.host with loStage := (List.range 5).map fun p => (stageKey p A.PTP_TOD_LO, some 77) } }
/-- A state of the witness of PtpClock. -/
def W.ptpClock8 : State := { W.slave with ptp := { W.slave.ptp with tod := some (100, 390000), cfgAt := some 390000 } }
/-- A state of the witness of PtpMessages. -/
def W.ptpMessages7 : State := ({ W.ptp 4 with inForce := [(A.PTP_CFG, 0x20)] }).wrB R.PTP_TC_CFG_P2P false
/-- A state of the witness of PtpMessages. -/
def W.ptpMessages5 : State := ({ W.slave with ptp := { W.slave.ptp with foreign := [⟨⟨0, 7, 7, 0x600, 1, 2, 3, 0, false, false⟩, 1, 399000000, some 398000000⟩], dly := some ⟨1, some 1, none, 0⟩ } }).wrB R.PTP_TC_CFG_P2P false
/-- A state of the witness of PtpMessages. -/
def W.ptpMessages10 : State := { W.slave with ptp := { W.slave.ptp with pdly := [(0, some ⟨1, some 1, some 100, 90⟩), (1, some ⟨1, some 1, some 100, 90⟩), (2, some ⟨1, some 1, none, 0⟩)] } }
/-- A state of the witness of PtpMessages. -/
def W.ptpMessages6 : State := { W.ptp 4 with inForce := [(A.PTP_CFG, 0x20)] }
/-- A state of the witness of PtpMessages. -/
def W.ptpMessages8 : State := { W.ptp 1 with inForce := [(A.PTP_CFG, 0x20)] }
/-- A state of the witness of PtpMessages. -/
def W.ptpMessages3 : State := (W.slave).wrB R.PTP_TC_CFG_P2P false
/-- A state of the witness of ReferenceSelection. -/
def W.referenceSelection5 : State := W.refc fun r => { r with state := .acquiring, act := 1, swAt := 390000, loop := { r.loop with zero := some 0, inSince := 0 }, cands := [(3, { cand0 3 with later := true })] }
/-- A state of the witness of ReferenceSelection. -/
def W.referenceSelection3 : State := W.refc fun r => { r with state := .acquiring, act := 1, swAt := 10, cands := [(3, { cand0 3 with later := true, wait := none }), (6, { cand0 6 with wait := some 0 })] }
/-- A state of the witness of ReferenceSelection. -/
def W.referenceSelection6 : State := W.refc fun r => { r with state := .acquiring, act := 1, swAt := 10, svc := 1, svcAt := some 9, cands := [(3, { cand0 3 with disq := true, wait := some 4 })] }
/-- A state of the witness of ReferenceSelection. -/
def W.referenceSelection8 : State := { W.run with audio := { W.run.audio with apllLost := true } }
/-- A state of the witness of Holdover. -/
def W.holdover2 : State := W.refc fun r => { r with state := .locked, act := 1, svc := 1, cands := [(1, { cand0 1 with input := true }), (6, { cand0 6 with input := true, disq := true })] }
/-- A state of the witness of Holdover. -/
def W.holdover3 : State := W.refc fun r => { r with state := .holdover, base := some ⟨5, 6, 7⟩, elapsed := 100000000 }
/-- A state of the witness of Holdover. -/
def W.holdover5 : State := { (W.refc fun r => { r with state := .locked, svc := 1 }).wrB R.HOLD_CFG_AGE_EN true with clk := 50000000000 }
/-- A state of the witness of TwinLink. -/
def W.twinLink2 : State := W.tw .follower 1000 0 id
/-- A state of the witness of TwinLink. -/
def W.twinLink3 : State := W.tw .leader 1000 0 fun t => { t with lanes := 1 }
/-- A state of the witness of Heartbeats. -/
def W.heartbeats1 : State := W.tw .follower 1000 0 id
/-- A state of the witness of Heartbeats. -/
def W.heartbeats3 : State := W.tw .follower 1000 0 (fun t => { t with hbAt := 127000 })
/-- A state of the witness of Heartbeats. -/
def W.heartbeats4 : State := W.tw .leader 1000 0 (fun t => { t with hbFeedAt := 7000 })
/-- A state of the witness of Heartbeats. -/
def W.heartbeats10 : State := W.link (W.tw .follower 1000 0 id)
/-- A state of the witness of Heartbeats. -/
def W.heartbeats6 : State := W.tw .orphan 1006 0 id
/-- A state of the witness of Heartbeats. -/
def W.heartbeats7 : State := W.tw .follower 1006 0 (fun t => { t with nhbMiss := 20 })
/-- A state of the witness of TwinMirroring. -/
def W.twinMirroring1 : State := W.tw .follower 1007 125 id
/-- A state of the witness of TwinMirroring. -/
def W.twinMirroring8 : State := { W.tw .leader 1007 110 id with audio := { (W.tw .leader 1007 110 id).audio with convs := [(1040, conv0 0)] } }
/-- A state of the witness of TwinMirroring. -/
def W.twinMirroring2 : State := W.tw .follower 1000 5 (fun t => { t with inStep := true })
/-- A state of the witness of TwinMirroring. -/
def W.twinMirroring6 : State := W.tw .follower 1002 5 (fun t => { t with inStep := true, mask := some (124, []) })
/-- A state of the witness of TwinMirroring. -/
def W.twinMirroring4 : State := W.waits [(true, .req (onPath 1) (.latent 0x1000 [some 1, some 2]) true)] (W.tw .leader 1001 100 id)
/-- A state of the witness of Resynchronisation. -/
def W.resynchronisation1 : State := W.tw .follower 1000 0 id
/-- A state of the witness of Resynchronisation. -/
def W.resynchronisation2 : State := W.tw .follower 1000 0 (fun t => { t with copy := .resync, rejoin := some 125 })
/-- A state of the witness of Resynchronisation. -/
def W.resynchronisation4 : State := W.tw .commission 1000 0 (fun t => { t with copy := .join, rejoin := some 125, joining := true })
/-- A state of the witness of Resynchronisation. -/
def W.resynchronisation5 : State := W.tw .leader 1000 0 id
/-- A state of the witness of Resynchronisation. -/
def W.resynchronisation6 : State := (let s := W.tw .commission 1000 0 (fun t => { t with joining := true }); { s with ref := { s.ref with act := 7, state := .locked } })
/-- A state of the witness of DriveAndLeadership. -/
def W.driveAndLeadership2 : State := { W.run with clk := 3 }
/-- A state of the witness of DriveAndLeadership. -/
def W.driveAndLeadership5 : State := W.tw .leader 1000 0 (fun t => { t with drive := true, driveIn := true, driveAt := 1999 })
/-- A state of the witness of DriveAndLeadership. -/
def W.driveAndLeadership3 : State := W.tw .leader 1000 0 (fun t => { t with relq := true, drive := true, driveAt := 3 })
/-- A state of the witness of DriveAndLeadership. -/
def W.driveAndLeadership6 : State := W.tw .follower 1000 64 (fun t => { t with wIn := true, wLink := some true })
/-- A state of the witness of DriveAndLeadership. -/
def W.driveAndLeadership11 : State := W.tw .quiesce 1000 0 id
/-- A state of the witness of DriveAndLeadership. -/
def W.driveAndLeadership9 : State := W.tw .follower 1000 0 (fun t => { t with leadDue := some 2, drive := true })
/-- A state of the witness of DriveAndLeadership. -/
def W.driveAndLeadership13 : State := W.tw .leader 1000 0 (fun t => { t with peerRole := 3, peerStep := true })
/-- A state of the witness of DriveAndLeadership. -/
def W.driveAndLeadership4 : State := W.tw .leader 1000 0 (fun t => { t with relq := true })
/-- A state of the witness of DriveAndLeadership. -/
def W.driveAndLeadership16 : State := W.tw .follower 1000 0 (fun t => { t with wRelq := some 0 })
/-- A state of the witness of DriveAndLeadership. -/
def W.driveAndLeadership8 : State := W.tw .orphan 1000 0 (fun t => { t with leadDue := some 4, copy := .join })
/-- A state of the witness of DriveAndLeadership. -/
def W.driveAndLeadership10 : State := W.tw .follower 1000 0 (fun t => { t with driveIn := true, wLink := some false, wNet := true })
/-- A state of the witness of PowerPeriods. -/
def W.powerPeriods3 : State := W.ps 0 fun v => { v with st := .run, next := some 4096010, live := true, cur := 100000000, e1 := 5, n := 768 }
/-- A state of the witness of PowerPeriods. -/
def W.powerPeriods4 : State := W.ps 1 fun v => { v with st := .run, next := some 4096010, live := true, lim := true, win := List.replicate 40 true }
/-- A state of the witness of PowerPeriods. -/
def W.powerPeriods5 : State := W.ps 2 fun v => { v with st := .stopping, next := some 4096010, offAt := some 5 }
/-- A state of the witness of ChannelStates. -/
def W.channelStates1 : State := W.ps 0 id
/-- A state of the witness of ChannelStates. -/
def W.channelStates4 : State := W.ps 0 fun v => { v with st := .diag, step := 1, cut := true }
/-- A state of the witness of ChannelStates. -/
def W.channelStates5 : State := W.ps 0 fun v => { v with st := .diag, step := 2, since := 127900 }
/-- A state of the witness of ChannelStates. -/
def W.channelStates7 : State := W.ps 0 fun v => { v with st := .diag, step := 6, since := 100, cmd := true, prev := .fault }
/-- A state of the witness of ChannelStates. -/
def W.channelStates8 : State := W.ps 0 fun v => { v with st := .start, tr := 900 }
/-- A state of the witness of ChannelStates. -/
def W.channelStates9 : State := W.ps 0 fun v => { v with st := .ramp, tr := 9, ramp := 100 }
/-- A state of the witness of ChannelStates. -/
def W.channelStates10 : State := W.ps 5 fun v => { v with st := .run, tr := 9, ramp := 100 }
/-- A state of the witness of PowerMutesAndCommands. -/
def W.powerMutesAndCommands2 : State := { W.ps 0 fun v => { v with st := .run, nxt := 77 } with psm := { (W.ps 0 fun v => { v with st := .run, nxt := 77 }).psm with fedSmp := some 999 } }
/-- A state of the witness of PowerMutesAndCommands. -/
def W.powerMutesAndCommands3 : State := { W.ps 0 fun v => { v with st := .run, mute := some 5 } with psm := { (W.ps 0 fun v => { v with st := .run, mute := some 5 }).psm with feedMute := true, stall := some 4 } }
/-- A state of the witness of PowerMutesAndCommands. -/
def W.powerMutesAndCommands4 : State := W.ps 0 fun v => { v with st := .tripped }
/-- A state of the witness of PowerMutesAndCommands. -/
def W.powerMutesAndCommands6 : State := { W.com with twin := { W.com.twin with driveIn := true } }
/-- A state of the witness of MovesAndFences. -/
def W.movesAndFences2 : State := W.mule [0x1, 0x10001004, 0x10002000, 8] id
/-- A state of the witness of MovesAndFences. -/
def W.movesAndFences4 : State := W.mule [0x11, 0x10001000, 0x10002000, 0x402] id
/-- A state of the witness of MovesAndFences. -/
def W.movesAndFences5 : State := W.mule [0x21, 0x10001000, 0x10002000, 0x302] id
/-- A state of the witness of MovesAndFences. -/
def W.movesAndFences6 : State := W.mule [0x31, 0x10001000, 0x10002000, 1] id
/-- A state of the witness of MovesAndFences. -/
def W.movesAndFences8 : State := W.fence 0 0 (W.mule [6] id)
/-- A state of the witness of MovesAndFences. -/
def W.movesAndFences7 : State := W.fence 3 0 (W.com.setEnable (Pg.FL 3) true)
/-- A state of the witness of MovesAndFences. -/
def W.movesAndFences11 : State := W.fence 16 127999 (W.mule [6] fun v => { v with used := [16], st := .fenced })
/-- A state of the witness of MuleControl. -/
def W.muleControl1 : State := W.mule [0x20002, 1, 100, 4294967295] id
/-- A state of the witness of MuleControl. -/
def W.muleControl2 : State := W.mule [0x20002, 0, 100, 4294967295] id
/-- A state of the witness of MuleControl. -/
def W.muleControl4 : State := W.mule [5, 0x10000000] id
/-- A state of the witness of MuleControl. -/
def W.muleControl5 : State := W.mule [3, 5] id
/-- A state of the witness of MuleControl. -/
def W.muleControl8 : State := { W.mule [3, 5] (fun v => { v with st := .wait, waitBlk := 124 }) with clk := 128005 }
/-- A state of the witness of MuleControl. -/
def W.muleControl6 : State := W.mule [3, 5] (fun v => { v with st := .wait, waitBlk := 124 })
/-- A state of the witness of MuleControl. -/
def W.muleControl10 : State := W.mule [0x13, 77] fun v => { v with st := .wait }
/-- A state of the witness of MuleControl. -/
def W.muleControl9 : State := W.mule [0x13, 77] id
/-- A state of the witness of MuleControl. -/
def W.muleControl12 : State := { W.mule [0x2123] (fun v => { v with st := .wait }) with fab := { (W.mule [0x2123] (fun v => { v with st := .wait })).fab with flags := [3, 33] } }
/-- A state of the witness of MuleControl. -/
def W.muleControl13 : State := W.mule [0x2104] id
/-- A state of the witness of MuleControl. -/
def W.muleControl14 : State := W.mule [0x14, 5] id
/-- A state of the witness of MuleControl. -/
def W.muleControl15 : State := W.mule [0x24, 5] id
/-- A state of the witness of MuleControl. -/
def W.muleControl16 : State := W.mule [6] id
/-- A state of the witness of MuleStopsAndStarts. -/
def W.muleStopsAndStarts1 : State := W.mule [0] id
/-- A state of the witness of MuleStopsAndStarts. -/
def W.muleStopsAndStarts2 : State := W.mule [5, 0x10000000] fun v => { v with steps := 100000 }
/-- A state of the witness of MuleStopsAndStarts. -/
def W.muleStopsAndStarts3 : State := W.mule [0x1, 0x10001004, 0x10002000, 8] id
/-- A state of the witness of MuleStopsAndStarts. -/
def W.muleStopsAndStarts5 : State := W.mule [6] fun v => { v with st := .done, restart := some 5 }
/-- A state of the witness of FabricAndScrubbing. -/
def W.fabricAndScrubbing3 : State := { W.run with fab := { W.run.fab with grants := [(0, 30), (1, 31), (2, 32), (3, 30)], locks := [(1, some ⟨22, 0x10000040, 5⟩)], ceWait := [5, 7], prio := some 3, passes := 4 }, clk := 7000 }
/-- A state of the witness of LoupePower. -/
def W.loupePower1 : State := W.loupe id
/-- A state of the witness of LoupePower. -/
def W.loupePower3 : State := W.loupe fun l => { l with power := .clock, lostAt := some 700, seqNew := 4 }
/-- A state of the witness of LoupeMeasures. -/
def W.loupeMeasures1 : State := W.loupe id
/-- A state of the witness of LoupeMeasures. -/
def W.loupeMeasures3 : State := W.loupe fun l => { l with laf := 6000, lafSq := [10 ^ 12, 10 ^ 10, 3, 0], ofs0 := 11000 }
/-- A state of the witness of LoupeMeasures. -/
def W.loupeMeasures4 : State := W.loupe fun l => { l with due := true, logSec := true, iSec := W.full 48000, level := 60 }
/-- A state of the witness of LoupeUartAndMailbox. -/
def W.loupeUartAndMailbox1 : State := W.loupe id
/-- A state of the witness of LoupeUartAndMailbox. -/
def W.loupeUartAndMailbox2 : State := W.loupe fun l => { l with flashFault := true }
/-- A state of the witness of LoupeUartAndMailbox. -/
def W.loupeUartAndMailbox4 : State := (W.loupe id).wrB R.LPM_REQ_GO true
/-- A state of the witness of LoupeUartAndMailbox. -/
def W.loupeUartAndMailbox5 : State := ((W.loupe fun l => { l with seqNew := 9, flash := [(2, l.mkRecord 9 2 64 5 [1])] }).setW A.LPM_REQ_SEQ 9).wrB R.LPM_REQ_GO true
/-- A state of the witness of LoupeSettings. -/
def W.loupeSettings0 : State := W.loupe id
/-- A state of the witness of LoupeSeal. -/
def W.loupeSeal0 : State := W.loupe id
/-- A state of the witness of LoupeSeal. -/
def W.loupeSeal2 : State := W.loupe fun l => { l with cal := some ⟨0, 9400, 480000, 10 ^ 18⟩, ofs0 := 11900, sealCount := 4, key := some (List.replicate 8 3) }
/-- A state of the witness of LoupeSeal. -/
def W.loupeSeal3 : State := W.loupe fun l => { l with cal := some ⟨1, 9400, 479999, 10 ^ 18⟩ }
/-- A state of the witness of DipsAndFuses. -/
def W.dipsAndFuses2 : State := { W.com with pwr := { W.com.pwr with dipCore := some ⟨0, 690, false, false, false⟩, fuseBusy := some 0 }, clk := 5000000 }
/-- A state of the witness of DipsAndFuses. -/
def W.dipsAndFuses3 : State := (let s := W.tw .leader 100000 5 (fun t => { t with peerRole := 3 }); { ((s.wrB R.TW_REL_SUPPLY true).wrB R.MODE_QRULE_SUPPLY true) with pwr := { s.pwr with dipMem := some ⟨0, 740, true, false, false⟩ } })
/-- A state of the witness of DipsAndFuses. -/
def W.dipsAndFuses4 : State := { W.com with pwr := { W.com.pwr with fuseBusy := some 3 } }
/-- A state of the witness of Boot. -/
def W.boot1 : State := W.waitPush W.img
/-- A state of the witness of Boot. -/
def W.boot2 : State := W.waitPush [1, 2]
/-- A state of the witness of Boot. -/
def W.boot3 : State := { State.reset with pwr := { State.reset.pwr with image := some W.img, booting := false } }
/-- A state of the witness of ModeRequests. -/
def W.modeRequests4 : State := W.com.wrB R.TW_CFG_EN true
/-- A state of the witness of ModeRequests. -/
def W.modeRequests6 : State := W.tw .commission 1000 5 (fun t => { t with peerRole := 2 })
/-- A state of the witness of ModeRequests. -/
def W.modeRequests12 : State := { W.tw .quiesce 1000 5 id with mode := ⟨.quiesce, .standalone, none, 0, true, none, false⟩ }
/-- A state of the witness of ModeRequests. -/
def W.modeRequests16 : State := { W.com with mode := { W.com.mode with pend := some .standalone } }
/-- A state of the witness of ModeChanges. -/
def W.modeChanges2 : State := { W.run with clk := 3, mode := { W.run.mode with pend := some .quiesce, pendAt := 0 } }
/-- A state of the witness of ModeChanges. -/
def W.modeChanges1 : State := { W.run with mode := { W.run.mode with pend := some .quiesce, pendAt := 0 } }
/-- A state of the witness of ModeChanges. -/
def W.modeChanges4 : State := { W.com with mode := { W.com.mode with pend := some .dark, pendAt := 0 }, slots := (W.slots 0).slots }
/-- A state of the witness of ModeChanges. -/
def W.modeChanges5 : State := { W.com with mode := { W.com.mode with entering := true }, hens := [(3, { hen0 3 with imem := [(1, 2)] })] }
/-- A state of the witness of ModeChanges. -/
def W.modeChanges9 : State := { (W.dark.wrB R.LPM_CFG_WAKE_EN true) with lp := { W.com.lp with alert := true } }
/-- A state of the witness of ModeChanges. -/
def W.modeChanges10 : State := { W.com with mode := { W.com.mode with wakeAt := some 5, audioReady := false }, clk := 245766 }
/-- A state of the witness of ModeChanges. -/
def W.modeChanges11 : State := { W.com with mode := { W.com.mode with wakeAt := some 5, audioReady := false }, clk := 245764 }

/-! WellFormed: a term for each check, which the check refuses. -/

theorem test_wf_refuses_twin_paths : (([.registerWrite .twin (.fabric 0) 4 0, .loReadCapture .twin (.fabric 0) 4, .hiWriteApply .twin (.fabric 0) 0, .contactSheetRead .twin false,
        .latentWindowWrite .twin 0 [], .directClassWrite .twin 0 [], .hstNkey0Write .twin 0, .hstNkey7Write .twin 0, .pageKeyWrite .twin 0 0,
        .softReset .twin 0, .freeze .twin 0 false, .evtPendClear .twin 0 0 0, .devWdtCtrlWrite .twin 0, .wdtKick .twin 0, .actArm .twin 0 0,
        .actCancel .twin 0 0, .refill .twin 0, .flockGateRequest .twin 0, .flockUngate .twin 0, .schEnableWrite .twin 0, .mixMtrClr .twin 0,
        .sapgApply .twin 0, .sapgEnableWrite .twin 0 0, .ethEnableWrite .twin 0 0, .atuReadIndex .twin, .atuWriteStatic .twin, .atuDeleteKey .twin,
        .atuLookupKey .twin, .atuFlushDynamic .twin 0, .mdioAddress .twin 0 0, .mdioWrite .twin false 0 0, .mdioRead .twin false 0 0, .mdioReadInc
        .twin 0 0, .strxApply .twin, .sttxApply .twin, .ptpTodWrite .twin 0, .resync .twin 0, .relinquish .twin 0, .restart .twin 0, .diag .twin 0,
        .psEnableWrite .twin 0 0, .psmBandWrite .twin 0 false 0, .muleStart .twin 0, .muleStop .twin 0, .mulHflagSet .twin 0 0, .mulHflagClr .twin 0 0
        0, .prio .twin 0, .lpmReqGo .twin 0, .device .twin, .push .twin, .modeReqStandalone .twin, .modeReqLeader .twin, .modeReqFollower .twin,
        .modeReqQuiesce .twin, .modeReqReturn .twin 0, .modeReqDark .twin false, .modeReqCommission .twin, .prog .twin, .twlOff .twin 0] :
      List Instr).all fun i => !i.wf) = true := by decide +kernel

theorem test_wf_refuses_operands : (([.registerWrite .pcie (.fabric 0) 0 0, .registerWrite .pcie (.fabric 0) 65 0, .registerWrite .pcie (.fabric (2 ^ 32)) 4 0, .registerWrite .spi
      (.bar0 0) 4 0, .registerWrite .pcie (.bar0 (2 ^ 26)) 4 0, .registerWrite .nmgt (.bar2 0) 4 0, .registerWrite .pcie (.bar2 (2 ^ 28)) 4 0,
      .registerWrite .spi .msixControl 2 0, .loReadCapture .pcie (.fabric (2 ^ 32)) 4, .loReadCapture .pcie (.fabric 0) 0, .loReadCapture .pcie
      (.fabric 0) 513, .hiWriteApply .pcie (.fabric (2 ^ 32)) 0, .latentWindowWrite .pcie (2 ^ 23) [], .directClassWrite .pcie (2 ^ 23) [],
      .writeWords (2 ^ 32) [] 0, .readWords (2 ^ 32) [], .quadWriteWords (2 ^ 32) [] 0, .quadReadWords (2 ^ 32) [], .mgmtRequest (2 ^ 48) 0 [],
      .mgmtRequest 0 4096 [], .serialFrame 0 [] 0, .frameReceive 0 [] 0, .ringCheckReceive 0 (2 ^ 48) 0, .ringChangeReceive 0 (2 ^ 48) 0, .copyReceive
      0 [], .freqMeasure [] 0, .twinLinkUp ⟨0xA1, 5, [], 0, true⟩, .netHeartbeat 0 [], .blockMessage ⟨5, some ⟨0, 0, [], 0, 0, 0, 1, 2, 3, 0, [],
      List.replicate 8 false, none, none, [], [], []⟩, 5, false, 0, 0, ⟨false, none, .none, false⟩⟩, .mirroredWrite 0 (.reg (2 ^ 32) 0) 0,
      .mirroredWrite 0 (.latent (2 ^ 23) []) 0, .mirroredWrite 0 (.direct (2 ^ 23) []) 0, .mirroredWrite 0 (.memory (2 ^ 32) []) 0, .mirrorBlock 0 []
      [] [], .digestReceive 0 (some []) none, .muleTimeout 0 0 (2 ^ 26 + 1) 0 none, .busErr 0 0 (2 ^ 26 + 1) 0 none, .beatGrant 0 0 [W.beat 0 (2 ^ 32)
      0 0 none], .ceWriteback (2 ^ 32), .ceWriteback 4, .scrubLine 0 (2 ^ 32) (List.replicate 8 .clean), .scrubLine 0 8 (List.replicate 8 .clean),
      .scrubLine 0 0 [], .lpKey true [] false, .hotReset 0 1, .hotReset 3 1, .hotReset 1 0, .hotReset 1 4] :
      List Instr).all fun i => !i.wf) = true := by decide +kernel

theorem test_wf_accepts : (([.registerWrite .pcie (.fabric 0x40000040) 4 0, .registerWrite .pcie .msixControl 2 0x8000, .hotReset 1 3, .actArm .spi 31 3, .lpRead 1 1, .setTime true 2031 7 19 21 45 0, .samplePeriod 10416667] :
      List Instr).all fun i => i.wf) = true := by decide +kernel

/-! The table gives no bits to any row. -/

theorem test_decode_none : decodeTableWord 32 0x12345678 = none := rfl

theorem test_fetch_word_unchanged : (State.reset.withFetchWord 32 5).pending = [] := rfl

/-! Values that the spec and the published standards give. -/

-- R1: DEV_ID reads 0x4B5A_2048.
theorem test_dev_id : (State.reset.readWord Pg.DEV 0x040).1 = 0x4B5A2048 := by decide +kernel

-- R140: G(0xC000) is 0x0800_0000; code 0x0000 means no connection; code 0x176C gives G = 0.
theorem test_gain_codes : gainOf 0xC000 = 0x08000000 ∧ gainOf 0 = 0 ∧ gainOf 0x176C = 0 := by decide +kernel

-- Chapter 15, the example of a festival evening: the stamp of 2031-07-19 21:45:00 is 0x0000_7EF7, 0x9D6D_0000.
theorem test_stamp : lpStamp ((daysToYear 31 + 199) * 86400 + 21 * 3600 + 45 * 60) 0 = 0x7EF79D6D0000 := by decide +kernel

-- Chapter 08, the example of R223: at 25 Gb/s a PAUSE with q = 0xFFFF asks for 1.342 ms, of which a tick of the model is 1/12,288 ms.
theorem test_pause_time : W.com.pauseTicks 2 0xFFFF * 1000 / 12288 = 1342 := by decide +kernel

-- FIPS 180-4: the digest of "abc".
theorem test_sha256 : beNat (sha256 [0x61, 0x62, 0x63]) = 0xba7816bf8f01cfea414140de5dae2223b00361a396177a9cb410ff61f20015ad := by decide +kernel

-- R375: a slack of 2^23 cycles reads as overdue, and one of 2^23 - 1 does not.
theorem test_slack : slackAt 1000 1400 = 400 ∧ slackAt 0 0x800000 < 0 ∧ slackAt 0 0x7FFFFF = 0x7FFFFF := by decide +kernel

-- R8: with no command waiting the tick count moves to 1.
theorem test_idle_tick : ∃ t, step State.reset = .next t ∧ t.clk = 1 := ⟨_, rfl, rfl⟩

/-! Witnesses: for each statement, states and operands that meet the hypotheses of each of its clauses together. -/

theorem witness_StepRunsFront : ({ W.com with pending := [.laneFail, .orphan] } : State).pending = .laneFail :: [.orphan] := rfl

theorem witness_TicksSamplesAndBlocks_idle :
    (W.com.pending = [] ∧ W.com.clk % 128 ≠ 127) ∧ (({ W.com with clk := 127 } : State).pending = [] ∧ ({ W.com with clk := 127 } : State).clk % 128 = 127) := by
  decide +kernel

theorem witness_EveryCommandAnswers : (finish State.reset State.reset).fab.hostWait = [] ∧ State.reset.fab.hostWait = [] := by decide +kernel

theorem witness_StepKeepsMemoryWf : MemoryWf State.reset ∧ ∃ t, step State.reset = .next t := by
  refine ⟨⟨by decide +kernel, by decide +kernel, by decide +kernel, by decide +kernel, fun _ => ⟨?_, ?_⟩⟩, _, rfl⟩ <;> rfl

theorem witness_HenArithmetic :
    ((⟨0, false⟩ : Accum).gov = false ∧ ¬((⟨0, false⟩ : Accum).v.toInt + (2 ^ 71 - 1) < -(2 ^ 71) ∨ 2 ^ 71 - 1 < (⟨0, false⟩ : Accum).v.toInt + (2 ^ 71 - 1))) ∧
    ((⟨BitVec.ofInt 72 (2 ^ 71 - 1), false⟩ : Accum).gov = false ∧ 2 ^ 71 - 1 < (⟨BitVec.ofInt 72 (2 ^ 71 - 1), false⟩ : Accum).v.toInt + 1) ∧
    ((⟨BitVec.ofInt 72 (-(2 ^ 71)), false⟩ : Accum).gov = false ∧ (⟨BitVec.ofInt 72 (-(2 ^ 71)), false⟩ : Accum).v.toInt + -1 < -(2 ^ 71)) ∧
    ((⟨5, true⟩ : Accum).gov = true) ∧ (1 ≤ 1 ∧ 3 < 4) ∧ (7 ≤ 7) ∧
    (-(2 ^ 63) ≤ (BitVec.ofInt 72 (2 ^ 63 - 2 ^ 31 - 1)).toInt ∧ (BitVec.ofInt 72 (2 ^ 63 - 2 ^ 31 - 1)).toInt < 2 ^ 63 - 2 ^ 31) := by
  decide +kernel

/-- Network management enabled, with a key of zeros. -/
def W.keyed : State := { W.com.wrB R.HST_NMGT_CFG_EN true with host := { W.com.host with keyValid := true, nkey := List.replicate 8 0 } }

theorem witness_Management_accepted :
    Quiet W.keyed ∧ W.keyed.on R.HST_NMGT_CFG_EN = true ∧ nth 0 W.mgmt 0 = 1 ∧ W.keyed.mgmtOk W.mgmt = true := by
  decide +kernel

/-- The 32nd grant of bank 0 is next. -/
def W.turn : State := { W.run with fab := { W.run.fab with grants := [(0, 31)] } }

theorem witness_FabricAndScrubbing_turns :
    (W.com.longestTurn 0 = false ∧ (W.com.grantOf 0 1 W.beats).isSome = true) ∧ (W.turn.longestTurn 0 = true ∧ (W.turn.grantOf 0 1 W.beats).isSome = true) := by
  decide +kernel

/-- The image's signature verifies (R421). -/
theorem img_signed : ecdsaOk (imgBe W.img 0x40 32) (imgBe W.img 0x60 32) (imgBe W.img (imgNat W.img 8 4 - 64) 32) (imgBe W.img (imgNat W.img 8 4 - 32) 32)
    (sha256 (W.img.take (imgNat W.img 8 4 - 64))) = true := by
  decide +kernel

theorem img_verifies (pushed : Bool) : imageCode none pushed W.img = 0 := by
  simp only [imageCode]
  rw [if_neg (by decide +kernel), if_neg (by cases pushed <;> decide +kernel), if_neg (by decide), if_pos img_signed]

/-- Groups 0 to 3 running with their mules at sample 1000, the output ring of group 1 apart from its input ring. -/
def W.framing : State := (W.serialM id).wr (R.SAPG_BUF_TX_ADDR 1) 0x10010000

theorem witness_SerialFramesAndClocks_frames :
    (∃ g, g < 4 ∧ (W.framing.grp g).phase = .run ∧ (gcfg W.framing.active g).master = false ∧ W.framing.frameable g = true ∧
      (W.framing.rxTable g (gcfg W.framing.active g).lead).isSome = true ∧ W.framing.muleServes (64 + 2 * g) = true ∧
      (W.framing.rxRing g + 64 * (gcfg W.framing.active g).buf ≤ W.framing.txRing g ∨ W.framing.txRing g + 64 * (gcfg W.framing.active g).buf ≤ W.framing.rxRing g)) ∧
    (∃ g, g < 4 ∧ (W.framing.grp g).phase = .run ∧ (gcfg W.framing.active g).master = true ∧ (gcfg W.framing.active g).fsCode = 3 ∧
      W.framing.frameable g = true ∧ W.framing.muleServes (65 + 2 * g) = true ∧ 2 ≤ W.framing.smp ∧ (W.framing.smp - 2) / 8 ≤ W.framing.block) := by
  decide +kernel

theorem bridge4_key : W.bridgeTableAndRing4.atuKey = (0x020000000002, 1) := by decide +kernel

theorem bridge4_at (i : Nat) :
    W.bridgeTableAndRing4.atuAt i = if 4 * atuBucket 0x020000000002 1 = i then some (W.entry true 2) else none := by
  show tget noAtu [(4 * atuBucket 0x020000000002 1, some (W.entry true 2))] i = _
  simp only [tget, noAtu, eq_comm]

theorem bridge4_find : W.bridgeTableAndRing4.atuFind W.bridgeTableAndRing4.atuKey.fst W.bridgeTableAndRing4.atuKey.snd = some (4 * atuBucket 0x020000000002 1) := by
  rw [bridge4_key]
  show List.find? _ [4 * atuBucket 0x020000000002 1 + 0, _, _, _] = _
  rw [Nat.add_zero, List.find?_cons, bridge4_at, if_pos rfl]
  rfl

theorem bridge4_place : ¬∀ k : Nat, k < 4 →
    ∃ e, W.bridgeTableAndRing4.atuAt (4 * atuBucket W.bridgeTableAndRing4.atuKey.fst W.bridgeTableAndRing4.atuKey.snd + k) = some e ∧ e.static = true := by
  intro h
  obtain ⟨e, he, _⟩ := h 1 (by decide)
  rw [bridge4_key, bridge4_at, if_neg (by omega)] at he
  cases he

theorem bridge7_key : W.bridgeTableAndRing7.atuKey = (0, 0) := by decide +kernel

theorem bridge7_full : ∀ k : Nat, k < 4 →
    ∃ e, W.bridgeTableAndRing7.atuAt (4 * atuBucket W.bridgeTableAndRing7.atuKey.fst W.bridgeTableAndRing7.atuKey.snd + k) = some e ∧ e.static = true := by
  rw [bridge7_key]
  intro k hk
  simp only [State.atuAt, W.bridgeTableAndRing7, W.withAtu, tget]
  match k, hk with
  | 0, _ => exact ⟨W.entry true 2, by simp, rfl⟩
  | 1, _ => exact ⟨W.entry true 3, by simp, rfl⟩
  | 2, _ => exact ⟨W.entry true 4, by simp, rfl⟩
  | 3, _ => exact ⟨W.entry true 5, by simp, rfl⟩

theorem witness_TicksSamplesAndBlocks :
    (Quiet W.com ∧ W.com.mode.cur.counts = true ∧ W.com.workDue = false) ∧
    (Quiet W.due ∧ W.due.mode.cur.counts = true ∧ W.due.workDue = true) ∧
    (Quiet State.reset ∧ State.reset.mode.cur.counts = false) ∧
    (Quiet State.reset ∧ State.reset.bndDue = false) ∧
    (Quiet W.due ∧ W.due.bndDue = true ∧ W.due.mode.cur ≠ Mode.dark) ∧
    (Quiet W.dark ∧ W.dark.bndDue = true ∧ W.dark.mode.cur = Mode.dark) := by
  refine ⟨?_, ?_, ?_, ?_, ?_, ?_⟩ <;> decide +kernel

theorem witness_PageHeaderAndEvents :
    (isPage 0 = true ∧ Quiet W.com ∧ (Path.internal = Path.nmgt → 0 ≠ Pg.HST)) ∧
    (Quiet W.com ∧ isPage 0 = true ∧ (Path.internal = Path.nmgt → 0 ≠ Pg.HST)) ∧
    (Quiet W.com) := by
  refine ⟨?_, ?_, ?_⟩ <;> decide +kernel

theorem witness_FailedWrites :
    (isPage 0 = true ∧ 0 < 4096 ∧ Quiet W.com ∧ (0 ≠ 4 ∨ 0 % 4 ≠ 0) ∧ ¬(0 = Pg.DEV ∧ 0 = 128 ∧ 0 = 64)) ∧
    (isPage 0 = true ∧ 0 < 4096 ∧ Quiet W.com ∧ (0 ≠ 4 ∨ 0 % 4 ≠ 0)) := by
  refine ⟨?_, ?_⟩ <;> decide +kernel

theorem witness_WideReads :
    (Quiet W.wideReads0 ∧ W.wideReads0.frozen Pg.TL = false ∧ W.wideReads0.host.hiCap = [] ∧ W.wideReads0.host.wideCap = []) ∧
    (Quiet W.wideReads0 ∧ (W.wideReads0.slot 0).state ≠ SlotState.armed ∧ Taken W.wideReads0 Path.internal (A.TL_ACT_TL_LO 0) 0#32) ∧
    (Quiet W.wideReads1 ∧ (W.wideReads1.slot 1).state ≠ SlotState.armed ∧ Taken W.wideReads1 Path.pcie (A.TL_ACT_TL_HI 1) 0#32 ∧ tget noWord
      W.wideReads1.host.loStage (stageKey Path.pcie.code (A.TL_ACT_TL_LO 1)) = some 1#32) ∧
    (Quiet W.wideReads0 ∧ W.wideReads0.frozen Pg.DEV = false) ∧
    (Quiet W.wideReads0 ∧ W.wideReads0.frozen Pg.DEV = false ∧ W.wideReads0.host.hiCap = [] ∧ W.wideReads0.host.wideCap = []) := by
  refine ⟨?_, ?_, ?_, ?_, ?_⟩ <;> decide +kernel

theorem witness_SlaveTransactions :
    (Quiet W.com) ∧
    (Quiet W.com ∧ isPage 0 = true) ∧
    (Quiet W.com ∧ isPage 0 = true ∧ 0 < 4096 ∧ 0 % 4 = 0) ∧
    (Quiet W.com ∧ isPage 0 = true ∧ W.com.frozen 0 = false ∧ W.com.host.hiCap = [] ∧ W.com.host.wideCap = []) ∧
    (Quiet W.com ∧ W.com.target 1073745940 = 32 ∧ 1073745940 % 4 = 0) := by
  refine ⟨?_, ?_, ?_, ?_, ?_⟩ <;> decide +kernel

theorem witness_BankWindows :
    (Quiet W.bankWindows1 ∧ TakenAny W.bankWindows1 Path.internal ∧ wholeFields 0 [some 1#8, some 2#8] = true ∧ W.bankWindows1.bankLocked = true) ∧
    (Quiet W.com ∧ TakenAny W.com Path.internal ∧ wholeFields 0 [some 1#8, some 2#8] = true ∧ W.com.bankLocked = false ∧ W.com.fab.bad = []) ∧
    (Quiet W.bankWindows3 ∧ TakenAny W.bankWindows3 Path.pcie ∧ wholeFields 0 [some 1#8, some 2#8] = true ∧ W.bankWindows3.on R.MIX_DIRECT_EN_EN =
      true ∧ Unlocked W.bankWindows3 Path.pcie Pg.MIX ∧ directOk W.bankWindows3.active 0 [some 1#8, some 2#8] = true ∧ W.bankWindows3.mode.cur.directs
      = true ∧ W.bankWindows3.on R.MIX_DIRECT_THRU_EN = false ∧ W.bankWindows3.fab.bad = []) ∧
    (Quiet W.bankWindows4 ∧ W.bankWindows4.audio.direct = [{ off := 4096, data := [some 1#8, some 2#8], blk := 0, old := false : DirectReq }] ∧
      0 ≤ W.bankWindows4.block ∧ W.bankWindows4.bndDue = false) := by
  refine ⟨?_, ?_, ?_, ?_⟩ <;> decide +kernel

theorem witness_GainsClamped :
    (Quiet W.com ∧ TakenAny W.com Path.internal ∧ W.com.fab.bad = [] ∧ 0 % 2 = 0 ∧ 0 + 4 ≤ 8388608 ∧ W.com.bankLocked = false) ∧
    (Quiet W.gainsClamped1 ∧ TakenAny W.gainsClamped1 Path.pcie ∧ W.gainsClamped1.fab.bad = [] ∧ 0 % 2 = 0 ∧ 0 + 4 ≤ 8388608 ∧ W.gainsClamped1.on
      R.MIX_DIRECT_EN_EN = true ∧ Unlocked W.gainsClamped1 Path.pcie Pg.MIX ∧ directOk W.gainsClamped1.active 0 (List.map some (toLe 2 (0#16).toNat ++
      toLe 2 (0#16).toNat)) = true ∧ W.gainsClamped1.mode.cur.directs = true ∧ W.gainsClamped1.on R.MIX_DIRECT_THRU_EN = false) := by
  refine ⟨?_, ?_⟩ <;> decide +kernel

theorem witness_Management :
    (Quiet W.management0 ∧ W.management0.on R.HST_NMGT_CFG_EN = true ∧ W.management0.mode.cur ≠ Mode.dark ∧ nth 0 ([1, 1, 1] ++ List.replicate 60 0) 0
      = 1 ∧ W.management0.mgmtOk ([1, 1, 1] ++ List.replicate 60 0) = false) ∧
    (Quiet W.management0 ∧ Path.internal ≠ Path.nmgt) ∧
    (Quiet W.management1 ∧ Path.internal ≠ Path.nmgt ∧ W.management1.host.nkeySet = 127) := by
  refine ⟨?_, ?_, ?_⟩ <;> decide +kernel

theorem witness_PageKeysFreezeAndReset :
    (Quiet W.com ∧ isPage 0 = true ∧ Taken W.com Path.internal (pageAddr 0 52) 2779054080#32 ∧ 2779054080#32 = BitVec.ofNat 32 (2779054080 + 0) ∧
      (W.com.keyOf 0 = none ∨ W.com.holdsKey 0 Path.internal.code = true)) ∧
    (Quiet W.pageKeysFreezeAndReset1 ∧ isPage 16 = true ∧ Taken W.pageKeysFreezeAndReset1 Path.internal (pageAddr 16 52) 2779054096#32 ∧ 2779054096#32
      = BitVec.ofNat 32 (2779054080 + 16) ∧ W.pageKeysFreezeAndReset1.keyOf 16 ≠ none ∧ W.pageKeysFreezeAndReset1.holdsKey 16 Path.internal.code =
      false) ∧
    (Quiet W.com ∧ isPage 0 = true ∧ Taken W.com Path.internal (pageAddr 0 52) 0#32 ∧ 0#32 ≠ BitVec.ofNat 32 (2779054080 + 0)) ∧
    (Quiet W.pageKeysFreezeAndReset2 ∧ isPage 16 = true ∧ tget noKey W.pageKeysFreezeAndReset2.host.keys 16 = some { holder := 1, since := 0 : PageKey } ∧
      0 + 1024 ≤ W.pageKeysFreezeAndReset2.clk) ∧
    (Quiet W.com ∧ isPage 0 = true ∧ (Path.internal = Path.nmgt → 0 ≠ Pg.HST) ∧ Path.internal ≠ Path.twin ∧ TakenAny W.com Path.internal ∧
      W.com.frozen 0 = false ∧ W.com.needsKey 0 8 (BitVec.ofNat 32 (setBitsN (W.com.ctrlWord 0) 4 1 1)) = false) ∧
    (Quiet W.pageKeysFreezeAndReset4 ∧ isPage 16 = true ∧ (Path.internal = Path.nmgt → 16 ≠ Pg.HST) ∧ Path.internal ≠ Path.twin ∧ TakenAny
      W.pageKeysFreezeAndReset4 Path.internal ∧ W.pageKeysFreezeAndReset4.frozen 16 = true ∧ W.pageKeysFreezeAndReset4.needsKey 16 8 (BitVec.ofNat 32
      (setBitsN (W.pageKeysFreezeAndReset4.ctrlWord 16) 4 1 0)) = false) ∧
    (Quiet W.pageKeysFreezeAndReset3 ∧ isPage 4 = true ∧ (Path.pcie = Path.nmgt → 4 ≠ Pg.HST) ∧ Path.pcie ≠ Path.twin ∧ TakenAny
      W.pageKeysFreezeAndReset3 Path.pcie ∧ W.pageKeysFreezeAndReset3.holdsKey 4 Path.pcie.code = true ∧ W.pageKeysFreezeAndReset3.softRefused 4
      Path.pcie.code = true) ∧
    (Quiet W.pageKeysFreezeAndReset1 ∧ isPage 16 = true ∧ (Path.pcie = Path.nmgt → 16 ≠ Pg.HST) ∧ Path.pcie ≠ Path.twin ∧ TakenAny
      W.pageKeysFreezeAndReset1 Path.pcie ∧ W.pageKeysFreezeAndReset1.holdsKey 16 Path.pcie.code = true ∧ W.pageKeysFreezeAndReset1.softRefused 16
      Path.pcie.code = false) := by
  refine ⟨?_, ?_, ?_, ?_, ?_, ?_, ?_, ?_⟩ <;> decide +kernel

theorem witness_Watchdog :
    (Quiet W.com ∧ Unlocked W.com Path.twin Pg.DEV ∧ (3073#32).toNat / 2 % 8 ≤ 3 ∧ 12 ≤ (3073#32).toNat / 256 ∧ (3073#32).toNat / 256 ≤ 1200000) ∧
    (Quiet W.watchdog1 ∧ W.watchdog1.on R.DEV_WDT_CTRL_EN = true ∧ (42330#32 = if W.watchdog1.host.wdtNext = true then 23205 else 42330)) ∧
    (Quiet W.watchdog1 ∧ W.watchdog1.on R.DEV_WDT_CTRL_EN = true ∧ (0#32 ≠ if W.watchdog1.host.wdtNext = true then 23205 else 42330)) ∧
    (Quiet W.watchdog3 ∧ W.watchdog3.wdtRuns = true ∧ W.watchdog3.host.wdtWarned = false ∧ W.watchdog3.rd R.DEV_WDT_CTRL_PERIOD ≤ (W.watchdog3.smp -
      W.watchdog3.host.wdtSince) / 8) ∧
    (Quiet W.watchdog4 ∧ W.watchdog4.wdtRuns = true ∧ W.watchdog4.host.wdtWarned = true ∧ 2 * W.watchdog4.rd R.DEV_WDT_CTRL_PERIOD ≤ (W.watchdog4.smp
      - W.watchdog4.host.wdtSince) / 8 ∧ W.watchdog4.rd R.DEV_WDT_CTRL_ACTION = 0) := by
  refine ⟨?_, ?_, ?_, ?_, ?_⟩ <;> decide +kernel

theorem witness_Arming :
    (Quiet W.arming0 ∧ TakenAny W.arming0 Path.internal ∧ bitsN (3#32).toNat 0 4 = 3 ∧ bitN (3#32).toNat 5 = 0 ∧ (W.arming0.slot 0).state ≠
      SlotState.armed ∧ W.arming0.inTime 3 (W.arming0.slot 0).tl Path.internal.code = true) ∧
    (Quiet W.arming0 ∧ TakenAny W.arming0 Path.internal ∧ bitsN (3#32).toNat 0 4 = 3 ∧ bitN (3#32).toNat 5 = 0 ∧ (W.arming0.slot 5).state ≠
      SlotState.armed ∧ W.arming0.inTime 3 (W.arming0.slot 5).tl Path.internal.code = false) ∧
    (Quiet W.arming0 ∧ TakenAny W.arming0 Path.internal ∧ bitsN (3#32).toNat 0 4 = 3 ∧ bitN (3#32).toNat 5 = 0 ∧ (W.arming0.slot 1).state =
      SlotState.armed) ∧
    (Quiet W.arming0 ∧ TakenAny W.arming0 Path.internal ∧ bitsN (1#32).toNat 0 4 = 1 ∧ bitN (1#32).toNat 5 = 0 ∧ (W.arming0.slot 0).state ≠
      SlotState.armed ∧ W.arming0.inTime 1 (W.arming0.slot 0).tl Path.internal.code = true ∧ (W.arming0.slot 0).tl % 8 = 0 ∧ W.arming0.bankLocked =
      false) ∧
    (Quiet W.arming0 ∧ TakenAny W.arming0 Path.internal ∧ bitsN (1#32).toNat 0 4 = 1 ∧ bitN (1#32).toNat 5 = 0 ∧ (W.arming0.slot 2).state ≠
      SlotState.armed ∧ W.arming0.inTime 1 (W.arming0.slot 2).tl Path.internal.code = true ∧ (W.arming0.slot 2).tl % 8 ≠ 0) ∧
    (Quiet W.arming3 ∧ TakenAny W.arming3 Path.internal ∧ bitsN (1#32).toNat 0 4 = 1 ∧ bitN (1#32).toNat 5 = 0 ∧ (W.arming3.slot 0).state ≠
      SlotState.armed ∧ W.arming3.inTime 1 (W.arming3.slot 0).tl Path.internal.code = true ∧ (W.arming3.slot 0).tl % 8 = 0 ∧ W.arming3.bankLocked =
      true) := by
  refine ⟨?_, ?_, ?_, ?_, ?_, ?_⟩ <;> decide +kernel

theorem witness_SlotActions :
    (Quiet W.slotActions0 ∧ TakenAny W.slotActions0 Path.internal ∧ bitsN (0#32).toNat 0 4 ≤ 3 ∧ bitN (0#32).toNat 4 = 0 ∧ (W.slotActions0.slot
      1).state = SlotState.armed ∧ W.slotActions0.inTime (W.slotActions0.slot 1).type (W.slotActions0.slot 1).tl Path.internal.code = true) ∧
    (Quiet W.slotActions1 ∧ TakenAny W.slotActions1 Path.internal ∧ bitsN (0#32).toNat 0 4 ≤ 3 ∧ bitN (0#32).toNat 4 = 0 ∧ (W.slotActions1.slot
      1).state = SlotState.armed ∧ W.slotActions1.inTime (W.slotActions1.slot 1).type (W.slotActions1.slot 1).tl Path.internal.code = false) ∧
    (Quiet W.slotActions5 ∧ (W.slotActions5.slot 1).state = SlotState.armed ∧ (W.slotActions5.slot 1).type = 3 ∧ (W.slotActions5.slot 1).tl ≤
      W.slotActions5.tl ∧ W.slotActions5.bndDue = false ∧ W.slotActions5.developDue = false ∧ W.slotActions5.writeDue 32 = false) ∧
    (Quiet W.slotActions1 ∧ W.slotActions1.slotDue 2 4 = true ∧ W.slotActions1.bndDue = false ∧ W.slotActions1.developDue = false ∧
      W.slotActions1.writeDue 4 = false ∧ BitVec.toNat (W.slotActions1.slot 4).addr = A.STRX_CFG ∧ 1 ≤ BitVec.toNat (W.slotActions1.slot 4).data %
      1024 ∧ BitVec.toNat (W.slotActions1.slot 4).data % 1024 ≤ 1007) ∧
    (Quiet W.slotActions6 ∧ W.slotActions6.slotDue 2 4 = true ∧ W.slotActions6.bndDue = false ∧ W.slotActions6.developDue = false ∧
      W.slotActions6.writeDue 4 = false ∧ BitVec.toNat (W.slotActions6.slot 4).addr = A.STRX_CFG ∧ BitVec.toNat (W.slotActions6.slot 4).data % 1024 =
      0) := by
  refine ⟨?_, ?_, ?_, ?_, ?_⟩ <;> decide +kernel

theorem witness_Develop :
    (Quiet W.devd ∧ W.devd.dev.state = DevState.armed ∧ W.devd.dev.checked = false ∧ W.devd.dev.draining = false) ∧
    (Quiet W.develop4 ∧ W.develop4.dev.state = DevState.armed ∧ W.develop4.dev.checked = true ∧ W.develop4.dev.draining = false ∧ W.develop4.dev.t ≤
      W.develop4.tl ∧ W.develop4.bndDue = false) ∧
    (Quiet W.drain ∧ W.drain.dev.draining = true ∧ W.drain.bndDue = false ∧ 1 ≤ W.drain.dev.depth ∧ 1 = W.drain.dev.jobsDone ∧ W.drain.dev.t + 8 * (1
      + 1) ≤ W.drain.tl) ∧
    (Quiet W.drain ∧ W.drain.dev.draining = true ∧ W.drain.bndDue = false ∧ 0 ≤ W.drain.dev.depth ∧ 0 = W.drain.dev.egressDone ∧ W.drain.dev.t + 8 *
      (2 + 0) ≤ W.drain.tl) ∧
    (Quiet W.develop9 ∧ W.develop9.dev.draining = true ∧ W.develop9.bndDue = false ∧ 0 ≤ W.develop9.dev.depth ∧ W.develop9.tl < W.develop9.dev.t + 8 *
      (1 + 0)) ∧
    (Quiet W.develop6 ∧ W.develop6.dev.draining = true ∧ W.develop6.bndDue = false ∧ W.develop6.dev.depth < W.develop6.dev.jobsDone ∧
      W.develop6.dev.depth < W.develop6.dev.egressDone ∧ W.develop6.dev.t + 8 * (2 + W.develop6.dev.depth) ≤ W.develop6.tl) ∧
    (Quiet W.run ∧ TakenAny W.run Path.internal ∧ W.run.bankLocked = false) ∧
    (Quiet W.devd ∧ TakenAny W.devd Path.internal ∧ W.devd.bankLocked = true) ∧
    (Quiet W.develop8 ∧ W.develop8.dev.state = DevState.refilling ∧ W.develop8.bndDue = false ∧ W.develop8.dev.refillEnd ≤ W.develop8.block) := by
  refine ⟨?_, ?_, ?_, ?_, ?_, ?_, ?_, ?_, ?_⟩ <;> decide +kernel

theorem witness_ReleasesAndStarts :
    (Quiet W.jobs ∧ W.jobs.releasable (jobKey false 0) = true ∧ (W.jobs.job (jobKey false 0)).supplied = false) ∧
    (Quiet W.com ∧ W.com.releasable (jobKey false 0) = false) ∧
    (Quiet W.releasesAndStarts2 ∧ W.releasesAndStarts2.processes = true ∧ W.releasesAndStarts2.takesPart (jobKey false 0) = true ∧
      (W.releasesAndStarts2.inst (jobKey false 0)).raEn = true ∧ W.releasesAndStarts2.on R.SCH_CFG_RA_EN = true ∧ (W.releasesAndStarts2.job (jobKey
      false 0)).phase = JobPhase.waiting ∧ (W.releasesAndStarts2.job (jobKey false 0)).supplied = false ∧ (W.releasesAndStarts2.inst (jobKey false
      0)).raTick ≤ W.releasesAndStarts2.tick ∧ W.releasesAndStarts2.tick < (W.releasesAndStarts2.inst (jobKey false 0)).deadline ∧
      W.releasesAndStarts2.anyMissing (jobKey false 0) = true) ∧
    (Quiet W.queued ∧ W.queued.idleHen 0 = true ∧ W.queued.queue (flockOf 0) = [1, 0]) ∧
    (Quiet W.queued ∧ W.queued.idleHen 16 = true ∧ W.queued.queue (flockOf 16) = [] ∧ W.queued.on R.SCH_CFG_STEAL_EN = true ∧ W.queued.victim (flockOf
      16) = some 0 ∧ (W.queued.unpinned 0).getLast? = some 0) := by
  refine ⟨?_, ?_, ?_, ?_, ?_⟩ <;> decide +kernel

theorem witness_EndsAndWithdrawals :
    (Quiet W.endsAndWithdrawals1 ∧
      (W.endsAndWithdrawals1.hen 3).run = some { old := false, j := 1, cls := 1, words := 4, regions := [], taint := false, taintIch := [], start := 0 : RunSt } ∧
      (1 ≠ 0 ∨ (W.endsAndWithdrawals1.hen 3).ended = true) ∧ W.endsAndWithdrawals1.mode.cur.counts = true ∧
      W.endsAndWithdrawals1.tick ≤ (W.endsAndWithdrawals1.inst (jobKey false 1)).deadline ∧ (W.endsAndWithdrawals1.job (jobKey false 1)).rerun = false ∧
      (W.endsAndWithdrawals1.job (jobKey false 1)).again = false) ∧
    (Quiet W.endsAndWithdrawals2 ∧ W.endsAndWithdrawals2.twin.copy = CopyKind.none ∧ W.endsAndWithdrawals2.takesPart (jobKey false 1) = true ∧
      (W.endsAndWithdrawals2.inst (jobKey false 1)).deadline ≤ W.endsAndWithdrawals2.tick ∧ (W.endsAndWithdrawals2.job (jobKey false 1)).rerun = false
      ∧ ((W.endsAndWithdrawals2.job (jobKey false 1)).phase = JobPhase.waiting ∨ (W.endsAndWithdrawals2.job (jobKey false 1)).phase = JobPhase.queued
      ∨ (W.endsAndWithdrawals2.job (jobKey false 1)).phase = JobPhase.running)) ∧
    (Quiet W.endsAndWithdrawals1 ∧ W.endsAndWithdrawals1.twin.copy = CopyKind.none ∧
      (W.endsAndWithdrawals1.hen 3).run = some { old := false, j := 1, cls := 1, words := 4, regions := [], taint := false, taintIch := [], start := 0 : RunSt } ∧
      (W.endsAndWithdrawals1.job (jobKey false 1)).rerun = false) ∧
    (Quiet W.endsAndWithdrawals2 ∧ W.endsAndWithdrawals2.twin.copy = CopyKind.none ∧
      (W.endsAndWithdrawals2.hen 3).run = some { old := false, j := 1, cls := 1, words := 4, regions := [], taint := false, taintIch := [], start := 0 : RunSt } ∧
      (W.endsAndWithdrawals2.job (jobKey false 1)).rerun = false ∧ (W.endsAndWithdrawals2.inst (jobKey false 1)).deadline ≤ W.endsAndWithdrawals2.tick) ∧
    (Quiet W.endsAndWithdrawals1 ∧ W.endsAndWithdrawals1.twin.copy = CopyKind.none ∧
      (W.endsAndWithdrawals1.hen 3).run = some { old := false, j := 1, cls := 1, words := 4, regions := [], taint := false, taintIch := [], start := 0 : RunSt } ∧
      (W.endsAndWithdrawals1.job (jobKey false 1)).rerun = false ∧ W.endsAndWithdrawals1.tick < (W.endsAndWithdrawals1.inst (jobKey false 1)).deadline) ∧
    (Quiet W.endsAndWithdrawals5 ∧ W.endsAndWithdrawals5.takesPart (jobKey false 1) = true ∧ (W.endsAndWithdrawals5.inst (jobKey false 1)).deadline ≤
      W.endsAndWithdrawals5.tick ∧ (W.endsAndWithdrawals5.job (jobKey false 1)).rerun = true) := by
  refine ⟨?_, ?_, ?_, ?_, ?_, ?_⟩ <;> decide +kernel

theorem witness_FlockGating :
    (Quiet W.flockGating3 ∧ TakenAny W.flockGating3 Path.pcie ∧ W.flockGating3.enabled (Pg.FL 0) = true ∧ Unlocked W.flockGating3 Path.pcie (Pg.FL 0)
      ∧ bitN (W.flockGating3.ctrlWord (Pg.FL 0)) 1 = 0 ∧ Path.pcie ≠ Path.twin ∧ W.flockGating3.flockHasHome 0 = true) ∧
    (Quiet W.flockGating2 ∧ TakenAny W.flockGating2 Path.pcie ∧ W.flockGating2.enabled (Pg.FL 1) = true ∧ Unlocked W.flockGating2 Path.pcie (Pg.FL 1)
      ∧ bitN (W.flockGating2.ctrlWord (Pg.FL 1)) 1 = 0 ∧ Path.pcie ≠ Path.twin ∧ W.flockGating2.flockHasHome 1 = false) ∧
    (Quiet W.flockGating4 ∧ TakenAny W.flockGating4 Path.internal ∧ W.flockGating4.enabled (Pg.FL 1) = false ∧ bitN (W.flockGating4.ctrlWord (Pg.FL
      1)) 1 = 0 ∧ (W.flockGating4.flock 1).powered = false ∧ Path.internal ≠ Path.twin) ∧
    (Quiet W.flockGating5 ∧ (W.flockGating5.flock 1).readyAt = some 0 ∧ 0 ≤ W.flockGating5.block) ∧
    (Quiet W.com ∧ W.com.mode.cur = Mode.commission ∧ Path.internal ≠ Path.twin ∧ bitN (0#32).toNat 1 = 0 ∧ bitN (0#32).toNat 4 = 0 ∧ W.com.frozen
      Pg.SCH = false) := by
  refine ⟨?_, ?_, ?_, ?_, ?_⟩ <;> decide +kernel

theorem witness_HenWordsAndInterrupts :
    (Quiet W.henWordsAndInterrupts2 ∧ W.henWordsAndInterrupts2.twin.copy = CopyKind.none ∧
      (W.henWordsAndInterrupts2.hen 3).run = some { old := false, j := 1, cls := 0, words := 4, regions := [], taint := false, taintIch := [], start := 0 : RunSt } ∧
      (W.henWordsAndInterrupts2.hen 3).ended = false ∧ (W.henWordsAndInterrupts2.hen 3).takes = none ∧
      ((W.henWordsAndInterrupts2.hen 3).step 4).fault = false) ∧
    (Quiet W.henWordsAndInterrupts3 ∧ W.henWordsAndInterrupts3.mode.cur = Mode.commission ∧ (W.henWordsAndInterrupts3.hen 3).run.isSome = true) ∧
    (Quiet W.run ∧ W.run.mode.cur ≠ Mode.commission) ∧
    (Quiet W.henWordsAndInterrupts4 ∧ (W.henWordsAndInterrupts4.hen 3).run.isSome = true ∧ (W.henWordsAndInterrupts4.hen 3).takes = some (true, 261)) := by
  refine ⟨?_, ?_, ?_, ?_⟩ <;> decide +kernel

theorem witness_CrossfadesAndConverters :
    (Quiet W.com ∧ (∀ (i : Nat), i ∈ busServers W.com.active 0 → ∀ (j : Nat), j ∈ busServers W.com.active 0 → i ≠ j → W.com.stateHalf i false + 64 *
      (W.com.prog i).stateLen ≤ W.com.stateHalf j false ∨ W.com.stateHalf j false + 64 * (W.com.prog j).stateLen ≤ W.com.stateHalf i false)) ∧
    (Quiet W.com ∧ TakenAny W.com Path.internal) ∧
    (Quiet W.crossfadesAndConverters4 ∧ (convList W.crossfadesAndConverters4.active)[0]? = some 1040 ∧ (W.crossfadesAndConverters4.conv 1040).ownLock
      = false ∧ ratioOk 1073741824#32 = true ∧ W.crossfadesAndConverters4.convFed 1040 = true ∧ W.crossfadesAndConverters4.ownNow = true ∧
      (W.crossfadesAndConverters4.conv 1040).lock = false) ∧
    (Quiet W.crossfadesAndConverters6 ∧ (convList W.crossfadesAndConverters6.active)[0]? = some 1040 ∧ (W.crossfadesAndConverters6.conv 1040).ownLock
      = false ∧ ratioOk 1073741824#32 = true ∧ W.crossfadesAndConverters6.convFed 1040 = true ∧ W.crossfadesAndConverters6.ownNow = false) ∧
    (Quiet W.crossfadesAndConverters5 ∧ (convList W.crossfadesAndConverters5.active)[0]? = some 1040 ∧ (W.crossfadesAndConverters5.conv 1040).ownLock
      = true ∧ W.crossfadesAndConverters5.ownNow = true ∧ (W.crossfadesAndConverters5.conv 1040).lock = true) ∧
    (Quiet W.crossfadesAndConverters7 ∧ (convList W.crossfadesAndConverters7.active)[0]? = some 1040 ∧ (W.crossfadesAndConverters7.conv 1040).ownLock
      = true ∧ W.crossfadesAndConverters7.ownNow = false) := by
  refine ⟨?_, ?_, ?_, ?_, ?_, ?_⟩ <;> decide +kernel

theorem witness_SerialFramesAndClocks :
    (Quiet W.serialFramesAndClocks1 ∧ W.serialFramesAndClocks1.frameable 0 = true) ∧
    (Quiet W.serialFramesAndClocks3 ∧ W.serialFramesAndClocks3.grpOn 1 = true ∧ (gcfg W.serialFramesAndClocks3.active 1).master = false ∧ 513 ≤
      (W.serialFramesAndClocks3.grp 1).winFrames ∧ 0 < 131072 ∧ ¬W.serialFramesAndClocks3.rd (R.SAPG_FWIN_PPM 1) * (131072 * (gcfg
      W.serialFramesAndClocks3.active 1).hz) < ((12582912000 : Int) - 131072 * (gcfg W.serialFramesAndClocks3.active 1).hz).natAbs * 1000000) ∧
    (Quiet W.serialFramesAndClocks3 ∧ W.serialFramesAndClocks3.grpOn 1 = true ∧ (gcfg W.serialFramesAndClocks3.active 1).master = false ∧ 513 ≤
      (W.serialFramesAndClocks3.grp 1).winFrames ∧ 0 < 1 ∧ W.serialFramesAndClocks3.rd (R.SAPG_FWIN_PPM 1) * (1 * (gcfg
      W.serialFramesAndClocks3.active 1).hz) < ((12582912000 : Int) - 1 * (gcfg W.serialFramesAndClocks3.active 1).hz).natAbs * 1000000 ∧
      (W.serialFramesAndClocks3.grp 1).phase = GrpPhase.run ∧ clockedUse W.serialFramesAndClocks3.active 1 = true) ∧
    (Quiet W.serialFramesAndClocks1 ∧ W.serialFramesAndClocks1.grpOn 1 = true ∧ clockedUse W.serialFramesAndClocks1.active 1 = true ∧
      W.serialFramesAndClocks1.clkMissing 1 = true ∧ (W.serialFramesAndClocks1.grp 1).phase = GrpPhase.run) ∧
    (Quiet W.serialFramesAndClocks7 ∧ W.serialFramesAndClocks7.clkGood 1 = true) ∧
    (Quiet W.serialFramesAndClocks10 ∧ W.serialFramesAndClocks10.grpOn 2 = true ∧ (gcfg W.serialFramesAndClocks10.active 2).bufloop = true ∧
      (W.serialFramesAndClocks10.grp 2).phase.clocked = true ∧ (64 * (gcfg W.serialFramesAndClocks10.active 2).buf < (W.serialFramesAndClocks10.grp
      2).level ∨ (W.serialFramesAndClocks10.grp 2).level < -(64 * (gcfg W.serialFramesAndClocks10.active 2).buf))) := by
  refine ⟨?_, ?_, ?_, ?_, ?_, ?_⟩ <;> decide +kernel

theorem witness_BiphaseAndChannelStatus :
    (Quiet W.biphaseAndChannelStatus1 ∧ W.biphaseAndChannelStatus1.rxTable 3 48 = some W.slotBank ∧ W.biphaseAndChannelStatus1.bpLive 3 = true ∧ rxBp
      W.slotBank 3 0 = true ∧ ((W.biphaseAndChannelStatus1.grp 3).lane 0).lock = false) ∧
    (Quiet W.biphaseAndChannelStatus5 ∧ W.biphaseAndChannelStatus5.rxTable 3 48 = some W.slotBank ∧ W.biphaseAndChannelStatus5.bpLive 3 = true ∧
      rxBp W.slotBank 3 0 = true ∧ ((W.biphaseAndChannelStatus5.grp 3).lane 0).lock = true ∧ ((W.biphaseAndChannelStatus5.grp 3).lane 0).pos = some 5 ∧
      5 < 191 ∧ subParityOk { pre := Preamble.x, audio := 1193047#24, v := false, u := true, c := true, p := false, violation := false : Subframe } = true ∧
      subParityOk { pre := Preamble.y, audio := 7#24, v := false, u := true, c := false, p := false, violation := false : Subframe } = true) ∧
    (Quiet W.biphaseAndChannelStatus2 ∧ ((W.biphaseAndChannelStatus2.grp 0).lane 0).lock = false ∧ 64 ≤ ((W.biphaseAndChannelStatus2.grp 0).lane
      0).good) ∧
    (Quiet W.biphaseAndChannelStatus4 ∧ ((W.biphaseAndChannelStatus4.grp 0).lane 0).lock = true ∧ 2 ≤ ((W.biphaseAndChannelStatus4.grp 0).lane 0).bad) ∧
    (Quiet W.biphaseAndChannelStatus1 ∧ W.biphaseAndChannelStatus1.bpLive 3 = true ∧ (W.biphaseAndChannelStatus1.txNow 3 (2 * 0)).snd.fst = true ∧
      W.biphaseAndChannelStatus1.mediaEdge (gcfg W.biphaseAndChannelStatus1.active 3).fsCode = true) ∧
    (Quiet W.biphaseAndChannelStatus10 ∧ ((W.biphaseAndChannelStatus10.grp 0).lane 0).ready = some (W.csBits true false, W.csBits false false, true) ∧
      nth false (W.csBits true false) 0 = true ∧ crcc (W.csBits true false) ≠ BitVec.toNat (nth 0 (bitsToBytes (W.csBits true false)) 23)) ∧
    (Quiet W.biphaseAndChannelStatus8 ∧ ((W.biphaseAndChannelStatus8.grp 0).lane 0).ready = some (W.csBits false false, W.csBits false false, false) ∧
      (nth false (W.csBits false false) 0 = false ∨ crcc (W.csBits false false) = BitVec.toNat (nth 0 (bitsToBytes (W.csBits false false)) 23))) := by
  refine ⟨?_, ?_, ?_, ?_, ?_, ?_, ?_⟩ <;> decide +kernel

theorem witness_SerialSettings :
    (Quiet W.serialSettings3 ∧ TakenAny W.serialSettings3 Path.internal ∧ W.serialSettings3.mode.cur ≠ Mode.leader ∧ (W.serialSettings3.grp 0).apply =
      none ∧ W.serialSettings3.dev.state = DevState.armed) ∧
    (Quiet W.com ∧ TakenAny W.com Path.internal ∧ W.com.mode.cur ≠ Mode.leader ∧ (W.com.grp 0).apply = none ∧ W.com.dev.state ≠ DevState.armed ∧
      (convList (mPutB bankD W.com.active (6291456 + 256 * 0) (mBytes bankD W.com.latent (6291456 + 256 * 0) 256))).length ≤ 256 ∧ slotReserved (mPutB
      bankD W.com.active (6291456 + 256 * 0) (mBytes bankD W.com.latent (6291456 + 256 * 0) 256)) 0 = none ∧ slotInvalid (mPutB bankD W.com.active
      (6291456 + 256 * 0) (mBytes bankD W.com.latent (6291456 + 256 * 0) 256)) 0 = none) ∧
    (Quiet W.serialSettings6 ∧ (W.serialSettings6.grp 0).apply = some (900, List.replicate 256 0) ∧ 900 ≤ W.serialSettings6.smp) ∧
    (Quiet W.com ∧ TakenAny W.com Path.internal ∧ Path.internal ≠ Path.twin ∧ bitN (1#32).toNat 1 = 0 ∧ bitN (1#32).toNat 4 = 0 ∧ W.com.frozen
      (Pg.SAPG 0) = false ∧ W.com.enabled (Pg.SAPG 0) = false ∧ bitN (1#32).toNat 0 = 1 ∧ (W.com.grp 0).phase = GrpPhase.off) ∧
    (Quiet W.serialSettings5 ∧ TakenAny W.serialSettings5 Path.internal ∧ Path.internal ≠ Path.twin ∧ bitN (0#32).toNat 1 = 0 ∧ bitN (0#32).toNat 4 =
      0 ∧ W.serialSettings5.frozen (Pg.SAPG 0) = false ∧ W.serialSettings5.enabled (Pg.SAPG 0) = true ∧ bitN (0#32).toNat 0 = 0 ∧
      W.serialSettings5.mode.cur = Mode.commission) := by
  refine ⟨?_, ?_, ?_, ?_, ?_⟩ <;> decide +kernel

theorem witness_EthernetLinks :
    (Quiet W.ethernetLinks3 ∧ W.ethernetLinks3.searches 0 = true ∧ (false = true ∨ W.ethernetLinks3.negotiates 0 = false)) ∧
    (Quiet W.ethernetLinks4 ∧ W.ethernetLinks4.searches 0 = true ∧ W.ethernetLinks4.negotiates 0 = true) ∧
    (Quiet W.eth ∧ W.eth.linkUp 0 = true) ∧
    (Quiet W.com ∧ TakenAny W.com Path.internal ∧ Path.internal ≠ Path.twin ∧ bitN (1#32).toNat 1 = 0 ∧ bitN (1#32).toNat 4 = 0 ∧ W.com.frozen (Pg.ETH
      0) = false ∧ W.com.enabled (Pg.ETH 0) = false ∧ bitN (1#32).toNat 0 = 1) ∧
    (Quiet W.eth ∧ TakenAny W.eth Path.internal ∧ Path.internal ≠ Path.twin ∧ bitN (0#32).toNat 1 = 0 ∧ bitN (0#32).toNat 4 = 0 ∧ W.eth.frozen (Pg.ETH
      0) = false ∧ W.eth.enabled (Pg.ETH 0) = true ∧ bitN (0#32).toNat 0 = 0) := by
  refine ⟨?_, ?_, ?_, ?_, ?_⟩ <;> decide +kernel

theorem witness_Frames :
    (Quiet W.eth ∧ W.eth.linkUp 0 = true ∧ W.eth.mode.cur ≠ Mode.dark) ∧
    (Quiet W.frames5 ∧ (1 < 4 → W.frames5.canSend 1 = true) ∧
      nextFrame (W.frames5.port 1).frames = some { bytes := List.replicate 60 2, queue := 5, inTs := none, inPort := 0 : QFrame }) := by
  refine ⟨?_, ?_⟩ <;> decide +kernel

theorem witness_PauseAndHold :
    (Quiet W.eth ∧ W.eth.linkUp 0 = true ∧ (W.eth.port 0).holdEnd = none ∧ (W.eth.port 0).pauseEnd = none ∧ 1 ≠ 0) ∧
    (Quiet W.pauseAndHold2 ∧ W.pauseAndHold2.linkUp 1 = true ∧ (W.pauseAndHold2.port 1).holdEnd = none ∧ (W.pauseAndHold2.port 1).pauseEnd.isSome =
      true) ∧
    (Quiet W.pauseAndHold4 ∧ W.pauseAndHold4.linkUp 1 = true ∧ (W.pauseAndHold4.port 1).holdEnd.isSome = true) ∧
    (Quiet W.pauseAndHold2 ∧ (W.pauseAndHold2.port 1).pauseEnd = some 5 ∧ 5 ≤ W.pauseAndHold2.clk) ∧
    (Quiet W.pauseAndHold2 ∧ (W.pauseAndHold2.port 1).pauseEnd = some 5 ∧ W.pauseAndHold2.force (R.ETH_PAUSE_WDT 1) * 12288 ≤ ((W.pauseAndHold2.port
      1).pauseSum + (W.pauseAndHold2.clk - (W.pauseAndHold2.port 1).pauseFrom)) * 1000) ∧
    (Quiet W.pauseAndHold4 ∧ (W.pauseAndHold4.port 1).holdEnd = some 50 ∧ 50 ≤ W.pauseAndHold4.clk) := by
  refine ⟨?_, ?_, ?_, ?_, ?_, ?_⟩ <;> decide +kernel

theorem witness_BridgeTableAndRing :
    (Quiet W.bridgeTableAndRing2 ∧
      W.bridgeTableAndRing2.atuAt 1 = some { mac := 2199023255554, vid := 1, ports := 2, static := false, stream := false, queue := 0, last := 0 : AtuE } ∧
      0 + W.bridgeTableAndRing2.rd R.BR_AGE_SEC * 12288000 ≤ W.bridgeTableAndRing2.clk) ∧
    (Quiet W.bridgeTableAndRing3 ∧ TakenAny W.bridgeTableAndRing3 Path.internal ∧
      W.bridgeTableAndRing3.atuAt (W.bridgeTableAndRing3.rd R.BR_ATU_IDX_IDX) = some { mac := 2199023255554, vid := 1, ports := 2, static := true, stream := false, queue := 0, last := 0 : AtuE }) ∧
    (Quiet W.bridgeTableAndRing4 ∧ TakenAny W.bridgeTableAndRing4 Path.internal ∧ W.bridgeTableAndRing4.atuFind W.bridgeTableAndRing4.atuKey.fst
      W.bridgeTableAndRing4.atuKey.snd = some (4 * atuBucket 0x020000000002 1) ∧ (¬∀ (k : Nat), k < 4 → ∃ e, W.bridgeTableAndRing4.atuAt (4 *
      atuBucket W.bridgeTableAndRing4.atuKey.fst W.bridgeTableAndRing4.atuKey.snd + k) = some e ∧ e.static = true)) ∧
    (Quiet W.bridgeTableAndRing4 ∧ TakenAny W.bridgeTableAndRing4 Path.internal ∧ W.bridgeTableAndRing4.atuFind W.bridgeTableAndRing4.atuKey.fst
      W.bridgeTableAndRing4.atuKey.snd = some (4 * atuBucket 0x020000000002 1)) ∧
    (Quiet W.com ∧ TakenAny W.com Path.internal ∧ W.com.atuFind W.com.atuKey.fst W.com.atuKey.snd = none ∧ W.com.atuWay W.com.atuKey.fst
      W.com.atuKey.snd Option.isNone = some (4 * atuBucket 0 0)) ∧
    (Quiet W.bridgeTableAndRing7 ∧ TakenAny W.bridgeTableAndRing7 Path.internal ∧ (∀ (k : Nat), k < 4 → ∃ e, W.bridgeTableAndRing7.atuAt (4 *
      atuBucket W.bridgeTableAndRing7.atuKey.fst W.bridgeTableAndRing7.atuKey.snd + k) = some e ∧ e.static = true)) ∧
    (Quiet W.com ∧ TakenAny W.com Path.internal ∧ W.com.atuFind W.com.atuKey.fst W.com.atuKey.snd = none) ∧
    (Quiet W.com ∧ TakenAny W.com Path.internal) ∧
    (Quiet W.bridgeTableAndRing9 ∧ W.bridgeTableAndRing9.linkUp 0 = true ∧ W.bridgeTableAndRing9.manager (0 / 2) = true ∧ W.bridgeTableAndRing9.on
      (ringBit (0 / 2) 0) = true) ∧
    (Quiet W.bridgeTableAndRing10 ∧ W.bridgeTableAndRing10.manager 0 = true ∧ W.bridgeTableAndRing10.on (ringBit 0 1) = true ∧ (tget ring0
      W.bridgeTableAndRing10.eth.rings 0).last + W.bridgeTableAndRing10.netTmo 0 ≤ W.bridgeTableAndRing10.ringBlock) ∧
    (Quiet W.bridgeTableAndRing8 ∧ W.bridgeTableAndRing8.linkUp 0 = true ∧ W.bridgeTableAndRing8.netRing (0 / 2) = true) ∧
    (Quiet W.bridgeTableAndRing8 ∧ W.bridgeTableAndRing8.linkUp 0 = true ∧ W.bridgeTableAndRing8.netRing (0 / 2) = true ∧
      W.bridgeTableAndRing8.manager (0 / 2) = false ∧ 1 ≠ W.bridgeTableAndRing8.mac) := by
  refine ⟨?_, ?_, ⟨?_, ?_, bridge4_find, bridge4_place⟩, ⟨?_, ?_, bridge4_find⟩, ⟨?_, ?_, ?_, rfl⟩, ⟨?_, ?_, bridge7_full⟩, ?_, ?_, ?_, ?_, ?_, ?_⟩ <;> decide +kernel

theorem witness_MdioMaster :
    (Quiet W.com ∧ TakenAny W.com Path.internal ∧ W.com.on R.BR_MDIO_CMD_BUSY = false) ∧
    (Quiet W.mdioMaster2 ∧ TakenAny W.mdioMaster2 Path.internal ∧ W.mdioMaster2.on R.BR_MDIO_CMD_BUSY = true) ∧
    (Quiet W.mdioMaster3 ∧ W.mdioMaster3.on R.BR_MDIO_CMD_BUSY = true ∧ W.mdioMaster3.eth.mdioRead = true) ∧
    (Quiet W.mdioMaster2 ∧ W.mdioMaster2.on R.BR_MDIO_CMD_BUSY = true ∧ W.mdioMaster2.eth.mdioRead = false) := by
  refine ⟨?_, ?_, ?_, ?_⟩ <;> decide +kernel

theorem witness_StreamCopies :
    (Quiet W.streamCopies1 ∧ W.streamCopies1.heard 0 = true ∧ W.streamCopies1.enabled Pg.STRX = true ∧ W.streamCopies1.mode.cur.counts = true ∧
      W.streamCopies1.switchDue = false ∧ W.streamCopies1.applyDue = false ∧ rxMatch (W.streamCopies1.copyTables (parseFrame [])) (parseFrame []) =
      none) ∧
    (Quiet W.streamCopies1 ∧ W.streamCopies1.heard 0 = true ∧ W.streamCopies1.enabled Pg.STRX = true ∧ W.streamCopies1.mode.cur.counts = true ∧
      W.streamCopies1.switchDue = false ∧ W.streamCopies1.applyDue = false ∧ rxMatch (W.streamCopies1.copyTables (parseFrame (W.aaf 17 1010 9 false
      false 128))) (parseFrame (W.aaf 17 1010 9 false false 128)) = some 0 ∧ ((if eRtp (rxW (W.streamCopies1.copyTables (parseFrame (W.aaf 17 1010 9
      false false 128))) 0 0) = true then W.streamCopies1.parseRtp (rxW (W.streamCopies1.copyTables (parseFrame (W.aaf 17 1010 9 false false 128))) 0
      0) (rxW (W.streamCopies1.copyTables (parseFrame (W.aaf 17 1010 9 false false 128))) 0 2) (rxW (W.streamCopies1.copyTables (parseFrame (W.aaf 17
      1010 9 false false 128))) 0 3) (parseFrame (W.aaf 17 1010 9 false false 128)).payload else W.streamCopies1.parseAaf (rxW
      (W.streamCopies1.copyTables (parseFrame (W.aaf 17 1010 9 false false 128))) 0 0) (parseFrame (W.aaf 17 1010 9 false false 128)).payload) =
      none)) ∧
    (Quiet W.streamCopies1 ∧ W.streamCopies1.heard 0 = true ∧ W.streamCopies1.enabled Pg.STRX = true ∧ W.streamCopies1.mode.cur.counts = true ∧
      W.streamCopies1.switchDue = false ∧ W.streamCopies1.applyDue = false ∧
      rxMatch (W.streamCopies1.copyTables (parseFrame (List.set (W.aaf 17 1010 7 false false 129) 11 9))) (parseFrame (List.set (W.aaf 17 1010 7 false false 129) 11 9)) = some 0 ∧
      ((if eRtp (rxW (W.streamCopies1.copyTables (parseFrame (List.set (W.aaf 17 1010 7 false false 129) 11 9))) 0 0) = true then W.streamCopies1.parseRtp (rxW (W.streamCopies1.copyTables (parseFrame (List.set (W.aaf 17 1010 7 false false 129) 11 9))) 0 0) (rxW (W.streamCopies1.copyTables (parseFrame (List.set (W.aaf 17 1010 7 false false 129) 11 9))) 0 2) (rxW (W.streamCopies1.copyTables (parseFrame (List.set (W.aaf 17 1010 7 false false 129) 11 9))) 0 3) (parseFrame (List.set (W.aaf 17 1010 7 false false 129) 11 9)).payload else W.streamCopies1.parseAaf (rxW (W.streamCopies1.copyTables (parseFrame (List.set (W.aaf 17 1010 7 false false 129) 11 9))) 0 0) (parseFrame (List.set (W.aaf 17 1010 7 false false 129) 11 9)).payload) = some { p := 1010, seq := 7, conc := false, frames := W.aafFrames : RxPkt }) ∧
      copySrc (W.streamCopies1.copyTables (parseFrame (List.set (W.aaf 17 1010 7 false false 129) 11 9))) 0 0 (parseFrame (List.set (W.aaf 17 1010 7 false false 129) 11 9)).src = none) ∧
    (Quiet W.streamCopies1 ∧ W.streamCopies1.heard 0 = true ∧ W.streamCopies1.enabled Pg.STRX = true ∧ W.streamCopies1.mode.cur.counts = true ∧
      W.streamCopies1.switchDue = false ∧ W.streamCopies1.applyDue = false ∧
      rxMatch (W.streamCopies1.copyTables (parseFrame (W.aaf 17 9000 9 false false 129))) (parseFrame (W.aaf 17 9000 9 false false 129)) = some 0 ∧
      ((if eRtp (rxW (W.streamCopies1.copyTables (parseFrame (W.aaf 17 9000 9 false false 129))) 0 0) = true then W.streamCopies1.parseRtp (rxW (W.streamCopies1.copyTables (parseFrame (W.aaf 17 9000 9 false false 129))) 0 0) (rxW (W.streamCopies1.copyTables (parseFrame (W.aaf 17 9000 9 false false 129))) 0 2) (rxW (W.streamCopies1.copyTables (parseFrame (W.aaf 17 9000 9 false false 129))) 0 3) (parseFrame (W.aaf 17 9000 9 false false 129)).payload else W.streamCopies1.parseAaf (rxW (W.streamCopies1.copyTables (parseFrame (W.aaf 17 9000 9 false false 129))) 0 0) (parseFrame (W.aaf 17 9000 9 false false 129)).payload) = some { p := 9000, seq := 9, conc := false, frames := W.aafFrames : RxPkt }) ∧
      copySrc (W.streamCopies1.copyTables (parseFrame (W.aaf 17 9000 9 false false 129))) 0 0 (parseFrame (W.aaf 17 9000 9 false false 129)).src = some 0 ∧
      8 * ↑(W.streamCopies1.rd R.STRX_CFG_AHEAD) < W.streamCopies1.ingestAt { p := 9000, half := !e96 (rxW (W.streamCopies1.copyTables (parseFrame (W.aaf 17 9000 9 false false 129))) 0 0), seq := 0, conc := false, src := 0, frames := [] : HeldCopy } (herdOfs (W.streamCopies1.copyTables (parseFrame (W.aaf 17 9000 9 false false 129))) (eHerd (rxW (W.streamCopies1.copyTables (parseFrame (W.aaf 17 9000 9 false false 129))) 0 0))) - 8 * ↑W.streamCopies1.block) ∧
    (Quiet W.streamCopies1 ∧ W.streamCopies1.heard 0 = true ∧ W.streamCopies1.enabled Pg.STRX = true ∧ W.streamCopies1.mode.cur.counts = true ∧
      W.streamCopies1.switchDue = false ∧ W.streamCopies1.applyDue = false ∧
      rxMatch (W.streamCopies1.copyTables (parseFrame (W.aaf 17 1010 7 false false 129))) (parseFrame (W.aaf 17 1010 7 false false 129)) = some 0 ∧
      ((if eRtp (rxW (W.streamCopies1.copyTables (parseFrame (W.aaf 17 1010 7 false false 129))) 0 0) = true then W.streamCopies1.parseRtp (rxW (W.streamCopies1.copyTables (parseFrame (W.aaf 17 1010 7 false false 129))) 0 0) (rxW (W.streamCopies1.copyTables (parseFrame (W.aaf 17 1010 7 false false 129))) 0 2) (rxW (W.streamCopies1.copyTables (parseFrame (W.aaf 17 1010 7 false false 129))) 0 3) (parseFrame (W.aaf 17 1010 7 false false 129)).payload else W.streamCopies1.parseAaf (rxW (W.streamCopies1.copyTables (parseFrame (W.aaf 17 1010 7 false false 129))) 0 0) (parseFrame (W.aaf 17 1010 7 false false 129)).payload) = some { p := 1010, seq := 7, conc := false, frames := W.aafFrames : RxPkt }) ∧
      copySrc (W.streamCopies1.copyTables (parseFrame (W.aaf 17 1010 7 false false 129))) 0 0 (parseFrame (W.aaf 17 1010 7 false false 129)).src = some 0 ∧
      W.streamCopies1.ingestAt { p := 1010, half := !e96 (rxW (W.streamCopies1.copyTables (parseFrame (W.aaf 17 1010 7 false false 129))) 0 0), seq := 0, conc := false, src := 0, frames := [] : HeldCopy } (herdOfs (W.streamCopies1.copyTables (parseFrame (W.aaf 17 1010 7 false false 129))) (eHerd (rxW (W.streamCopies1.copyTables (parseFrame (W.aaf 17 1010 7 false false 129))) 0 0))) - 8 * ↑W.streamCopies1.block ≤ 8 * ↑(W.streamCopies1.rd R.STRX_CFG_AHEAD) ∧
      (0 < W.streamCopies1.ingestAt { p := 1010, half := !e96 (rxW (W.streamCopies1.copyTables (parseFrame (W.aaf 17 1010 7 false false 129))) 0 0), seq := 0, conc := false, src := 0, frames := [] : HeldCopy } (herdOfs (W.streamCopies1.copyTables (parseFrame (W.aaf 17 1010 7 false false 129))) (eHerd (rxW (W.streamCopies1.copyTables (parseFrame (W.aaf 17 1010 7 false false 129))) 0 0))) + ↑(W.aafFrames.length * if (!e96 (rxW (W.streamCopies1.copyTables (parseFrame (W.aaf 17 1010 7 false false 129))) 0 0)) = true then 2 else 1)) ∧
      W.streamCopies1.played ((W.streamCopies1.ingestAt { p := 1010, half := !e96 (rxW (W.streamCopies1.copyTables (parseFrame (W.aaf 17 1010 7 false false 129))) 0 0), seq := 0, conc := false, src := 0, frames := [] : HeldCopy } (herdOfs (W.streamCopies1.copyTables (parseFrame (W.aaf 17 1010 7 false false 129))) (eHerd (rxW (W.streamCopies1.copyTables (parseFrame (W.aaf 17 1010 7 false false 129))) 0 0)))).toNat / 8) = false ∧
      (W.streamCopies1.played ((W.streamCopies1.ingestAt { p := 1010, half := !e96 (rxW (W.streamCopies1.copyTables (parseFrame (W.aaf 17 1010 7 false false 129))) 0 0), seq := 0, conc := false, src := 0, frames := [] : HeldCopy } (herdOfs (W.streamCopies1.copyTables (parseFrame (W.aaf 17 1010 7 false false 129))) (eHerd (rxW (W.streamCopies1.copyTables (parseFrame (W.aaf 17 1010 7 false false 129))) 0 0))) + ↑(W.aafFrames.length * if (!e96 (rxW (W.streamCopies1.copyTables (parseFrame (W.aaf 17 1010 7 false false 129))) 0 0)) = true then 2 else 1) - 1).toNat / 8) = false) ∧
      W.streamCopies1.rxBefore ((W.streamCopies1.ingestAt { p := 1010, half := !e96 (rxW (W.streamCopies1.copyTables (parseFrame (W.aaf 17 1010 7 false false 129))) 0 0), seq := 0, conc := false, src := 0, frames := [] : HeldCopy } (herdOfs (W.streamCopies1.copyTables (parseFrame (W.aaf 17 1010 7 false false 129))) (eHerd (rxW (W.streamCopies1.copyTables (parseFrame (W.aaf 17 1010 7 false false 129))) 0 0)))).toNat / 8) = false ∧
      (∀ (c : HeldCopy), c ∈ (W.streamCopies1.rx 0).held → c.p ≠ 1010)) ∧
    (Quiet W.streamCopies2 ∧ W.streamCopies2.heard 0 = true ∧ W.streamCopies2.enabled Pg.STRX = true ∧ W.streamCopies2.mode.cur.counts = true ∧
      W.streamCopies2.switchDue = false ∧ W.streamCopies2.applyDue = false ∧
      rxMatch (W.streamCopies2.copyTables (parseFrame (W.aaf 17 1010 7 false false 129))) (parseFrame (W.aaf 17 1010 7 false false 129)) = some 0 ∧
      ((if eRtp (rxW (W.streamCopies2.copyTables (parseFrame (W.aaf 17 1010 7 false false 129))) 0 0) = true then W.streamCopies2.parseRtp (rxW (W.streamCopies2.copyTables (parseFrame (W.aaf 17 1010 7 false false 129))) 0 0) (rxW (W.streamCopies2.copyTables (parseFrame (W.aaf 17 1010 7 false false 129))) 0 2) (rxW (W.streamCopies2.copyTables (parseFrame (W.aaf 17 1010 7 false false 129))) 0 3) (parseFrame (W.aaf 17 1010 7 false false 129)).payload else W.streamCopies2.parseAaf (rxW (W.streamCopies2.copyTables (parseFrame (W.aaf 17 1010 7 false false 129))) 0 0) (parseFrame (W.aaf 17 1010 7 false false 129)).payload) = some { p := 1010, seq := 7, conc := false, frames := W.aafFrames : RxPkt }) ∧
      copySrc (W.streamCopies2.copyTables (parseFrame (W.aaf 17 1010 7 false false 129))) 0 0 (parseFrame (W.aaf 17 1010 7 false false 129)).src = some 0 ∧
      W.streamCopies2.ingestAt { p := 1010, half := !e96 (rxW (W.streamCopies2.copyTables (parseFrame (W.aaf 17 1010 7 false false 129))) 0 0), seq := 0, conc := false, src := 0, frames := [] : HeldCopy } (herdOfs (W.streamCopies2.copyTables (parseFrame (W.aaf 17 1010 7 false false 129))) (eHerd (rxW (W.streamCopies2.copyTables (parseFrame (W.aaf 17 1010 7 false false 129))) 0 0))) - 8 * ↑W.streamCopies2.block ≤ 8 * ↑(W.streamCopies2.rd R.STRX_CFG_AHEAD) ∧
      (0 < W.streamCopies2.ingestAt { p := 1010, half := !e96 (rxW (W.streamCopies2.copyTables (parseFrame (W.aaf 17 1010 7 false false 129))) 0 0), seq := 0, conc := false, src := 0, frames := [] : HeldCopy } (herdOfs (W.streamCopies2.copyTables (parseFrame (W.aaf 17 1010 7 false false 129))) (eHerd (rxW (W.streamCopies2.copyTables (parseFrame (W.aaf 17 1010 7 false false 129))) 0 0))) + ↑(W.aafFrames.length * if (!e96 (rxW (W.streamCopies2.copyTables (parseFrame (W.aaf 17 1010 7 false false 129))) 0 0)) = true then 2 else 1)) ∧
      W.streamCopies2.played ((W.streamCopies2.ingestAt { p := 1010, half := !e96 (rxW (W.streamCopies2.copyTables (parseFrame (W.aaf 17 1010 7 false false 129))) 0 0), seq := 0, conc := false, src := 0, frames := [] : HeldCopy } (herdOfs (W.streamCopies2.copyTables (parseFrame (W.aaf 17 1010 7 false false 129))) (eHerd (rxW (W.streamCopies2.copyTables (parseFrame (W.aaf 17 1010 7 false false 129))) 0 0)))).toNat / 8) = false ∧
      (W.streamCopies2.played ((W.streamCopies2.ingestAt { p := 1010, half := !e96 (rxW (W.streamCopies2.copyTables (parseFrame (W.aaf 17 1010 7 false false 129))) 0 0), seq := 0, conc := false, src := 0, frames := [] : HeldCopy } (herdOfs (W.streamCopies2.copyTables (parseFrame (W.aaf 17 1010 7 false false 129))) (eHerd (rxW (W.streamCopies2.copyTables (parseFrame (W.aaf 17 1010 7 false false 129))) 0 0))) + ↑(W.aafFrames.length * if (!e96 (rxW (W.streamCopies2.copyTables (parseFrame (W.aaf 17 1010 7 false false 129))) 0 0)) = true then 2 else 1) - 1).toNat / 8) = false) ∧
      W.streamCopies2.rxBefore ((W.streamCopies2.ingestAt { p := 1010, half := !e96 (rxW (W.streamCopies2.copyTables (parseFrame (W.aaf 17 1010 7 false false 129))) 0 0), seq := 0, conc := false, src := 0, frames := [] : HeldCopy } (herdOfs (W.streamCopies2.copyTables (parseFrame (W.aaf 17 1010 7 false false 129))) (eHerd (rxW (W.streamCopies2.copyTables (parseFrame (W.aaf 17 1010 7 false false 129))) 0 0)))).toNat / 8) = false ∧
      List.find? (fun x => x.p == 1010) (W.streamCopies2.rx 0).held = some { p := 1010, half := false, seq := 7, conc := false, src := 0, frames := [[1#32, 2#32], [1#32, 2#32], [1#32, 2#32], [1#32, 2#32], [1#32, 2#32], [1#32, 2#32], [1#32, 2#32], [1#32, 2#32]] : HeldCopy } ∧
      (false = false ∨ false = true)) ∧
    (Quiet W.com) := by
  refine ⟨?_, ?_, ?_, ?_, ?_, ?_, ?_⟩ <;> decide +kernel

theorem witness_StreamWindowsAndTables :
    (Quiet W.streamWindowsAndTables2 ∧ W.streamWindowsAndTables2.block = 124 + 1 ∧ W.streamWindowsAndTables2.rxLive 0 124 = true ∧
      W.streamWindowsAndTables2.rd R.STRX_CFG_UND_TICK ≤ W.streamWindowsAndTables2.tick ∧ W.streamWindowsAndTables2.played 124 = false ∧
      W.streamWindowsAndTables2.rxBefore 124 = false ∧ (W.streamWindowsAndTables2.rx 0).judged ≠ some 124 ∧ W.streamWindowsAndTables2.rxFills 0 124 =
      true ∧ W.streamWindowsAndTables2.streamBlock 0 124 = none) ∧
    (Quiet W.streamWindowsAndTables4 ∧ eEn (rxW W.streamWindowsAndTables4.active 0 0) = true ∧ W.streamWindowsAndTables4.enabled Pg.STRX = true ∧
      ((W.streamWindowsAndTables4.rx 0).state = RxState.receiving ∧ 16 ≤ (W.streamWindowsAndTables4.rx 0).run ∧ W.streamWindowsAndTables4.rxUnder 0 =
      true ∨ (W.streamWindowsAndTables4.rx 0).state = RxState.waiting ∧ (W.streamWindowsAndTables4.rx 0).start + 12000 ≤
      W.streamWindowsAndTables4.block)) ∧
    (Quiet W.streamWindowsAndTables1 ∧ W.streamWindowsAndTables1.packetDue 0 = true ∧ (∀ (m : Nat), m < 0 → W.streamWindowsAndTables1.packetDue m =
      false) ∧ W.streamWindowsAndTables1.switchDue = false ∧ W.streamWindowsAndTables1.applyDue = false) ∧
    (Quiet W.streamWindowsAndTables8 ∧ TakenAny W.streamWindowsAndTables8 Path.internal ∧ W.streamWindowsAndTables8.mode.cur ≠ Mode.leader ∧
      W.streamWindowsAndTables8.dev.state = DevState.armed ∧ W.streamWindowsAndTables8.str.rxApply = none) ∧
    (Quiet W.streamWindowsAndTables8 ∧ TakenAny W.streamWindowsAndTables8 Path.internal ∧ W.streamWindowsAndTables8.mode.cur ≠ Mode.leader ∧
      W.streamWindowsAndTables8.dev.state = DevState.armed ∧ W.streamWindowsAndTables8.str.txApply = none) ∧
    (Quiet W.com ∧ TakenAny W.com Path.internal ∧ W.com.mode.cur ≠ Mode.leader ∧ W.com.dev.state ≠ DevState.armed ∧ W.com.str.rxApply = none ∧
      (rtpChans (fun n => rxW (putRegions W.com.active W.com.latent rxRegions) n 0) 256 6295552).snd = none ∧ rxReserved (putRegions W.com.active
      W.com.latent rxRegions) = none ∧ rxInvalid W.com.active (putRegions W.com.active W.com.latent rxRegions) = none) ∧
    (Quiet W.com ∧ TakenAny W.com Path.internal ∧ W.com.mode.cur ≠ Mode.leader ∧ W.com.dev.state ≠ DevState.armed ∧ W.com.str.txApply = none ∧
      (rtpChans (fun n => txW (putRegions W.com.active W.com.latent txRegions) n 0) 128 6303744).snd = none ∧ txReserved (putRegions W.com.active
      W.com.latent txRegions) = none ∧ txInvalid (putRegions W.com.active W.com.latent txRegions) = none) ∧
    (Quiet W.streamWindowsAndTables9 ∧ 100 ≤ W.streamWindowsAndTables9.block ∧ W.streamWindowsAndTables9.bndDue = false ∧
      W.streamWindowsAndTables9.str.rxApply = some (100, W.rxBank)) ∧
    (Quiet W.streamWindowsAndTables9 ∧ 100 ≤ W.streamWindowsAndTables9.block ∧ W.streamWindowsAndTables9.bndDue = false ∧
      W.streamWindowsAndTables9.str.txApply = some (100, W.rxBank)) := by
  refine ⟨?_, ?_, ?_, ?_, ?_, ?_, ?_, ?_, ?_⟩ <;> decide +kernel

theorem witness_PtpClock :
    (Quiet W.slave ∧
      W.slave.fromMaster 1 { domain := 0, source := 7, seq := 1, twoStep := false, origin := 100, correction := 5, ingress := 230, udp := false : SyncMsg } = true) ∧
    (Quiet W.slave ∧
      W.slave.fromMaster 1 { domain := 0, source := 7, seq := 1, twoStep := true, origin := 0, correction := 3, ingress := 900, udp := false : SyncMsg } = true) ∧
    (Quiet W.ptpClock2 ∧
      W.ptpClock2.fromMaster 1 { domain := 0, source := 7, seq := 1, twoStep := true, origin := 0, correction := 3, ingress := 900, udp := false : SyncMsg } = true ∧
      W.ptpClock2.ptp.wait = some ({ domain := 0, source := 7, seq := 1, twoStep := true, origin := 0, correction := 3, ingress := 900, udp := false : SyncMsg }, 1)) ∧
    (Quiet W.ptpClock2 ∧ W.ptpClock2.ptpState = 3 ∧ W.ptpClock2.on R.PTP_STAT_LOCK = false ∧ W.ptpClock2.rd R.PTP_LOCK_COUNT ≤ W.ptpClock2.ptp.good) ∧
    (Quiet W.ptpClock5 ∧ W.ptpClock5.ptpState = 3 ∧ W.ptpClock5.masterSilent = true) ∧
    (Quiet W.slave ∧ TakenAny W.slave Path.internal ∧ W.slave.mode.cur ≠ Mode.commission) ∧
    (Quiet W.ptpClock7 ∧ TakenAny W.ptpClock7 Path.internal ∧ W.ptpClock7.mode.cur = Mode.commission ∧ W.ptpClock7.ptpRole = 2 ∧ W.ptpClock7.ptpState
      ≠ 3 ∧ tget noWord W.ptpClock7.host.loStage (stageKey Path.internal.code A.PTP_TOD_LO) = some 77#32) ∧
    (Quiet W.ptpClock8 ∧ W.ptpClock8.ptp.tod = some (100, 390000) ∧ 390000 ≤ W.ptpClock8.block) ∧
    (Quiet W.ptpClock8 ∧ W.ptpClock8.ptp.cfgAt = some 390000 ∧ 390000 ≤ W.ptpClock8.block) := by
  refine ⟨?_, ?_, ?_, ?_, ?_, ?_, ?_, ?_, ?_⟩ <;> decide +kernel

theorem witness_PtpMessages :
    (Quiet W.slave ∧ W.slave.heard 0 = true ∧ W.slave.enabled Pg.PTP = true ∧ W.slave.ptpRole ≠ 0 ∧ 0 = W.slave.force R.PTP_CFG_DOMAIN ∧
      W.slave.transport false = true ∧ W.slave.ptpState ≠ 0 ∧ 7 / 65536 ≠ W.slave.clockId ∧ 0 < 255) ∧
    (Quiet W.ptpMessages7 ∧ W.ptpMessages7.heard 0 = true ∧ W.ptpMessages7.serves = true ∧ W.ptpMessages7.on R.PTP_TC_CFG_P2P = false ∧ 0 =
      W.ptpMessages7.force R.PTP_CFG_DOMAIN ∧ W.ptpMessages7.transport false = true ∧ (W.ptpMessages7.port 0).frames = [] ∧ 128 ≤
      W.ptpMessages7.maxLen 0) ∧
    (Quiet W.ptpMessages5 ∧ W.ptpMessages5.heard 1 = true ∧ W.ptpMessages5.ptp.dly = some { seq := 1, sent := some 1, t2 := none, t4 := 0 : DelayReq } ∧
      W.ptpMessages5.enabled Pg.PTP = true ∧ W.ptpMessages5.ptpState = 3 ∧ W.ptpMessages5.on R.PTP_TC_CFG_P2P = false ∧
      0 = W.ptpMessages5.force R.PTP_CFG_DOMAIN ∧ W.ptpMessages5.transport false = true ∧ 72055395014672385 = W.ptpMessages5.ptpId 1 ∧
      W.ptpMessages5.ptp.parent = some 7 ∧ W.ptpMessages5.rd R.PTP_STAT_PORT = 1) ∧
    (Quiet W.slave ∧ W.slave.heard 0 = true ∧ W.slave.on R.PTP_TC_CFG_P2P = true ∧ (W.slave.port 0).frames = [] ∧ 128 ≤ W.slave.maxLen 0) ∧
    (Quiet W.ptpMessages10 ∧ W.ptpMessages10.heard 0 = true ∧ W.ptpMessages10.on R.PTP_TC_CFG_P2P = true ∧
      tget noDly W.ptpMessages10.ptp.pdly 0 = some { seq := 1, sent := some 1, t2 := some 100, t4 := 90 : DelayReq } ∧
      72055395014672385 = W.ptpMessages10.ptpId (0 + 1)) ∧
    (Quiet W.ptpMessages6 ∧ W.ptpMessages6.serves = true ∧ W.ptpMessages6.ptpDue 5 (W.ptpMessages6.rd R.PTP_INTV_SYNC) = true) ∧
    (Quiet W.ptpMessages6 ∧ W.ptpMessages6.serves = true ∧ W.ptpMessages6.annWaited = false ∧ W.ptpMessages6.ptpDue 6 (W.ptpMessages6.rd
      R.PTP_INTV_ANN) = true) ∧
    (Quiet W.ptpMessages8 ∧ W.ptpMessages8.annWaited = true) ∧
    (Quiet W.slave ∧ W.slave.heard 0 = true ∧ (W.slave.port 0).frames = [] ∧ 128 ≤ W.slave.maxLen 0 ∧ W.slave.on R.PTP_TC_CFG_P2P = true ∧
      W.slave.ptpDue 0 (W.slave.rd R.PTP_INTV_DLY) = true) ∧
    (Quiet W.ptpMessages3 ∧ W.ptpMessages3.heard 1 = true ∧ (W.ptpMessages3.port 1).frames = [] ∧ 128 ≤ W.ptpMessages3.maxLen 1 ∧ W.ptpMessages3.on
      R.PTP_TC_CFG_P2P = false ∧ W.ptpMessages3.enabled Pg.PTP = true ∧ W.ptpMessages3.ptpState = 3 ∧ W.ptpMessages3.rd R.PTP_STAT_PORT = 1 ∧
      W.ptpMessages3.ptpDue 4 (W.ptpMessages3.rd R.PTP_INTV_DLY) = true) := by
  refine ⟨?_, ?_, ?_, ?_, ?_, ?_, ?_, ?_, ?_, ?_⟩ <;> decide +kernel

theorem witness_ReferenceSelection :
    (Quiet W.com) ∧
    (Quiet W.referenceSelection5 ∧ W.referenceSelection5.ref.state = RefState.acquiring ∧ W.referenceSelection5.ref.again = false ∧
      W.referenceSelection5.ref.loop.zero.isSome = true ∧ W.referenceSelection5.ref.loop.inSince + 12 * W.referenceSelection5.force R.REF_LOCK_MS ≤
      W.referenceSelection5.block) ∧
    (Quiet W.referenceSelection3 ∧ W.referenceSelection3.ref.state = RefState.acquiring ∧ W.referenceSelection3.ref.again = false ∧
      W.referenceSelection3.ref.swAt + 12000 * W.referenceSelection3.force R.REF_SWT_S ≤ W.referenceSelection3.block) ∧
    (Quiet W.referenceSelection3 ∧ (W.referenceSelection3.cand 6).wait = some 0) ∧
    (Quiet W.referenceSelection6 ∧ W.referenceSelection6.ref.svcAt = some 9 ∧ 9 ≤ W.referenceSelection6.block) ∧
    (Quiet W.com ∧ W.com.audio.apllLost = false ∧ W.com.mode.cur.counts = true) ∧
    (Quiet W.referenceSelection8 ∧ W.referenceSelection8.audio.apllLost = true ∧ W.referenceSelection8.mode.cur ≠ Mode.dark) := by
  refine ⟨?_, ?_, ?_, ?_, ?_, ?_, ?_⟩ <;> decide +kernel

theorem witness_Holdover :
    (Quiet W.holdover2 ∧ W.holdover2.ref.measAt + 12288000 ≤ W.holdover2.clk ∧ W.holdover2.mode.cur.counts = true) ∧
    (Quiet W.holdover3 ∧ W.holdover3.ref.state = RefState.holdover ∧ W.holdover3.ref.holdAt + 12288000 ≤ W.holdover3.clk) ∧
    (Quiet W.holdover5 ∧ W.holdover5.on R.HOLD_CFG_AGE_EN = true ∧ W.holdover5.ref.ageAt + 44236800000 ≤ W.holdover5.clk) ∧
    (Quiet W.holdover3 ∧ W.holdover3.ref.state = RefState.holdover ∧ W.holdover3.ref.specDone = false ∧ W.holdover3.rd R.HOLD_SPEC_S <
      W.holdover3.ref.elapsed) := by
  refine ⟨?_, ?_, ?_, ?_⟩ <;> decide +kernel

theorem witness_TwinLink :
    (Quiet W.com ∧ W.com.mode.cur.counts = true ∧ W.com.twin.lanes = 0 ∧ W.com.pwr.twlOff = false ∧ W.com.rd R.DEV_REV_SI_REV = (161#8).toNat ∧ [0#32,
      0#32, 0#32, 0#32, 0#32, 0#32, 0#32, 0#32] = List.map (fun i => W.com.getW (A.PWR_BOOT_DIG i)) (List.range 8) ∧ 0 = W.com.rd R.TW_CFG_PAIR_ID ∧
      true ≠ W.com.pwr.posA) ∧
    (Quiet W.com ∧ W.com.mode.cur.counts = true ∧ W.com.twin.lanes = 0 ∧ W.com.pwr.twlOff = false ∧ W.com.rd R.DEV_REV_SI_REV = (161#8).toNat ∧ [0#32,
      0#32, 0#32, 0#32, 0#32, 0#32, 0#32, 0#32] = List.map (fun i => W.com.getW (A.PWR_BOOT_DIG i)) (List.range 8) ∧ ¬(0 = W.com.rd R.TW_CFG_PAIR_ID ∧
      false ≠ W.com.pwr.posA)) ∧
    (Quiet W.com ∧ W.com.mode.cur.counts = true ∧ W.com.twin.lanes = 0 ∧ W.com.pwr.twlOff = false ∧ ¬(W.com.rd R.DEV_REV_SI_REV = (162#8).toNat ∧
      [0#32, 0#32, 0#32, 0#32, 0#32, 0#32, 0#32, 0#32] = List.map (fun i => W.com.getW (A.PWR_BOOT_DIG i)) (List.range 8))) ∧
    (Quiet W.twinLink2 ∧ W.twinLink2.twin.lanes ≠ 0) ∧
    (Quiet W.twinLink2 ∧ W.twinLink2.twin.lanes = 2) ∧
    (Quiet W.twinLink3 ∧ W.twinLink3.twin.lanes = 1) := by
  refine ⟨?_, ?_, ?_, ?_, ?_, ?_⟩ <;> decide +kernel

theorem witness_Heartbeats :
    (Quiet W.heartbeats1 ∧ W.heartbeats1.beats = true ∧ W.heartbeats1.twUp = true) ∧
    (Quiet W.heartbeats1 ∧ W.heartbeats1.twUp = true ∧ W.heartbeats1.on R.TW_CFG_EN = true ∧ W.heartbeats1.twin.hb = true ∧ (W.heartbeats1.mode.cur ≠
      Mode.leader ∨ 3 ≠ 2)) ∧
    (Quiet W.heartbeats1 ∧ W.heartbeats1.twUp = true ∧ W.heartbeats1.on R.TW_CFG_EN = true ∧ W.heartbeats1.witnesses = true ∧ W.heartbeats1.twin.hb =
      true) ∧
    (Quiet W.heartbeats3 ∧ W.heartbeats3.twin.hb = true ∧ usPassed (W.heartbeats3.clk - W.heartbeats3.twin.hbAt) 2 = true) ∧
    (Quiet W.heartbeats4 ∧ W.heartbeats4.twin.hb = true ∧ usPassed (W.heartbeats4.clk - W.heartbeats4.twin.hbFeedAt) (W.heartbeats4.rd R.TW_HB_TMO_US)
      = true) ∧
    (Quiet W.heartbeats10 ∧ W.heartbeats10.heard 0 = true ∧ W.heartbeats10.on R.TW_CFG_EN = true ∧ W.heartbeats10.mode.cur.counts = true ∧
      W.heartbeats10.nhbOk [32#8, 1#8, 0#8, 0#8, 48#8, 0#8, 0#8, 0#8, 0#8, 9#8, 0#8, 0#8, 0#8, 77#8, 0#8, 0#8, 0#8, 0#8, 0#8, 0#8, 0#8, 0#8, 0#8, 0#8,
      0#8, 0#8, 0#8, 0#8, 0#8, 0#8, 0#8, 0#8] = true ∧ (∀ (x : Nat × Word), (if 0 < 2 then W.heartbeats10.twin.nhbA else W.heartbeats10.twin.nhbB) =
      some x → x.snd ≠ BitVec.ofNat 32 (beNat (List.take 4 (List.drop 10 [32#8, 1#8, 0#8, 0#8, 48#8, 0#8, 0#8, 0#8, 0#8, 9#8, 0#8, 0#8, 0#8, 77#8,
      0#8, 0#8, 0#8, 0#8, 0#8, 0#8, 0#8, 0#8, 0#8, 0#8, 0#8, 0#8, 0#8, 0#8, 0#8, 0#8, 0#8, 0#8]))))) ∧
    (Quiet W.heartbeats10 ∧ W.heartbeats10.heard 0 = true ∧ W.heartbeats10.on R.TW_CFG_EN = true ∧ W.heartbeats10.mode.cur.counts = true ∧
      (W.heartbeats10.nhbOk [] = false ∨ ∃ x, (if 0 < 2 then W.heartbeats10.twin.nhbA else W.heartbeats10.twin.nhbB) = some x ∧ x.snd = BitVec.ofNat
      32 (beNat (List.take 4 (List.drop 10 []))))) ∧
    (Quiet W.heartbeats6 ∧ W.heartbeats6.on R.TW_CFG_EN = true ∧ W.heartbeats6.twin.nhb = true ∧ 512 ≤ W.heartbeats6.tick ∧
      W.heartbeats6.twin.nhbJudged ≠ W.heartbeats6.tlBlock ∧ W.heartbeats6.nhbSeen = false ∧ W.heartbeats6.twin.nhbMiss + 1 < W.heartbeats6.rd
      R.TW_NHB_MISS_BLK) ∧
    (Quiet W.heartbeats7 ∧ W.heartbeats7.on R.TW_CFG_EN = true ∧ W.heartbeats7.twin.nhb = true ∧ 512 ≤ W.heartbeats7.tick ∧
      W.heartbeats7.twin.nhbJudged ≠ W.heartbeats7.tlBlock ∧ W.heartbeats7.nhbSeen = false ∧ W.heartbeats7.rd R.TW_NHB_MISS_BLK ≤
      W.heartbeats7.twin.nhbMiss + 1) := by
  refine ⟨?_, ?_, ?_, ?_, ?_, ?_, ?_, ?_, ?_⟩ <;> decide +kernel

theorem witness_TwinMirroring :
    (Quiet W.twinMirroring1 ∧ W.twinMirroring1.mode.cur.counts = true ∧ W.twinMirroring1.linked = true ∧ 960 ≤ W.twinMirroring1.tick ∧
      W.twinMirroring1.twin.msgSent ≠ W.twinMirroring1.tlBlock) ∧
    (Quiet W.twinMirroring8 ∧ W.twinMirroring8.twUp = true ∧ W.twinMirroring8.tick ≤ 1016 ∧ W.twinMirroring8.leadsPair = true) ∧
    (Quiet W.twinMirroring2 ∧ W.twinMirroring2.twUp = true ∧ W.twinMirroring2.tick ≤ 1016 ∧ W.twinMirroring2.leadsPair = false ∧
      W.twinMirroring2.takesMsgs = true ∧
      (some { tlOfs := 5, mirrorSeq := 3, convs := [{ ch := 1040, ratio := 5#32, phase := 6#32, lock := true : ConvCopy }], servoI := 2, adj := 1, ptpTime := 77, ptpState := 3, parent := 5, act := 1, svc := 1, waits := [], disq := [], guarded := none, phase := some 4, concealed := [], taint := [], slice := [] : LeadMsg }).isSome = true) ∧
    (Quiet W.twinMirroring1 ∧ W.twinMirroring1.twUp = true ∧ 1016 < W.twinMirroring1.tick) ∧
    (Quiet W.twinMirroring1 ∧ W.twinMirroring1.takesMsgs = true ∧ W.twinMirroring1.twin.msg = none ∧ 1016 ≤ W.twinMirroring1.tick ∧
      W.twinMirroring1.twin.msgMissed ≠ W.twinMirroring1.tlBlock) ∧
    (Quiet W.twinMirroring8 ∧ hostPath Path.pcie.code = true ∧ W.twinMirroring8.mode.cur = Mode.leader ∧ 992 ≤ W.twinMirroring8.tick) ∧
    (Quiet W.twinMirroring1 ∧ W.twinMirroring1.twUp = true ∧ W.twinMirroring1.on R.TW_CFG_EN = true) ∧
    (Quiet W.twinMirroring2 ∧ W.twinMirroring2.on R.TW_CFG_INMIR = true ∧ W.twinMirroring2.takesMsgs = true ∧ W.twinMirroring2.twin.mirror = none ∧
      W.twinMirroring2.tick ≤ 256) ∧
    (Quiet W.twinMirroring1 ∧ W.twinMirroring1.on R.TW_CFG_INMIR = true ∧ W.twinMirroring1.takesMsgs = true ∧ W.twinMirroring1.twin.mirror = none ∧
      256 ≤ W.twinMirroring1.tick) ∧
    (Quiet W.twinMirroring1 ∧ W.twinMirroring1.linked = true ∧ 124 + 1 = W.twinMirroring1.tlBlock ∧ W.twinMirroring1.bndDue = false) ∧
    (Quiet W.twinMirroring6 ∧ W.twinMirroring6.linked = true ∧ 124 + 1 = W.twinMirroring6.tlBlock ∧ W.twinMirroring6.bndDue = false ∧
      W.twinMirroring6.twin.mask = some (124, []) ∧ W.twinMirroring6.pairInStep = true ∧ W.twinMirroring6.twin.stepFrom ≤ 124) ∧
    (hostPath Path.pcie.code = true ∧ W.twinMirroring4.mode.cur = Mode.leader ∧ W.twinMirroring4.tick < 992 ∧ W.twinMirroring4.bndDue = false ∧
      W.twinMirroring4.fab.hostWait = [(true, HostOp.req (onPath Path.pcie.code) (WriteReq.latent 4096 [some 1#8, some 2#8]) true)] ∧ wholeFields 4096
      [some 1#8, some 2#8] = true ∧ W.twinMirroring4.bankLocked = false ∧ W.twinMirroring4.fab.bad = []) := by
  refine ⟨?_, ?_, ?_, ?_, ?_, ?_, ?_, ?_, ?_, ?_, ?_, ?_⟩ <;> decide +kernel

theorem witness_Resynchronisation :
    (Quiet W.resynchronisation1 ∧ W.resynchronisation1.mode.cur = Mode.follower ∧ W.resynchronisation1.twin.copy = CopyKind.none ∧ bitN (0#32).toNat 0
      = 0) ∧
    (Quiet W.resynchronisation1 ∧ W.resynchronisation1.takesMsgs = true ∧ twf bankD [] = true) ∧
    (Quiet W.resynchronisation2 ∧ W.resynchronisation2.linked = true ∧ W.resynchronisation2.twin.copy ≠ CopyKind.none) ∧
    (Quiet W.resynchronisation2 ∧ W.resynchronisation2.linked = true ∧ W.resynchronisation2.twin.copy ≠ CopyKind.none ∧ ([] : Bytes).length = 64 *
      (W.resynchronisation2.prog 1).stateLen) ∧
    (Quiet W.resynchronisation2 ∧ W.resynchronisation2.atBoundary = true ∧ W.resynchronisation2.twin.copy ≠ CopyKind.none ∧
      W.resynchronisation2.twin.rejoin = some W.resynchronisation2.tlBlock ∧ W.resynchronisation2.mode.cur = Mode.follower) ∧
    (Quiet W.resynchronisation4 ∧ W.resynchronisation4.atBoundary = true ∧ W.resynchronisation4.twin.copy ≠ CopyKind.none ∧
      W.resynchronisation4.twin.rejoin = some W.resynchronisation4.tlBlock ∧ W.resynchronisation4.mode.cur = Mode.commission ∧
      W.resynchronisation4.twin.joining = true) ∧
    (Quiet W.resynchronisation5 ∧ W.resynchronisation5.leadsPair = true) ∧
    (Quiet W.resynchronisation6 ∧ W.resynchronisation6.mode.cur = Mode.commission ∧ W.resynchronisation6.twin.joining = true ∧
      W.resynchronisation6.twUp = true ∧ W.resynchronisation6.atBoundary = true ∧ W.resynchronisation6.twin.copy = CopyKind.none ∧ 0 % 8 = 0 ∧
      W.resynchronisation6.ref.act = 7 ∧ W.resynchronisation6.ref.state = RefState.locked) := by
  refine ⟨?_, ?_, ?_, ?_, ?_, ?_, ?_, ?_⟩ <;> decide +kernel

theorem witness_DriveAndLeadership :
    (Quiet W.driveAndLeadership2 ∧ W.driveAndLeadership2.atDrive = false) ∧
    (Quiet W.driveAndLeadership5 ∧ W.driveAndLeadership5.atDrive = true ∧ W.driveAndLeadership5.driveClash = true) ∧
    (Quiet W.driveAndLeadership3 ∧ W.driveAndLeadership3.atDrive = true ∧ W.driveAndLeadership3.driveClash = false ∧ W.driveAndLeadership3.mode.cur =
      Mode.leader ∧ W.driveAndLeadership3.twin.relq = true ∧ W.driveAndLeadership3.twin.drive = true) ∧
    (Quiet W.run ∧ W.run.atDrive = true ∧ W.run.driveClash = false ∧ W.run.mode.cur = Mode.standalone ∧ W.run.twin.drive = false ∧ W.run.twin.driveIn
      = false ∧ (W.run.twin.wdDrop = false ∨ 8 ≤ W.run.psm.fresh)) ∧
    (Quiet W.driveAndLeadership6 ∧ W.driveAndLeadership6.atDrive = true ∧ W.driveAndLeadership6.driveClash = false ∧ W.driveAndLeadership6.mode.cur =
      Mode.follower ∧ W.driveAndLeadership6.twin.drive = false ∧ W.driveAndLeadership6.takeCause = some 2) ∧
    (Quiet W.driveAndLeadership11 ∧ W.driveAndLeadership11.atDrive = true ∧ W.driveAndLeadership11.driveClash = false ∧
      (W.driveAndLeadership11.mode.cur = Mode.quiesce ∨ W.driveAndLeadership11.mode.cur = Mode.dark)) ∧
    (Quiet W.driveAndLeadership5 ∧ W.driveAndLeadership5.twin.driveIn = true) ∧
    (Quiet W.com ∧ W.com.twin.driveIn = false) ∧
    (Quiet W.driveAndLeadership9 ∧ W.driveAndLeadership9.twin.drive = true ∧ W.driveAndLeadership9.atDrive = true ∧ W.driveAndLeadership9.psm.fedAt +
      512 ≤ W.driveAndLeadership9.clk ∧ (W.driveAndLeadership9.mode.cur ≠ Mode.leader ∨ W.driveAndLeadership9.on R.TW_REL_FEED = false)) ∧
    (Quiet W.driveAndLeadership13 ∧ Unlocked W.driveAndLeadership13 Path.twin Pg.TW ∧ bitN (0#32).toNat 1 = 0 ∧ W.driveAndLeadership13.mode.cur =
      Mode.leader ∧ W.driveAndLeadership13.twin.peerRole = 3 ∧ W.driveAndLeadership13.twin.peerStep = true ∧ (W.driveAndLeadership13.twin.hb = true ∨
      W.driveAndLeadership13.twin.nhb = true) ∧ W.driveAndLeadership13.twin.relq = false) ∧
    (Quiet W.com ∧ Unlocked W.com Path.twin Pg.TW ∧ bitN (0#32).toNat 1 = 0 ∧ W.com.mode.cur ≠ Mode.leader) ∧
    (Quiet W.driveAndLeadership4 ∧ W.driveAndLeadership4.mode.cur = Mode.leader ∧ W.driveAndLeadership4.twin.relq = true ∧
      W.driveAndLeadership4.atBoundary = true ∧ W.driveAndLeadership4.twin.drive = false ∧ W.driveAndLeadership4.twin.copy = CopyKind.none) ∧
    (Quiet W.driveAndLeadership16 ∧ W.driveAndLeadership16.twin.wRelq = some 0 ∧ 0 + 256 ≤ W.driveAndLeadership16.clk) ∧
    (Quiet W.driveAndLeadership8 ∧ W.driveAndLeadership8.twin.leadDue = some 4 ∧ W.driveAndLeadership8.atBoundary = true ∧
      W.driveAndLeadership8.witnesses = true) ∧
    (Quiet W.driveAndLeadership10 ∧ W.driveAndLeadership10.mode.cur = Mode.follower ∧ W.driveAndLeadership10.atBoundary = true ∧
      W.driveAndLeadership10.twin.wLink.isSome = true ∧ W.driveAndLeadership10.twin.wNet = true ∧ W.driveAndLeadership10.twin.driveIn = true) := by
  refine ⟨?_, ?_, ?_, ?_, ?_, ?_, ?_, ?_, ?_, ?_, ?_, ?_, ?_, ?_, ?_⟩ <;> decide +kernel

theorem witness_PowerPeriods :
    (Quiet W.com ∧ W.com.mode.cur.counts = true ∧ W.com.psm.fedSmp ≠ some W.com.smp) ∧
    (Quiet W.powerPeriods3 ∧ W.powerPeriods3.psDue 0 = some 4096010 ∧ W.powerPeriods3.psEnds 0 4096010 = false ∧ W.powerPeriods3.psTrips 0 = false) ∧
    (Quiet W.powerPeriods4 ∧ W.powerPeriods4.psDue 1 = some 4096010 ∧ W.powerPeriods4.psTrips 1 = true) ∧
    (Quiet W.powerPeriods5 ∧ W.powerPeriods5.psDue 2 = some 4096010 ∧ W.powerPeriods5.psEnds 2 4096010 = true ∧ W.powerPeriods5.psTrips 2 = false) ∧
    (Quiet W.powerPeriods3 ∧ (W.powerPeriods3.ps 0).switching = true ∧ (W.powerPeriods3.ps 0).live = true) := by
  refine ⟨?_, ?_, ?_, ?_, ?_⟩ <;> decide +kernel

theorem witness_ChannelStates :
    (Quiet W.channelStates1 ∧ W.channelStates1.atBoundary = true ∧ (W.channelStates1.ps 1).st = PsState.off ∧ (W.channelStates1.ps 1).next = none ∧
      W.channelStates1.psMay 1 = true ∧ W.channelStates1.audio.apllLost = false ∧ W.channelStates1.feedRuns = true ∧ W.channelStates1.mode.cur ≠
      Mode.follower ∧ ((W.channelStates1.ps 1).am = false ∨ 8 ≤ W.channelStates1.psm.fresh) ∧ (cfgDiag (W.channelStates1.psCfg 1) = false ∨
      (W.channelStates1.ps 1).am = true)) ∧
    (Quiet W.channelStates1 ∧ W.channelStates1.atBoundary = true ∧ (W.channelStates1.ps 0).st = PsState.off ∧ (W.channelStates1.ps 0).next = none ∧
      W.channelStates1.psMay 0 = true ∧ W.channelStates1.audio.apllLost = false ∧ W.channelStates1.feedRuns = true ∧ W.channelStates1.mode.cur ≠
      Mode.follower ∧ ((W.channelStates1.ps 0).am = false ∨ 8 ≤ W.channelStates1.psm.fresh) ∧ cfgDiag (W.channelStates1.psCfg 0) = true ∧
      (W.channelStates1.ps 0).am = false) ∧
    (Quiet W.channelStates4 ∧ (W.channelStates4.ps 0).st = PsState.diag ∧ (W.channelStates4.ps 0).since ≤ W.channelStates4.clk ∧ (W.channelStates4.ps
      0).step ≠ 0 ∧ (W.channelStates4.ps 0).step < 6 ∧ ((W.channelStates4.ps 0).cut = true ∨ false = true ∧ stepNames (W.channelStates4.ps 0).step
      false = true ∨ false = true ∧ stepNames (W.channelStates4.ps 0).step true = true)) ∧
    (Quiet W.channelStates5 ∧ (W.channelStates5.ps 0).st = PsState.diag ∧ (W.channelStates5.ps 0).since ≤ W.channelStates5.clk ∧ (W.channelStates5.ps
      0).step ≠ 0 ∧ (W.channelStates5.ps 0).step < 6 ∧ (¬((W.channelStates5.ps 0).cut = true ∨ false = true ∧ stepNames (W.channelStates5.ps 0).step
      false = true ∨ false = true ∧ stepNames (W.channelStates5.ps 0).step true = true)) ∧ W.channelStates5.rd R.PSM_DIAG_PULSE * 12288 ≤
      (W.channelStates5.clk - (W.channelStates5.ps 0).since) * 4000) ∧
    (Quiet W.channelStates7 ∧ (W.channelStates7.ps 0).st = PsState.diag ∧ (W.channelStates7.ps 0).since ≤ W.channelStates7.clk ∧ (W.channelStates7.ps
      0).step ≠ 0 ∧ 6 ≤ (W.channelStates7.ps 0).step ∧ (W.channelStates7.ps 0).since + 128 * W.channelStates7.rd R.PSM_DIAG_SETTLE ≤
      W.channelStates7.clk ∧ W.channelStates7.rd R.PSM_DIAG_OPEN_THR < (4095#12).toNat) ∧
    (Quiet W.channelStates7 ∧ (W.channelStates7.ps 0).st = PsState.diag ∧ (W.channelStates7.ps 0).since ≤ W.channelStates7.clk ∧ (W.channelStates7.ps
      0).step ≠ 0 ∧ 6 ≤ (W.channelStates7.ps 0).step ∧ (W.channelStates7.ps 0).since + 128 * W.channelStates7.rd R.PSM_DIAG_SETTLE ≤
      W.channelStates7.clk ∧ (0#12).toNat ≤ W.channelStates7.rd R.PSM_DIAG_OPEN_THR ∧ (W.channelStates7.ps 0).cmd = true) ∧
    (Quiet W.channelStates8 ∧ (W.channelStates8.ps 0).st = PsState.start ∧ (W.channelStates8.ps 0).tr ≤ W.channelStates8.tl) ∧
    (Quiet W.channelStates9 ∧ (W.channelStates9.ps 0).st = PsState.ramp ∧ (W.channelStates9.ps 0).tr + (W.channelStates9.ps 0).ramp ≤
      W.channelStates9.tl) ∧
    (Quiet W.channelStates10 ∧ (W.channelStates10.ps 5).st = PsState.run ∧ W.channelStates10.psMay 5 = false ∧ (W.channelStates10.ps 5).mute = none ∧
      (W.channelStates10.ps 5).tr + (W.channelStates10.ps 5).ramp ≤ W.channelStates10.tl) := by
  refine ⟨?_, ?_, ?_, ?_, ?_, ?_, ?_, ?_, ?_⟩ <;> decide +kernel

theorem witness_PowerMutesAndCommands :
    (Quiet W.powerMutesAndCommands2 ∧ W.powerMutesAndCommands2.mode.cur.counts = true ∧ W.powerMutesAndCommands2.psm.fedSmp.isSome = true ∧
      W.powerMutesAndCommands2.psm.fedSmp ≠ some W.powerMutesAndCommands2.smp ∧ W.powerMutesAndCommands2.psm.stall ≠ some
      W.powerMutesAndCommands2.smp) ∧
    (Quiet W.powerMutesAndCommands3 ∧ W.powerMutesAndCommands3.psm.feedMute = true ∧ W.powerMutesAndCommands3.atBoundary = true ∧ 8 ≤
      W.powerMutesAndCommands3.psm.fresh ∧ W.powerMutesAndCommands3.audio.apllLost = false) ∧
    (Quiet W.powerMutesAndCommands4 ∧ TakenAny W.powerMutesAndCommands4 Path.internal ∧ ((W.powerMutesAndCommands4.ps 0).st = PsState.tripped ∨
      (W.powerMutesAndCommands4.ps 0).st = PsState.fault) ∧ cfgEn (W.powerMutesAndCommands4.psCfg 0) = true) ∧
    (Quiet W.com ∧ TakenAny W.com Path.internal ∧ W.com.mode.cur = Mode.commission ∧ Path.internal ≠ Path.twin ∧ ((W.com.ps 0).st = PsState.off ∨
      (W.com.ps 0).st = PsState.fault) ∧ W.com.twin.driveIn = false) ∧
    (Quiet W.powerMutesAndCommands6 ∧ TakenAny W.powerMutesAndCommands6 Path.internal ∧ W.powerMutesAndCommands6.mode.cur = Mode.commission ∧
      Path.internal ≠ Path.twin ∧ ((W.powerMutesAndCommands6.ps 0).st = PsState.off ∨ (W.powerMutesAndCommands6.ps 0).st = PsState.fault) ∧
      W.powerMutesAndCommands6.twin.driveIn = true) ∧
    (Quiet W.com ∧ TakenAny W.com Path.internal ∧ Path.internal ≠ Path.twin ∧ bitN (0#32).toNat 1 = 0 ∧ bitN (0#32).toNat 4 = 0 ∧ W.com.frozen (Pg.PS
      0) = false) ∧
    (Quiet W.com ∧ TakenAny W.com Path.internal ∧ bitsN (0#32).toNat 0 16 ≤ bitsN (0#32).toNat 16 16) ∧
    (Quiet W.com ∧ TakenAny W.com Path.internal) ∧
    (Quiet W.com) := by
  refine ⟨?_, ?_, ?_, ?_, ?_, ?_, ?_, ?_, ?_⟩ <;> decide +kernel

theorem witness_MovesAndFences :
    (Quiet W.movesAndFences2 ∧
      W.movesAndFences2.muleNext 0 = some (MuleOp.move 0 0 false false false false false false false false 268439556 268443648 8) ∧
      W.movesAndFences2.moveOf 0 (MuleOp.move 0 0 false false false false false false false false 268439556 268443648 8) = some { mode := 0, pack := 0, src := { base := 268439556, ofs := 0, size := none : Side }, dst := { base := 268443648, ofs := 0, size := none : Side }, len := 8 : Move } ∧
      W.movesAndFences2.moveReady 0 { mode := 0, pack := 0, src := { base := 268439556, ofs := 0, size := none : Side }, dst := { base := 268443648, ofs := 0, size := none : Side }, len := 8 : Move } = true ∧
      (∀ (i : Nat), i < { mode := 0, pack := 0, src := { base := 268439556, ofs := 0, size := none : Side }, dst := { base := 268443648, ofs := 0, size := none : Side }, len := 8 : Move }.count → ∀ (a : Nat), a ∈ { mode := 0, pack := 0, src := { base := 268439556, ofs := 0, size := none : Side }, dst := { base := 268443648, ofs := 0, size := none : Side }, len := 8 : Move }.srcAt i → inShm a = true) ∧
      (∀ (p : Nat × Byte), p ∈ { mode := 0, pack := 0, src := { base := 268439556, ofs := 0, size := none : Side }, dst := { base := 268443648, ofs := 0, size := none : Side }, len := 8 : Move }.out ({ mode := 0, pack := 0, src := { base := 268439556, ofs := 0, size := none : Side }, dst := { base := 268443648, ofs := 0, size := none : Side }, len := 8 : Move }.convert (List.map (fun i => List.map (fun a => tget zeroByte W.movesAndFences2.shm (a - 268435456)) ({ mode := 0, pack := 0, src := { base := 268439556, ofs := 0, size := none : Side }, dst := { base := 268443648, ofs := 0, size := none : Side }, len := 8 : Move }.srcAt i)) (List.range { mode := 0, pack := 0, src := { base := 268439556, ofs := 0, size := none : Side }, dst := { base := 268443648, ofs := 0, size := none : Side }, len := 8 : Move }.count))) → inShm p.fst = true) ∧
      (List.map Prod.fst ({ mode := 0, pack := 0, src := { base := 268439556, ofs := 0, size := none : Side }, dst := { base := 268443648, ofs := 0, size := none : Side }, len := 8 : Move }.out ({ mode := 0, pack := 0, src := { base := 268439556, ofs := 0, size := none : Side }, dst := { base := 268443648, ofs := 0, size := none : Side }, len := 8 : Move }.convert (List.map (fun i => List.map (fun a => tget zeroByte W.movesAndFences2.shm (a - 268435456)) ({ mode := 0, pack := 0, src := { base := 268439556, ofs := 0, size := none : Side }, dst := { base := 268443648, ofs := 0, size := none : Side }, len := 8 : Move }.srcAt i)) (List.range { mode := 0, pack := 0, src := { base := 268439556, ofs := 0, size := none : Side }, dst := { base := 268443648, ofs := 0, size := none : Side }, len := 8 : Move }.count))))).Nodup) ∧
    (Quiet W.movesAndFences4 ∧
      W.movesAndFences4.muleNext 0 = some (MuleOp.move 1 0 false false false false false false false false 268439552 268443648 1026) ∧
      W.movesAndFences4.moveOf 0 (MuleOp.move 1 0 false false false false false false false false 268439552 268443648 1026) = some { mode := 1, pack := 0, src := { base := 268439552, ofs := 0, size := none : Side }, dst := { base := 268443648, ofs := 0, size := none : Side }, len := 1026 : Move } ∧
      W.movesAndFences4.moveReady 0 { mode := 1, pack := 0, src := { base := 268439552, ofs := 0, size := none : Side }, dst := { base := 268443648, ofs := 0, size := none : Side }, len := 1026 : Move } = true ∧
      (∀ (i : Nat), i < { mode := 1, pack := 0, src := { base := 268439552, ofs := 0, size := none : Side }, dst := { base := 268443648, ofs := 0, size := none : Side }, len := 1026 : Move }.count → ∀ (a : Nat), a ∈ { mode := 1, pack := 0, src := { base := 268439552, ofs := 0, size := none : Side }, dst := { base := 268443648, ofs := 0, size := none : Side }, len := 1026 : Move }.srcAt i → inShm a = true) ∧
      (∀ (p : Nat × Byte), p ∈ { mode := 1, pack := 0, src := { base := 268439552, ofs := 0, size := none : Side }, dst := { base := 268443648, ofs := 0, size := none : Side }, len := 1026 : Move }.out ({ mode := 1, pack := 0, src := { base := 268439552, ofs := 0, size := none : Side }, dst := { base := 268443648, ofs := 0, size := none : Side }, len := 1026 : Move }.convert (List.map (fun i => List.map (fun a => tget zeroByte W.movesAndFences4.shm (a - 268435456)) ({ mode := 1, pack := 0, src := { base := 268439552, ofs := 0, size := none : Side }, dst := { base := 268443648, ofs := 0, size := none : Side }, len := 1026 : Move }.srcAt i)) (List.range { mode := 1, pack := 0, src := { base := 268439552, ofs := 0, size := none : Side }, dst := { base := 268443648, ofs := 0, size := none : Side }, len := 1026 : Move }.count))) → inShm p.fst = true) ∧
      (List.map Prod.fst ({ mode := 1, pack := 0, src := { base := 268439552, ofs := 0, size := none : Side }, dst := { base := 268443648, ofs := 0, size := none : Side }, len := 1026 : Move }.out ({ mode := 1, pack := 0, src := { base := 268439552, ofs := 0, size := none : Side }, dst := { base := 268443648, ofs := 0, size := none : Side }, len := 1026 : Move }.convert (List.map (fun i => List.map (fun a => tget zeroByte W.movesAndFences4.shm (a - 268435456)) ({ mode := 1, pack := 0, src := { base := 268439552, ofs := 0, size := none : Side }, dst := { base := 268443648, ofs := 0, size := none : Side }, len := 1026 : Move }.srcAt i)) (List.range { mode := 1, pack := 0, src := { base := 268439552, ofs := 0, size := none : Side }, dst := { base := 268443648, ofs := 0, size := none : Side }, len := 1026 : Move }.count))))).Nodup) ∧
    (Quiet W.movesAndFences5 ∧
      W.movesAndFences5.muleNext 0 = some (MuleOp.move 2 0 false false false false false false false false 268439552 268443648 770) ∧
      W.movesAndFences5.moveOf 0 (MuleOp.move 2 0 false false false false false false false false 268439552 268443648 770) = some { mode := 2, pack := 0, src := { base := 268439552, ofs := 0, size := none : Side }, dst := { base := 268443648, ofs := 0, size := none : Side }, len := 770 : Move } ∧
      W.movesAndFences5.moveReady 0 { mode := 2, pack := 0, src := { base := 268439552, ofs := 0, size := none : Side }, dst := { base := 268443648, ofs := 0, size := none : Side }, len := 770 : Move } = true ∧
      (∀ (i : Nat), i < { mode := 2, pack := 0, src := { base := 268439552, ofs := 0, size := none : Side }, dst := { base := 268443648, ofs := 0, size := none : Side }, len := 770 : Move }.count → ∀ (a : Nat), a ∈ { mode := 2, pack := 0, src := { base := 268439552, ofs := 0, size := none : Side }, dst := { base := 268443648, ofs := 0, size := none : Side }, len := 770 : Move }.srcAt i → inShm a = true) ∧
      (∀ (p : Nat × Byte), p ∈ { mode := 2, pack := 0, src := { base := 268439552, ofs := 0, size := none : Side }, dst := { base := 268443648, ofs := 0, size := none : Side }, len := 770 : Move }.out ({ mode := 2, pack := 0, src := { base := 268439552, ofs := 0, size := none : Side }, dst := { base := 268443648, ofs := 0, size := none : Side }, len := 770 : Move }.convert (List.map (fun i => List.map (fun a => tget zeroByte W.movesAndFences5.shm (a - 268435456)) ({ mode := 2, pack := 0, src := { base := 268439552, ofs := 0, size := none : Side }, dst := { base := 268443648, ofs := 0, size := none : Side }, len := 770 : Move }.srcAt i)) (List.range { mode := 2, pack := 0, src := { base := 268439552, ofs := 0, size := none : Side }, dst := { base := 268443648, ofs := 0, size := none : Side }, len := 770 : Move }.count))) → inShm p.fst = true) ∧
      (List.map Prod.fst ({ mode := 2, pack := 0, src := { base := 268439552, ofs := 0, size := none : Side }, dst := { base := 268443648, ofs := 0, size := none : Side }, len := 770 : Move }.out ({ mode := 2, pack := 0, src := { base := 268439552, ofs := 0, size := none : Side }, dst := { base := 268443648, ofs := 0, size := none : Side }, len := 770 : Move }.convert (List.map (fun i => List.map (fun a => tget zeroByte W.movesAndFences5.shm (a - 268435456)) ({ mode := 2, pack := 0, src := { base := 268439552, ofs := 0, size := none : Side }, dst := { base := 268443648, ofs := 0, size := none : Side }, len := 770 : Move }.srcAt i)) (List.range { mode := 2, pack := 0, src := { base := 268439552, ofs := 0, size := none : Side }, dst := { base := 268443648, ofs := 0, size := none : Side }, len := 770 : Move }.count))))).Nodup) ∧
    (Quiet W.movesAndFences6 ∧
      W.movesAndFences6.muleNext 0 = some (MuleOp.move 3 0 false false false false false false false false 268439552 268443648 1) ∧
      W.movesAndFences6.moveOf 0 (MuleOp.move 3 0 false false false false false false false false 268439552 268443648 1) = some { mode := 3, pack := 0, src := { base := 268439552, ofs := 0, size := none : Side }, dst := { base := 268443648, ofs := 0, size := none : Side }, len := 1 : Move } ∧
      W.movesAndFences6.moveReady 0 { mode := 3, pack := 0, src := { base := 268439552, ofs := 0, size := none : Side }, dst := { base := 268443648, ofs := 0, size := none : Side }, len := 1 : Move } = true ∧
      (∀ (i : Nat), i < { mode := 3, pack := 0, src := { base := 268439552, ofs := 0, size := none : Side }, dst := { base := 268443648, ofs := 0, size := none : Side }, len := 1 : Move }.count → ∀ (a : Nat), a ∈ { mode := 3, pack := 0, src := { base := 268439552, ofs := 0, size := none : Side }, dst := { base := 268443648, ofs := 0, size := none : Side }, len := 1 : Move }.srcAt i → inShm a = true) ∧
      (∀ (p : Nat × Byte), p ∈ { mode := 3, pack := 0, src := { base := 268439552, ofs := 0, size := none : Side }, dst := { base := 268443648, ofs := 0, size := none : Side }, len := 1 : Move }.out ({ mode := 3, pack := 0, src := { base := 268439552, ofs := 0, size := none : Side }, dst := { base := 268443648, ofs := 0, size := none : Side }, len := 1 : Move }.convert (List.map (fun i => List.map (fun a => tget zeroByte W.movesAndFences6.shm (a - 268435456)) ({ mode := 3, pack := 0, src := { base := 268439552, ofs := 0, size := none : Side }, dst := { base := 268443648, ofs := 0, size := none : Side }, len := 1 : Move }.srcAt i)) (List.range { mode := 3, pack := 0, src := { base := 268439552, ofs := 0, size := none : Side }, dst := { base := 268443648, ofs := 0, size := none : Side }, len := 1 : Move }.count))) → inShm p.fst = true) ∧
      (List.map Prod.fst ({ mode := 3, pack := 0, src := { base := 268439552, ofs := 0, size := none : Side }, dst := { base := 268443648, ofs := 0, size := none : Side }, len := 1 : Move }.out ({ mode := 3, pack := 0, src := { base := 268439552, ofs := 0, size := none : Side }, dst := { base := 268443648, ofs := 0, size := none : Side }, len := 1 : Move }.convert (List.map (fun i => List.map (fun a => tget zeroByte W.movesAndFences6.shm (a - 268435456)) ({ mode := 3, pack := 0, src := { base := 268439552, ofs := 0, size := none : Side }, dst := { base := 268443648, ofs := 0, size := none : Side }, len := 1 : Move }.srcAt i)) (List.range { mode := 3, pack := 0, src := { base := 268439552, ofs := 0, size := none : Side }, dst := { base := 268443648, ofs := 0, size := none : Side }, len := 1 : Move }.count))))).Nodup) ∧
    (Quiet W.movesAndFences8 ∧ List.find? (fun y => y.dom == 0) W.movesAndFences8.fab.fences = some { dom := 0, since := 0 : Fence } ∧
      0 + usTicks (W.movesAndFences8.rd R.PWR_FENCE_TMO_US) ≤ W.movesAndFences8.clk ∧ W.movesAndFences8.fenceHeld 0 = false ∧
      W.movesAndFences8.mode.entering = false) ∧
    (Quiet W.movesAndFences7 ∧ (∃ x, x ∈ W.movesAndFences7.fab.fences ∧ x.dom = 3) ∧ W.movesAndFences7.fenceHeld 3 = true ∧ (W.movesAndFences7.flock
      3).powered = true) ∧
    (Quiet W.movesAndFences11 ∧ (∃ x, x ∈ W.movesAndFences11.fab.fences ∧ x.dom = 16) ∧ W.movesAndFences11.fenceHeld 16 = true) := by
  refine ⟨?_, ?_, ?_, ?_, ?_, ?_, ?_⟩ <;> decide +kernel

theorem witness_MuleControl :
    (Quiet W.muleControl1 ∧ W.muleControl1.muleNext 0 = some (MuleOp.loop false 2 1 100 (-1)) ∧ 1 ≠ 0) ∧
    (Quiet W.muleControl2 ∧ W.muleControl2.muleNext 0 = some (MuleOp.loop false 2 0 100 (-1)) ∧ (W.muleControl2.mule 0).l1 = none) ∧
    (Quiet W.muleControl4 ∧ W.muleControl4.muleNext 0 = some (MuleOp.jump 268435456)) ∧
    (Quiet W.muleControl5 ∧ W.muleControl5.waitAt 0 = some (true, MuleOp.waitBlock 5) ∧ W.muleControl5.isFenced 0 = false) ∧
    (Quiet W.muleControl8 ∧ W.muleControl8.waitAt 0 = some (false, MuleOp.waitBlock 5) ∧ (W.muleControl8.mule 0).waitBlk + 1 = W.muleControl8.block ∧
      5 ≤ W.muleControl8.tick) ∧
    (Quiet W.muleControl6 ∧ W.muleControl6.waitAt 0 = some (false, MuleOp.waitBlock 5) ∧ (W.muleControl6.mule 0).waitBlk + 1 = W.muleControl6.block ∧
      W.muleControl6.tick < 5) ∧
    (Quiet W.muleControl10 ∧ W.muleControl10.waitAt 0 = some (false, MuleOp.waitTl 77) ∧ 77 ≤ W.muleControl10.tl) ∧
    (Quiet W.muleControl9 ∧ W.muleControl9.waitAt 0 = some (true, MuleOp.waitTl 77) ∧ 77 ≤ W.muleControl9.tl) ∧
    (Quiet W.muleControl12 ∧ W.muleControl12.waitAt 0 = some (false, MuleOp.waitFlag 33) ∧ W.muleControl12.flag 33 = true ∧
      W.muleControl12.firstWaiter 33 = some 0) ∧
    (Quiet W.muleControl13 ∧ W.muleControl13.muleNext 0 = some (MuleOp.signalFlag 33)) ∧
    (Quiet W.muleControl14 ∧ W.muleControl14.muleNext 0 = some (MuleOp.signalEvent 5#32)) ∧
    (Quiet W.muleControl15 ∧ W.muleControl15.muleNext 0 = some (MuleOp.signalRelease 5#32)) ∧
    (Quiet W.muleControl16 ∧ W.muleControl16.muleNext 95 = some MuleOp.fin ∧ W.muleControl16.isFenced 95 = false ∧ 88 ≤ 95) ∧
    (Quiet W.muleControl16 ∧ W.muleControl16.muleNext 0 = some MuleOp.fin ∧ W.muleControl16.isFenced 0 = false ∧ 0 < 88) := by
  refine ⟨?_, ?_, ?_, ?_, ?_, ?_, ?_, ?_, ?_, ?_, ?_, ?_, ?_, ?_⟩ <;> decide +kernel

theorem witness_MuleStopsAndStarts :
    (Quiet W.muleStopsAndStarts1 ∧ (W.muleStopsAndStarts1.mule 0).st = MuleState.run ∧ W.muleStopsAndStarts1.runsAway 0 = false ∧
      W.muleStopsAndStarts1.muleOp 0 = none) ∧
    (Quiet W.muleStopsAndStarts2 ∧ (W.muleStopsAndStarts2.mule 0).st = MuleState.run ∧ W.muleStopsAndStarts2.runsAway 0 = true) ∧
    (Quiet W.muleStopsAndStarts3 ∧ (W.muleStopsAndStarts3.mule 0).st = MuleState.run ∧ (∀ (op : MuleOp) (x : Move), W.muleStopsAndStarts3.muleNext 0 =
      some op → W.muleStopsAndStarts3.moveOf 0 op = some x → ∀ (i : Nat), i < x.count → ∀ (b : Nat), b ∈ x.srcAt i → inShm b = true)) ∧
    (Quiet W.muleStopsAndStarts3 ∧ (W.muleStopsAndStarts3.mule 0).st = MuleState.run ∧ (∀ (op : MuleOp) (x : Move), W.muleStopsAndStarts3.muleNext 0 =
      some op → W.muleStopsAndStarts3.moveOf 0 op = some x → ∀ (i : Nat), i < x.count → ∀ (b : Nat), b ∈ x.srcAt i → inShm b = true) ∧
      W.muleStopsAndStarts3.target (4294967295#32).toNat = 63) ∧
    (Quiet W.com ∧ TakenAny W.com Path.internal ∧ 88 ≤ 95 ∧ (W.com.mule 95).busy = false ∧ (W.com.mule 95).st ≠ MuleState.off ∧ (W.com.modeFor
      Path.internal.code).hostMule = true ∧ W.com.enabled (mulPage 95) = true) ∧
    (Quiet W.com ∧ TakenAny W.com Path.internal ∧ 0 < 88) ∧
    (Quiet W.muleStopsAndStarts1 ∧ TakenAny W.muleStopsAndStarts1 Path.internal ∧ 88 ≤ 95 ∧ (W.muleStopsAndStarts1.mule 95).busy = true) ∧
    (Quiet W.muleStopsAndStarts5 ∧ (W.muleStopsAndStarts5.mule 0).restart = some 5 ∧ 5 ≤ W.muleStopsAndStarts5.block ∧ W.muleStopsAndStarts5.bndDue =
      false) ∧
    (Quiet W.com ∧ TakenAny W.com Path.internal) := by
  repeat' apply And.intro
  all_goals first | decide +kernel | skip
  all_goals
    intro op x h1 h2
    have e : W.muleStopsAndStarts3.muleNext 0 = some (.move 0 0 false false false false false false false false 268439556 268443648 8) := by decide +kernel
    cases Option.some.inj (e.symm.trans h1)
    have e : W.muleStopsAndStarts3.moveOf 0 (.move 0 0 false false false false false false false false 268439556 268443648 8) = some ⟨0, 0, ⟨268439556, 0, none⟩, ⟨268443648, 0, none⟩, 8⟩ := by decide +kernel
    cases Option.some.inj (e.symm.trans h2)
    decide +kernel

theorem witness_FabricAndScrubbing :
    (Quiet W.com ∧ W.com.grantOf 0 0 [] = none) ∧
    (Quiet W.com ∧
      W.com.grantOf 0 1 W.beats = some { master := 2, addr := 268439552, deadline := 16777215#24, presented := 1, path := Path.pcie, write := none, lockStart := false, lockEnd := false, ecc := [] : Beat } ∧
      0 < 32 ∧ 2 < 21 ∧ 268439552 % 64 = 0 ∧ W.com.fab.bad = [] ∧ W.com.fab.broken = []) ∧
    (Quiet W.com ∧
      W.com.grantOf 1 1 W.beats = some { master := 2, addr := 271581248, deadline := 7#24, presented := 1, path := Path.pcie, write := some ((List.range 64).map fun i => some (BitVec.ofNat 8 i)), lockStart := false, lockEnd := false, ecc := [] : Beat } ∧
      1 < 32 ∧ 2 < 21 ∧ 271581248 % 64 = 0 ∧ W.com.fab.bad = [] ∧ W.com.fab.broken = [] ∧
      ((List.range 64).map fun i => some (BitVec.ofNat 8 i)).length = 64 ∧
      (∀ (x : Option Byte), x ∈ ((List.range 64).map fun i => some (BitVec.ofNat 8 i)) → x.isSome = true)) ∧
    (Quiet W.fabricAndScrubbing3 ∧ tget noLock W.fabricAndScrubbing3.fab.locks 1 = some { master := 22, addr := 268435520, since := 5 : LockSt } ∧
      W.fabricAndScrubbing3.rd R.FAB_LOCK_WDT_CYC ≤ 6999) ∧
    (Quiet W.com) ∧
    (Quiet W.com ∧ W.com.on R.SHM_SCRUB_EN = true ∧ scrubHit 0 268435456 = true ∧ W.com.fab.bad = []) ∧
    (Quiet W.com ∧ TakenAny W.com Path.internal ∧ W.com.fab.prio = none) ∧
    (Quiet W.fabricAndScrubbing3 ∧ W.fabricAndScrubbing3.fab.prio = some 3 ∧ usPassed (W.fabricAndScrubbing3.clk - 3) 524 = true) := by
  refine ⟨?_, ?_, ?_, ?_, ?_, ?_, ?_, ?_⟩ <;> decide +kernel

theorem witness_LoupePower :
    (Quiet W.com ∧ W.com.lp.runs = false) ∧
    (Quiet W.loupePower1 ∧ W.loupePower1.lp.power = LpPower.measure) ∧
    (Quiet W.loupePower3 ∧ W.loupePower3.lp.power = LpPower.clock) ∧
    (Quiet W.loupePower1 ∧ W.loupePower1.lp.runs = true) := by
  refine ⟨?_, ?_, ?_, ?_⟩ <;> decide +kernel

theorem witness_LoupeMeasures :
    (Quiet W.loupeMeasures1 ∧ W.loupeMeasures1.lp.runs = true ∧ W.loupeMeasures1.lp.due = false) ∧
    (Quiet W.loupeMeasures3 ∧ W.loupeMeasures3.lp.runs = true ∧ 6000 ≤ W.loupeMeasures3.lp.laf) ∧
    (Quiet W.loupeMeasures4 ∧ W.loupeMeasures4.lp.runs = true ∧ W.loupeMeasures4.lp.due = true) := by
  refine ⟨?_, ?_, ?_⟩ <;> decide +kernel

theorem witness_LoupeUartAndMailbox :
    (Quiet W.loupeUartAndMailbox1 ∧ W.loupeUartAndMailbox1.lp.runs = true) ∧
    (Quiet W.loupeUartAndMailbox1 ∧ W.loupeUartAndMailbox1.lp.runs = true ∧ (0 = 0 ∨ 1024 < 0)) ∧
    (Quiet W.loupeUartAndMailbox2 ∧ W.loupeUartAndMailbox2.lp.runs = true ∧ 1 ≤ 1 ∧ 1 ≤ 1024 ∧ W.loupeUartAndMailbox2.lp.flashFault = true) ∧
    (Quiet W.loupeUartAndMailbox1 ∧ W.loupeUartAndMailbox1.lp.runs = true ∧ 1 ≤ 1 ∧ 1 ≤ 1024 ∧ W.loupeUartAndMailbox1.lp.flashFault = false) ∧
    (Quiet W.com ∧ W.com.on R.LPM_REQ_GO = false) ∧
    (Quiet W.loupeUartAndMailbox4 ∧ W.loupeUartAndMailbox4.on R.LPM_REQ_GO = true) ∧
    (Quiet W.loupeUartAndMailbox5 ∧ W.loupeUartAndMailbox5.on R.LPM_REQ_GO = true ∧ W.loupeUartAndMailbox5.lp.runs = true ∧
      W.loupeUartAndMailbox5.lp.flashFault = false ∧ W.loupeUartAndMailbox5.lp.find (BitVec.toNat (W.loupeUartAndMailbox5.getW A.LPM_REQ_SEQ)) = some
      [9#8, 0#8, 0#8, 0#8, 2#8, 64#8, 0#8, 0#8, 5#8, 0#8, 0#8, 0#8, 0#8, 0#8, 0#8, 0#8, 1#8, 0#8, 0#8, 0#8, 0#8, 0#8, 0#8, 0#8, 0#8, 0#8, 0#8, 0#8,
      0#8, 0#8, 0#8, 0#8, 0#8, 0#8, 0#8, 0#8, 0#8, 0#8, 0#8, 0#8, 0#8, 0#8, 0#8, 0#8, 0#8, 0#8, 0#8, 0#8, 0#8, 0#8, 0#8, 0#8, 0#8, 0#8, 0#8, 0#8, 0#8,
      0#8, 0#8, 0#8, 0#8, 0#8, 0#8, 0#8]) ∧
    (Quiet W.loupeUartAndMailbox4 ∧ W.loupeUartAndMailbox4.on R.LPM_REQ_GO = true ∧ (W.loupeUartAndMailbox4.lp.runs = false ∧ 2 = 3 ∨
      W.loupeUartAndMailbox4.lp.runs = true ∧ W.loupeUartAndMailbox4.lp.flashFault = true ∧ 2 = 4 ∨ W.loupeUartAndMailbox4.lp.runs = true ∧
      W.loupeUartAndMailbox4.lp.flashFault = false ∧ W.loupeUartAndMailbox4.lp.find (BitVec.toNat (W.loupeUartAndMailbox4.getW A.LPM_REQ_SEQ)) = none
      ∧ 2 = 2)) := by
  refine ⟨?_, ?_, ?_, ?_, ?_, ?_, ?_, ?_⟩ <;> decide +kernel

theorem witness_LoupeSettings :
    (Quiet W.loupeSettings0 ∧ W.loupeSettings0.lp.runs = true ∧ dateOk 0 0 0 0 0 0 = false) ∧
    (Quiet W.loupeSettings0 ∧ W.loupeSettings0.lp.runs = true ∧ dateOk 2031 1 1 0 0 0 = true) ∧
    (Quiet W.loupeSettings0 ∧ W.loupeSettings0.lp.runs = true ∧ -20000 ≤ 9400 ∧ 9400 ≤ 20000) ∧
    (Quiet W.loupeSettings0 ∧ W.loupeSettings0.lp.runs = true ∧ (2361183241434822606847 < -20000 ∨ 20000 < 2361183241434822606847)) ∧
    (Quiet W.loupeSettings0 ∧ W.loupeSettings0.lp.runs = true ∧ 0 ≤ 3 ∧ 0 ≤ 65535) ∧
    (Quiet W.loupeSettings0 ∧ W.loupeSettings0.lp.runs = true ∧ 3 < 2031) ∧
    (Quiet W.loupeSettings0 ∧ W.loupeSettings0.lp.runs = true) ∧
    (Quiet W.loupeSettings0 ∧ W.loupeSettings0.lp.runs = true ∧ [7#32, 7#32, 7#32, 7#32, 7#32, 7#32, 7#32, 7#32].length = 8 ∧ W.loupeSettings0.lp.key
      = none) ∧
    (Quiet W.loupeSettings0 ∧ W.loupeSettings0.lp.runs = true ∧ [7#32, 7#32, 7#32, 7#32, 7#32, 7#32, 7#32, 7#32].length = 8 ∧
      (W.loupeSettings0.lp.key.isSome = true ∨ true = true)) := by
  refine ⟨?_, ?_, ?_, ?_, ?_, ?_, ?_, ?_, ?_⟩ <;> decide +kernel

theorem witness_LoupeSeal :
    (Quiet W.loupeSeal0 ∧ W.loupeSeal0.lp.runs = true ∧ W.loupeSeal0.lp.cal = none ∧ W.loupeSeal0.lp.sealCount ≠ 255 ∧ 0 ≤ 9400 ∧ 9400 ≤ 65535) ∧
    (Quiet W.loupeSeal0 ∧ W.loupeSeal0.lp.runs = true ∧ W.loupeSeal0.lp.cal = none ∧ (W.loupeSeal0.lp.sealCount = 255 ∨ true = true)) ∧
    (Quiet W.loupeSeal2 ∧ W.loupeSeal2.lp.runs = true ∧ W.loupeSeal2.lp.cal ≠ none) ∧
    (Quiet W.loupeSeal0 ∧ W.loupeSeal0.lp.runs = true ∧ W.loupeSeal0.lp.cal = none ∧ -15000 ≤ 9400 ∧ 9400 ≤ 15000 ∧ W.loupeSeal0.lp.sealCount ≠ 255) ∧
    (Quiet W.loupeSeal0 ∧ W.loupeSeal0.lp.runs = true ∧ W.loupeSeal0.lp.cal = none ∧ (2361183241434822606847 < -15000 ∨ 15000 <
      2361183241434822606847)) ∧
    (Quiet W.loupeSeal0 ∧ W.loupeSeal0.lp.runs = true ∧ W.loupeSeal0.lp.cal = none ∧ -15000 ≤ 9400 ∧ 9400 ≤ 15000 ∧ (W.loupeSeal0.lp.sealCount = 255 ∨
      true = true)) ∧
    (Quiet W.loupeSeal3 ∧ W.loupeSeal3.lp.runs = true ∧
      W.loupeSeal3.lp.cal = some { k := 1, level := 9400, n := 479999, eZ := 1000000000000000000 : LpCalSt } ∧ 479999 < 480000) ∧
    (Quiet W.loupeSeal2 ∧ W.loupeSeal2.lp.runs = true ∧
      W.loupeSeal2.lp.cal = some { k := 0, level := 9400, n := 480000, eZ := 1000000000000000000 : LpCalSt } ∧ 480000 ≤ 480000 ∧
      (-15000 ≤ 9400 - ↑(levelOf 1000000000000000000 480000 (if 0 = 0 then W.loupeSeal2.lp.ofs0 else W.loupeSeal2.lp.ofs1)) + if 0 = 0 then W.loupeSeal2.lp.ofs0 else W.loupeSeal2.lp.ofs1) ∧
      ((9400 - ↑(levelOf 1000000000000000000 480000 (if 0 = 0 then W.loupeSeal2.lp.ofs0 else W.loupeSeal2.lp.ofs1)) + if 0 = 0 then W.loupeSeal2.lp.ofs0 else W.loupeSeal2.lp.ofs1) ≤ 15000)) ∧
    (Quiet W.loupeSeal2 ∧ W.loupeSeal2.lp.runs = true ∧
      W.loupeSeal2.lp.cal = some { k := 0, level := 9400, n := 480000, eZ := 1000000000000000000 : LpCalSt } ∧ 480000 ≤ 480000) ∧
    (Quiet W.loupeSeal0 ∧ W.loupeSeal0.lp.runs = true) := by
  refine ⟨?_, ?_, ?_, ?_, ?_, ?_, ?_, ?_, ?_, ?_⟩ <;> decide +kernel

theorem witness_Resets :
    (Quiet W.com) ∧
    (Quiet W.com ∧ 0 ≤ W.com.railReset Rail.core) ∧
    (Quiet W.com ∧ W.com.railReset Rail.core < 721) ∧
    (Quiet W.com ∧ 10 ≤ 600) ∧
    (Quiet W.com ∧ Taken W.com Path.twin A.PWR_RST_CMD 1 ∧ Unlocked W.com Path.twin Pg.PWR) ∧
    (Quiet W.com ∧ Taken W.com Path.internal A.PWR_RST_CMD 1 ∧ ¬Unlocked W.com Path.internal Pg.PWR) := by
  refine ⟨?_, ?_, ?_, ?_, ?_, ?_⟩ <;> decide +kernel

theorem witness_DipsAndFuses :
    (Quiet W.com ∧ W.com.dip Rail.core = none ∧ W.com.railReset Rail.core < 690 ∧ 690 < W.com.railNom Rail.core * 95 / 100) ∧
    (Quiet W.com ∧ W.com.dip Rail.core = none ∧ W.com.railReset Rail.core < 720 ∧ W.com.railNom Rail.core * 95 / 100 ≤ 720) ∧
    (Quiet W.dipsAndFuses2 ∧ W.dipsAndFuses2.dip Rail.core = some { since := 0, min := 690, scrubbed := false, relq := false, quiesced := false : Dip } ∧
      W.dipsAndFuses2.railNom Rail.core * 95 / 100 + 5 ≤ 720 ∧ 690 ≤ 690 ∧ W.dipsAndFuses2.railReset Rail.core < 690) ∧
    (Quiet W.dipsAndFuses2 ∧ W.dipsAndFuses2.dip Rail.core = some { since := 0, min := 690, scrubbed := false, relq := false, quiesced := false : Dip } ∧
      (∀ (q : Rail), q ≠ Rail.core → W.dipsAndFuses2.dip q = none) ∧ 0 + usTicks 2 ≤ W.dipsAndFuses2.clk) ∧
    (Quiet W.dipsAndFuses3 ∧ W.dipsAndFuses3.dip Rail.mem = some { since := 0, min := 740, scrubbed := true, relq := false, quiesced := false : Dip } ∧
      (∀ (q : Rail), q ≠ Rail.mem → W.dipsAndFuses3.dip q = none) ∧ (true = true ∨ W.dipsAndFuses3.clk < 0 + usTicks 2)) ∧
    (Quiet W.dipsAndFuses3 ∧ W.dipsAndFuses3.dip Rail.mem = some { since := 0, min := 740, scrubbed := true, relq := false, quiesced := false : Dip } ∧
      (∀ (q : Rail), q ≠ Rail.mem → W.dipsAndFuses3.dip q = none) ∧ W.dipsAndFuses3.on R.TW_REL_SUPPLY = true ∧ W.dipsAndFuses3.mode.cur = Mode.leader ∧
      0 + usTicks (1000 * W.dipsAndFuses3.rd R.TW_REL_SUP_MS) ≤ W.dipsAndFuses3.clk ∧ W.dipsAndFuses3.twin.relq = false ∧ W.dipsAndFuses3.twin.hb = true ∧
      (W.dipsAndFuses3.twin.peerRole = 3 ∨ W.dipsAndFuses3.twin.peerRole = 4)) ∧
    (Quiet W.dipsAndFuses3 ∧ W.dipsAndFuses3.dip Rail.mem = some { since := 0, min := 740, scrubbed := true, relq := false, quiesced := false : Dip } ∧
      (∀ (q : Rail), q ≠ Rail.mem → W.dipsAndFuses3.dip q = none) ∧ W.dipsAndFuses3.on R.MODE_QRULE_SUPPLY = true ∧
      W.dipsAndFuses3.mode.cur ∈ [Mode.standalone, Mode.leader, Mode.follower, Mode.orphan] ∧
      0 + usTicks (1000 * W.dipsAndFuses3.rd R.MODE_QRULE_SUP_MS) ≤ W.dipsAndFuses3.clk) ∧
    (Quiet W.dipsAndFuses2 ∧ W.dipsAndFuses2.dip Rail.core = some { since := 0, min := 690, scrubbed := false, relq := false, quiesced := false : Dip } ∧
      (∀ (q : Rail), q ≠ Rail.core → W.dipsAndFuses2.dip q = none) ∧ (W.dipsAndFuses2.on R.MODE_QRULE_SUPPLY = false ∨ false = true)) ∧
    (Quiet W.com ∧ Taken W.com Path.internal A.PWR_FUSE 1 ∧ W.com.mode.cur = Mode.commission ∧ W.com.pwr.fuseHash = none ∧ W.com.pwr.fuseBusy = none) ∧
    (Quiet W.run ∧ Taken W.run Path.internal A.PWR_FUSE 1 ∧ (W.run.mode.cur ≠ Mode.commission ∨ W.run.pwr.fuseHash.isSome = true)) ∧
    (Quiet W.dipsAndFuses4 ∧ W.dipsAndFuses4.pwr.fuseBusy = some 3 ∧ (¬(W.dipsAndFuses4.pwr.dipCore.isSome = true ∨ W.dipsAndFuses4.pwr.dipMem.isSome
      = true ∨ W.dipsAndFuses4.pwr.dipEnded ≠ 0 ∧ W.dipsAndFuses4.clk < W.dipsAndFuses4.pwr.dipEnded + usTicks 1000))) ∧
    (Quiet W.dipsAndFuses2 ∧ W.dipsAndFuses2.pwr.fuseBusy = some 0 ∧ (W.dipsAndFuses2.pwr.dipCore.isSome = true ∨ W.dipsAndFuses2.pwr.dipMem.isSome =
      true ∨ W.dipsAndFuses2.pwr.dipEnded ≠ 0 ∧ W.dipsAndFuses2.clk < W.dipsAndFuses2.pwr.dipEnded + usTicks 1000)) ∧
    (Quiet W.dipsAndFuses2 ∧ W.dipsAndFuses2.pwr.fuseBusy = some 0 ∧ (W.dipsAndFuses2.pwr.dipCore.isSome = true ∨ W.dipsAndFuses2.pwr.dipMem.isSome =
      true ∨ W.dipsAndFuses2.pwr.dipEnded ≠ 0 ∧ W.dipsAndFuses2.clk < W.dipsAndFuses2.pwr.dipEnded + usTicks 1000) ∧ 0 + usTicks 100000 <
      W.dipsAndFuses2.clk) := by
  repeat' apply And.intro
  all_goals first | decide +kernel | (intro q; cases q <;> decide +kernel)

theorem witness_Boot :
    (Quiet State.reset ∧ State.reset.mode.cur = Mode.boot ∧ State.reset.pwr.booting = true ∧ State.reset.on R.PWR_BOOT_STAT_WAIT_PUSH = false ∧
      State.reset.pwr.image = none ∧ imageCode State.reset.pwr.fuseHash false W.img = 0) ∧
    (Quiet State.reset ∧ State.reset.mode.cur = Mode.boot ∧ State.reset.pwr.booting = true ∧ State.reset.on R.PWR_BOOT_STAT_WAIT_PUSH = false ∧
      State.reset.pwr.image = none ∧ (∀ (x : Bytes), none = some x → imageCode State.reset.pwr.fuseHash false x ≠ 0) ∧ imageCode
      State.reset.pwr.fuseHash false W.img = 0) ∧
    (Quiet State.reset ∧ State.reset.mode.cur = Mode.boot ∧ State.reset.pwr.booting = true ∧ State.reset.on R.PWR_BOOT_STAT_WAIT_PUSH = false ∧
      State.reset.pwr.image = none ∧ (∀ (x : Bytes), none = some x → imageCode State.reset.pwr.fuseHash false x ≠ 0) ∧ imgNat [] 0 4 ≠ 1264206409) ∧
    (Quiet State.reset ∧ State.reset.mode.cur = Mode.boot ∧ State.reset.pwr.booting = true ∧ State.reset.on R.PWR_BOOT_STAT_WAIT_PUSH = false ∧
      State.reset.pwr.image = none) ∧
    (Quiet W.boot1 ∧ W.boot1.mode.cur = Mode.boot ∧ Taken W.boot1 Path.internal A.PWR_BOOT_CTRL 1 ∧ W.boot1.on R.PWR_BOOT_STAT_WAIT_PUSH = true ∧
      imageCode W.boot1.pwr.fuseHash true (mBytes zeroByte W.boot1.shm 0 (Max.max 640 (Min.min (mNat zeroByte W.boot1.shm 8 4) 8388608))) = 0) ∧
    (Quiet W.boot2 ∧ W.boot2.mode.cur = Mode.boot ∧ Taken W.boot2 Path.internal A.PWR_BOOT_CTRL 1 ∧ W.boot2.on R.PWR_BOOT_STAT_WAIT_PUSH = true ∧
      imageCode W.boot2.pwr.fuseHash true (mBytes zeroByte W.boot2.shm 0 (Max.max 640 (Min.min (mNat zeroByte W.boot2.shm 8 4) 8388608))) = 1 ∧ 1 ≠ 0) ∧
    (Quiet State.reset ∧ State.reset.mode.cur = Mode.boot ∧ Taken State.reset Path.internal A.PWR_BOOT_CTRL 1 ∧ State.reset.on
      R.PWR_BOOT_STAT_WAIT_PUSH = false) ∧
    (Quiet W.boot3 ∧ W.boot3.mode.cur = Mode.boot ∧ W.boot3.pwr.image = some W.img ∧ (∀ (x : Section), x ∈ imgSections W.img → x.type ≠ 3)) := by
  have img1 : mBytes zeroByte W.boot1.shm 0 (Max.max 640 (Min.min (mNat zeroByte W.boot1.shm 8 4) 8388608)) = W.img := by decide +kernel
  have none1 : W.boot1.pwr.fuseHash = none := by decide +kernel
  have none0 : State.reset.pwr.fuseHash = none := by decide +kernel
  rw [img1, none1, none0]
  have ok := img_verifies
  refine ⟨⟨?_, ?_, ?_, ?_, ?_, ok false⟩, ⟨?_, ?_, ?_, ?_, ?_, nofun, ok false⟩, ⟨?_, ?_, ?_, ?_, ?_, nofun, ?_⟩, ?_, ⟨?_, ?_, ?_, ?_, ok true⟩, ?_, ?_, ?_⟩
  all_goals decide +kernel

theorem witness_ModeRequests :
    (Quiet W.com ∧ Unlocked W.com Path.twin Pg.MODE ∧ (hostPath Path.twin.code = false ∨ W.com.mode.cur ≠ Mode.follower ∧ W.com.mode.cur ≠
      Mode.leader) ∧ W.com.mode.cur = Mode.commission ∧ W.com.mode.pend = none ∧ W.com.mode.entering = false ∧ W.com.on R.TW_CFG_EN = false ∧
      W.com.mode.audioReady = true ∧ W.com.audio.apllLost = false) ∧
    (Quiet W.modeRequests4 ∧ Unlocked W.modeRequests4 Path.twin Pg.MODE ∧ (hostPath Path.twin.code = false ∨ W.modeRequests4.mode.cur ≠ Mode.follower
      ∧ W.modeRequests4.mode.cur ≠ Mode.leader) ∧ W.modeRequests4.mode.cur = Mode.commission ∧ W.modeRequests4.mode.pend = none ∧
      W.modeRequests4.mode.entering = false ∧ (W.modeRequests4.on R.TW_CFG_EN = true ∨ ¬(W.modeRequests4.mode.audioReady = true ∧
      W.modeRequests4.audio.apllLost = false))) ∧
    (Quiet W.modeRequests4 ∧ Unlocked W.modeRequests4 Path.twin Pg.MODE ∧ (hostPath Path.twin.code = false ∨ W.modeRequests4.mode.cur ≠ Mode.follower
      ∧ W.modeRequests4.mode.cur ≠ Mode.leader) ∧ W.modeRequests4.mode.cur = Mode.commission ∧ W.modeRequests4.mode.pend = none ∧
      W.modeRequests4.mode.entering = false ∧ W.modeRequests4.on R.TW_CFG_EN = true ∧ W.modeRequests4.twin.refused = false ∧
      W.modeRequests4.mode.audioReady = true ∧ W.modeRequests4.audio.apllLost = false ∧ (¬(W.modeRequests4.twin.peerRole = 2 ∧
      (W.modeRequests4.twin.hb = true ∨ W.modeRequests4.twin.nhb = true)))) ∧
    (Quiet W.modeRequests6 ∧ Unlocked W.modeRequests6 Path.twin Pg.MODE ∧ (hostPath Path.twin.code = false ∨ W.modeRequests6.mode.cur ≠ Mode.follower
      ∧ W.modeRequests6.mode.cur ≠ Mode.leader) ∧ W.modeRequests6.mode.cur = Mode.commission ∧ W.modeRequests6.mode.pend = none ∧
      W.modeRequests6.mode.entering = false ∧ W.modeRequests6.on R.TW_CFG_EN = true ∧ W.modeRequests6.twin.refused = false ∧
      W.modeRequests6.mode.audioReady = true ∧ W.modeRequests6.audio.apllLost = false ∧ (W.modeRequests6.twin.peerRole = 2 ∧ (W.modeRequests6.twin.hb
      = true ∨ W.modeRequests6.twin.nhb = true))) ∧
    (Quiet W.com ∧ Unlocked W.com Path.twin Pg.MODE ∧ (hostPath Path.twin.code = false ∨ W.com.mode.cur ≠ Mode.follower ∧ W.com.mode.cur ≠
      Mode.leader) ∧ W.com.mode.cur = Mode.commission ∧ W.com.mode.pend = none ∧ W.com.mode.entering = false ∧ ¬(W.com.on R.TW_CFG_EN = true ∧
      W.com.twin.refused = false ∧ W.com.mode.audioReady = true ∧ W.com.audio.apllLost = false)) ∧
    (Quiet W.modeRequests6 ∧ Unlocked W.modeRequests6 Path.twin Pg.MODE ∧ (hostPath Path.twin.code = false ∨ W.modeRequests6.mode.cur ≠ Mode.follower
      ∧ W.modeRequests6.mode.cur ≠ Mode.leader) ∧ W.modeRequests6.mode.cur = Mode.commission ∧ W.modeRequests6.mode.pend = none ∧
      W.modeRequests6.mode.entering = false ∧ W.modeRequests6.on R.TW_CFG_EN = true ∧ W.modeRequests6.twin.refused = false ∧
      W.modeRequests6.mode.audioReady = true ∧ W.modeRequests6.audio.apllLost = false ∧ W.modeRequests6.twUp = true ∧ W.modeRequests6.twin.hb = true ∧
      W.modeRequests6.twin.peerRole = 2 ∧ W.modeRequests6.ref.state ≠ RefState.holdover) ∧
    (Quiet W.modeRequests4 ∧ Unlocked W.modeRequests4 Path.twin Pg.MODE ∧ (hostPath Path.twin.code = false ∨ W.modeRequests4.mode.cur ≠ Mode.follower
      ∧ W.modeRequests4.mode.cur ≠ Mode.leader) ∧ W.modeRequests4.mode.cur = Mode.commission ∧ W.modeRequests4.mode.pend = none ∧
      W.modeRequests4.mode.entering = false ∧ W.modeRequests4.on R.TW_CFG_EN = true ∧ W.modeRequests4.twin.refused = false ∧
      W.modeRequests4.mode.audioReady = true ∧ W.modeRequests4.audio.apllLost = false ∧ W.modeRequests4.leaderThere = false) ∧
    (Quiet W.com ∧ Unlocked W.com Path.twin Pg.MODE ∧ (hostPath Path.twin.code = false ∨ W.com.mode.cur ≠ Mode.follower ∧ W.com.mode.cur ≠
      Mode.leader) ∧ W.com.mode.cur = Mode.commission ∧ W.com.mode.pend = none ∧ W.com.mode.entering = false) ∧
    (Quiet W.com ∧ Unlocked W.com Path.twin Pg.MODE ∧ (hostPath Path.twin.code = false ∨ W.com.mode.cur ≠ Mode.follower ∧ W.com.mode.cur ≠
      Mode.leader) ∧ W.com.mode.cur = Mode.commission ∧ W.com.mode.pend = none ∧ W.com.mode.entering = false ∧ (¬(false = true ∧ W.com.on
      R.MODE_WAKE_PIN_EN = true ∨ W.com.lp.alert = true ∧ W.com.on R.LPM_CFG_WAKE_EN = true))) ∧
    (Quiet W.com ∧ Unlocked W.com Path.twin Pg.MODE ∧ (hostPath Path.twin.code = false ∨ W.com.mode.cur ≠ Mode.follower ∧ W.com.mode.cur ≠
      Mode.leader) ∧ W.com.mode.cur = Mode.commission ∧ W.com.mode.pend = none ∧ W.com.mode.entering = false ∧ (true = true ∧ W.com.on
      R.MODE_WAKE_PIN_EN = true ∨ W.com.lp.alert = true ∧ W.com.on R.LPM_CFG_WAKE_EN = true)) ∧
    (Quiet W.run ∧ Unlocked W.run Path.twin Pg.MODE ∧ (hostPath Path.twin.code = false ∨ W.run.mode.cur ≠ Mode.follower ∧ W.run.mode.cur ≠
      Mode.leader) ∧ W.run.mode.cur ∈ [Mode.standalone, Mode.leader, Mode.follower, Mode.orphan] ∧ W.run.mode.pend = none ∧ W.run.mode.entering =
      false) ∧
    (Quiet W.modeRequests12 ∧ Unlocked W.modeRequests12 Path.twin Pg.MODE ∧ (hostPath Path.twin.code = false ∨ W.modeRequests12.mode.cur ≠
      Mode.follower ∧ W.modeRequests12.mode.cur ≠ Mode.leader) ∧ W.modeRequests12.mode.cur = Mode.quiesce ∧ (hostPath Path.twin.code = false ∨
      W.modeRequests12.twUp = false) ∧ W.modeRequests12.mode.pend = none ∧ W.modeRequests12.mode.entering = false ∧ (Mode.ofCode 1 =
      W.modeRequests12.mode.prev ∨ Mode.ofCode 1 = Mode.commission)) ∧
    (Quiet W.modeRequests12 ∧ Unlocked W.modeRequests12 Path.twin Pg.MODE ∧ (hostPath Path.twin.code = false ∨ W.modeRequests12.mode.cur ≠
      Mode.follower ∧ W.modeRequests12.mode.cur ≠ Mode.leader) ∧ W.modeRequests12.mode.cur = Mode.quiesce ∧ (hostPath Path.twin.code = false ∨
      W.modeRequests12.twUp = false) ∧ W.modeRequests12.mode.pend = none ∧ W.modeRequests12.mode.entering = false ∧ Mode.ofCode 0 ≠
      W.modeRequests12.mode.prev ∧ Mode.ofCode 0 ≠ Mode.commission) ∧
    (Quiet W.modeRequests16 ∧ Unlocked W.modeRequests16 Path.twin Pg.MODE ∧ (hostPath Path.twin.code = false ∨ W.modeRequests16.mode.cur ≠
      Mode.follower ∧ W.modeRequests16.mode.cur ≠ Mode.leader) ∧ W.modeRequests16.mode.cur ≠ Mode.quiesce ∧ W.modeRequests16.mode.pend.isSome = true) ∧
    (Quiet W.dark ∧ Unlocked W.dark Path.twin Pg.MODE ∧ (hostPath Path.twin.code = false ∨ W.dark.mode.cur ≠ Mode.follower ∧ W.dark.mode.cur ≠
      Mode.leader) ∧ W.dark.mode.cur = Mode.dark) := by
  refine ⟨?_, ?_, ?_, ?_, ?_, ?_, ?_, ?_, ?_, ?_, ?_, ?_, ?_, ?_, ?_⟩ <;> decide +kernel

theorem witness_ModeChanges :
    (Quiet W.modeChanges2 ∧ W.modeChanges2.mode.pend = some Mode.quiesce ∧ W.modeChanges2.mode.pendAt ≤ W.modeChanges2.block ∧ Mode.quiesce ≠
      Mode.dark ∧ W.modeChanges2.twin.joining = false ∧ W.modeChanges2.atBoundary = false) ∧
    (Quiet W.modeChanges1 ∧ W.modeChanges1.mode.pend = some Mode.quiesce ∧ W.modeChanges1.mode.pendAt ≤ W.modeChanges1.block ∧ Mode.quiesce ≠
      Mode.dark ∧ W.modeChanges1.twin.joining = false ∧ W.modeChanges1.atBoundary = true) ∧
    (Quiet W.modeChanges4 ∧ W.modeChanges4.mode.pend = some Mode.dark ∧ W.modeChanges4.mode.pendAt ≤ W.modeChanges4.block ∧ W.modeChanges4.atBoundary
      = true ∧ W.modeChanges4.mode.cur = Mode.commission) ∧
    (Quiet W.modeChanges5 ∧ W.modeChanges5.mode.pend = none ∧ W.modeChanges5.mode.entering = true ∧ (∀ (x : Fence), x ∈ W.modeChanges5.fab.fences →
      W.modeChanges5.fenceHeld x.dom = true)) ∧
    (Quiet W.modeChanges5 ∧ (W.modeChanges5.mode.cur = Mode.dark ∨ W.modeChanges5.mode.entering = true) ∧ W.modeChanges5.on R.MODE_WAKE_PIN_EN = true) ∧
    (Quiet W.modeChanges9 ∧ (W.modeChanges9.mode.cur = Mode.dark ∨ W.modeChanges9.mode.entering = true) ∧ W.modeChanges9.lp.alert = true ∧
      W.modeChanges9.on R.LPM_CFG_WAKE_EN = true) ∧
    (Quiet W.com ∧ (W.com.on R.MODE_WAKE_PIN_EN = false ∨ W.com.mode.cur ≠ Mode.dark ∧ W.com.mode.entering = false)) ∧
    (Quiet W.com ∧ (W.com.lp.alert = false ∨ W.com.on R.LPM_CFG_WAKE_EN = false)) ∧
    (Quiet W.modeChanges10 ∧ W.modeChanges10.mode.wakeAt = some 5 ∧ W.modeChanges10.mode.cur ≠ Mode.dark ∧ 5 + usTicks 20000 ≤ W.modeChanges10.clk) ∧
    (Quiet W.modeChanges11 ∧ W.modeChanges11.mode.wakeAt = some 5 ∧ W.modeChanges11.mode.cur ≠ Mode.dark ∧ W.modeChanges11.clk < 5 + usTicks 20000) ∧
    (Quiet W.com ∧ Taken W.com Path.internal A.PWR_DOM_CTRL 0#32 ∧ Path.internal ≠ Path.twin ∧ bitN (0#32).toNat 0 = 0) ∧
    (Quiet W.com ∧ Taken W.com Path.internal A.PWR_DOM_CTRL 1#32 ∧ Path.internal ≠ Path.twin ∧ bitN (1#32).toNat 0 = 1 ∧ W.com.mode.cur =
      Mode.commission ∧ W.com.on R.TW_CFG_EN = false) ∧
    (Quiet W.modeChanges1 ∧ Taken W.modeChanges1 Path.internal A.PWR_DOM_CTRL 1#32 ∧ Path.internal ≠ Path.twin ∧ bitN (1#32).toNat 0 = 1 ∧
      (W.modeChanges1.mode.cur ≠ Mode.commission ∨ W.modeChanges1.on R.TW_CFG_EN = true)) := by
  refine ⟨?_, ?_, ?_, ?_, ?_, ?_, ?_, ?_, ?_, ?_, ?_, ?_, ?_⟩ <;> decide +kernel

end
end

section
/-! The QSPI and SPI slave (R39, R40): the words of a transaction as register accesses of path 2, and what its commands leave. -/

namespace Sys2Proof.Machine

/-! A word of a register page on the bus. -/

theorem leNat_toLe (n : Nat) : ∀ v : Nat, leNat (toLe n v) = v % 256 ^ n := by
  induction n with
  | zero => intro v; simp [toLe, leNat, Nat.mod_one]
  | succ n ih =>
    intro v
    have hpow : 256 ^ (n + 1) = 256 * 256 ^ n := by rw [Nat.pow_succ, Nat.mul_comm]
    rw [toLe, leNat, ih, BitVec.toNat_ofNat, hpow]
    exact Nat.mod_mul.symm

theorem length_toLe (n : Nat) : ∀ v : Nat, (toLe n v).length = n := by
  induction n with
  | zero => intro v; rfl
  | succ n ih => intro v; simp [toLe, ih]

theorem lt_of_isPage {page : Nat} (hp : isPage page = true) : page < 0x71 := by
  simp only [isPage, pageTable, List.any_cons, List.any_nil, Bool.or_eq_true, Bool.and_eq_true, decide_eq_true_eq, Bool.or_false] at hp
  omega

/-- Register pages lie above what REMAP moves (R374). -/
@[simp] theorem State.place_pageAddr (s : State) (page off : Nat) : s.place (pageAddr page off) = pageAddr page off :=
  if_neg fun h => by unfold pageAddr at h; omega

theorem targetOf_pageAddr {page off : Nat} (hp : isPage page = true) (ho : off < 0x1000) : targetOf (pageAddr page off) = 32 := by
  have hlt := lt_of_isPage hp
  have hd := pageAddr_div (page := page) ho
  have ha : 0x40000000 ≤ pageAddr page off ∧ pageAddr page off < 0x40100000 := by unfold pageAddr; omega
  unfold targetOf
  rw [hd, hp, if_neg (by omega), if_neg (by omega), if_neg (by omega), if_neg (by omega), if_neg (by omega), if_pos ha, if_pos rfl]

theorem page_of_targetOf {a : Nat} (h : targetOf a = 32) : 0x40000000 ≤ a ∧ isPage ((a - 0x40000000) / 0x1000) = true := by
  by_cases hr : 0x40000000 ≤ a ∧ a < 0x40100000
  · refine ⟨hr.1, ?_⟩
    unfold targetOf at h
    rw [if_neg (by omega), if_neg (by omega), if_neg (by omega), if_neg (by omega), if_neg (by omega), if_pos hr] at h
    split at h
    · assumption
    · omega
  · unfold targetOf at h
    rw [if_neg hr] at h
    repeat' split at h
    all_goals omega

/-- What decodes to the register pages is an offset of one of them. -/
theorem State.pageAddr_of_target {s : State} {a : Nat} (h : s.target a = 32) :
    ∃ page off, isPage page = true ∧ off < 0x1000 ∧ a = pageAddr page off := by
  obtain ⟨hge, hpage⟩ := page_of_targetOf h
  have ha : s.place a = a := by
    unfold State.place at hge ⊢
    split at hge
    · omega
    · rw [if_neg ‹_›]
  rw [ha] at hge hpage
  refine ⟨_, a % 0x1000, hpage, Nat.mod_lt _ (by decide), ?_⟩
  unfold pageAddr
  omega

theorem pageAddr_mod4 {page off : Nat} : pageAddr page off % 4 = off % 4 := by unfold pageAddr; omega

theorem pageAddr_word {page off : Nat} (hp : isPage page = true) (ho : off < 0x1000) : pageAddr page off % 2 ^ 32 = pageAddr page off := by
  have := lt_of_isPage hp
  exact Nat.mod_eq_of_lt (by unfold pageAddr; omega)

/-- Four bytes written to an aligned register are a write of its word. -/
theorem requestAt_word {a : Nat} (ht : targetOf a = 32) (ha : a % 4 = 0) (v : Word) :
    requestAt a ((toLe 4 v.toNat).map some) = some (.reg a v) := by
  have hv : leNat (toLe 4 v.toNat) = v.toNat := by rw [leNat_toLe]; exact Nat.mod_eq_of_lt v.isLt
  have hd : ((toLe 4 v.toNat).map some).map (·.getD 0) = toLe 4 v.toNat := by rw [List.map_map]; exact List.map_id _
  have hall : ((toLe 4 v.toNat).map some).all (·.isSome) = true := by
    rw [List.all_map, List.all_eq_true]; exact fun _ _ => rfl
  have hlen : ((toLe 4 v.toNat).map some).length = 4 := by rw [List.length_map, length_toLe]
  unfold requestAt
  rw [ht, if_neg (by decide), if_pos rfl, if_pos ⟨ha, hlen, hall⟩, hd, hv, BitVec.ofNat_toNat, BitVec.setWidth_eq]

/-- A word that the slave or management writes to a page reaches it whole, where its chip takes it. -/
theorem State.access_word_taken (s : State) (path : Path) (page off : Nat) (v : Word) (hp : isPage page = true) (ho : off < 0x1000)
    (ha : off % 4 = 0) (hq : Quiet s) (h : Taken s path (pageAddr page off) v) :
    s.access (.write (onPath path.code) (pageAddr page off) ((toLe 4 v.toNat).map some) false)
      = s.pageWrite (onPath path.code) page off v := by
  have hr := requestAt_word (targetOf_pageAddr hp ho) (pageAddr_mod4.trans ha) v
  have hw : s.mustWait (.write (onPath path.code) (pageAddr page off) ((toLe 4 v.toNat).map some) false) = false := by
    simp only [State.mustWait, State.place_pageAddr, hr]
    exact s.reg_mustWait path _ v false h
  rw [s.access_now _ hq hw]
  simp only [State.runOp, State.busWrite, State.place_pageAddr, hr, s.hostWrite_taken path _ v h, State.carry, pageAddr_div ho, pageAddr_mod ho,
    Bool.false_eq_true, if_false]

/-! What composes. -/

theorem quiet_of_only {l : List Part} {s t : State} (h : Only l s t) (hf : Part.fab ∉ l) (hq : Quiet s) : Quiet t :=
  (congrArg FabSt.hostWait (h .fab hf)).trans hq

theorem KeysOnly.trans {s t u : State} (h : KeysOnly s t) (k : KeysOnly t u) : KeysOnly s u := by
  unfold KeysOnly at h k ⊢
  rw [k, h]

/-! The event registers of the page header (R48). -/

/-- No page's register table reaches into the header. -/
theorem pageRegs_above_header : ∀ page < 0x71, (pageRegs page).all (fun d => decide (0x040 ≤ d.off)) = true := by decide

theorem findReg_header {page off : Nat} (hp : isPage page = true) (ho : off < 0x040) : findReg page off = none := by
  refine List.find?_eq_none.mpr fun d hd => ?_
  have := List.all_eq_true.mp (pageRegs_above_header page (lt_of_isPage hp)) d hd
  simp only [decide_eq_true_eq] at this
  simp [show ¬ d.off ≤ off by omega]

/-- Of the header CTRL alone is protected (R51). -/
theorem State.needsKey_header (s : State) {page off : Nat} (v : Word) (hp : isPage page = true) (ho : off < 0x040) (hc : off ≠ 0x008) :
    s.needsKey page off v = false := by
  simp only [State.needsKey, findReg_header hp ho, if_neg hc]
  rw [if_neg (by omega), if_neg (by omega)]

/-- A write of an event register is local to its chip (Table 11.4). -/
theorem State.localReg_event (s : State) {page off : Nat} (v : Word) (h : off = 0x014 ∨ off = 0x018 ∨ off = 0x01C) :
    s.localReg (pageAddr page off) v = true := by
  have ho : off < 0x1000 := by omega
  have hm : (off == 0x044) = false := beq_false_of_ne (by omega)
  simp only [State.localReg, pageAddr_div ho, pageAddr_mod ho, hm, if_pos h, Bool.false_and, Bool.not_false]
  split
  · rfl
  · split <;> rfl

/-- A write that stored one register word: of the rest, page keys alone may have changed. -/
structure WordStored (s t : State) (a : Nat) (x : Word) : Prop where
  only : Only [.regs, .host] s t
  keys : KeysOnly s t
  word : t.getW a = x
  rest : RegsOnly [a] s t

theorem State.setW_stored (s : State) (a : Nat) (x : Word) : WordStored s (s.setW a x) a x where
  only := fun p hp => by cases p <;> simp_all [Part.same]
  keys := rfl
  word := s.getW_setW_same a x
  rest := fun b hb => s.getW_setW_ne x (by simpa using hb)

theorem WordStored.setKey {s t : State} {a : Nat} {x : Word} (h : WordStored s t a x) (page : Nat) (k : Option PageKey) :
    WordStored s (t.setKey page k) a x where
  only := h.only.trans fun p hp => by cases p <;> simp_all [Part.same]
  keys := h.keys.trans rfl
  word := by simp [h.word]
  rest := fun b hb => by simp [h.rest b hb]

/-- A page write whose register takes the word `x`, and whose key is in order, stores `x` and no more. -/
theorem State.pageWrite_stored (s : State) (c : WCtx) {page off : Nat} {v x : Word} (ho : off ≠ 0x034) (hk : s.needsKey page off v = false)
    (hw : s.wordWrite c page off v = s.setW (pageAddr page off) x) : WordStored s (s.pageWrite c page off v) (pageAddr page off) x := by
  rw [s.pageWrite_word c page off v ho (.inl hk), hw]
  split
  · exact (s.setW_stored _ x).setKey page none
  · exact s.setW_stored _ x

/-- Two words stored one after the other. -/
theorem WordStored.both {s t u : State} {a b : Nat} {x y : Word} (h : WordStored s t a x) (k : WordStored t u b y) (hab : a ≠ b) :
    Only [.regs, .host] s u ∧ KeysOnly s u ∧ RegsOnly [a, b] s u ∧ u.getW a = x := by
  refine ⟨h.only.trans k.only, h.keys.trans k.keys, fun c hc => ?_, ?_⟩
  · simp only [List.mem_cons, List.not_mem_nil, or_false, not_or] at hc
    rw [k.rest c (by simpa using hc.2), h.rest c (by simpa using hc.1)]
  · rw [k.rest a (by simpa using hab), h.word]

/-! Words that the slave writes (R39). -/

/-- One whole word that the slave has received. -/
def State.slaveWord (s : State) (a : Nat) (w : Word) : State := s.access (.write (onPath 2) a ((toLe 4 w.toNat).map some) false)

theorem State.slaveWrite_page (s : State) {page off : Nat} (hp : isPage page = true) (ho : off < 0x1000) (w : Word) (ws : List Word) :
    s.slaveWrite (pageAddr page off) (w :: ws) = (s.slaveWord (pageAddr page off) w).slaveWrite (pageAddr page (off + 4)) ws := by
  simp only [State.slaveWrite, pageAddr_word hp ho]
  rfl

/-- The slave's write of an event register. -/
theorem State.slaveWord_event (s : State) {page off : Nat} {v x : Word} (hp : isPage page = true) (hq : Quiet s)
    (ho : off = 0x014 ∨ off = 0x018 ∨ off = 0x01C) (hw : s.headerWrite (onPath 2) page off v = s.setW (pageAddr page off) x) :
    WordStored s (s.slaveWord (pageAddr page off) v) (pageAddr page off) x := by
  have hlt : off < 0x040 := by omega
  have ht : s.slaveWord (pageAddr page off) v = s.pageWrite (onPath 2) page off v :=
    s.access_word_taken .spi page off v hp (by omega) (by omega) hq ⟨nofun, .inr (.inl (s.localReg_event v ho))⟩
  rw [ht]
  refine s.pageWrite_stored _ (by omega) (s.needsKey_header v hp hlt (by omega)) ?_
  simp only [State.wordWrite, if_pos hlt]
  exact hw

/-- EVT_EN and EVT_PEND of a page written by one transaction. -/
theorem State.slaveWrite_events (s : State) {page : Nat} (v w : Word) (hp : isPage page = true) (hq : Quiet s) :
    let t := s.slaveWrite (pageAddr page 0x014) [v, w]
    (Only [.regs, .host] s t ∧ KeysOnly s t ∧ RegsOnly [pageAddr page 0x014, evtAddr page] s t ∧
      t.getW (pageAddr page 0x014) = v &&& 0xFFFFFF0F) ∧ t.getW (evtAddr page) = s.getW (evtAddr page) &&& ~~~ w := by
  have hne : pageAddr page 0x014 ≠ evtAddr page := by simp [evtAddr, pageAddr]
  have h1 := s.slaveWord_event (v := v) hp hq (.inl rfl) rfl
  have h2 := (s.slaveWord (pageAddr page 0x014) v).slaveWord_event (v := w) hp (quiet_of_only h1.only (by simp) hq) (.inr (.inl rfl)) rfl
  rw [s.slaveWrite_page hp (by decide), State.slaveWrite_page _ hp (by decide)]
  refine ⟨h1.both h2 hne, h2.word.trans ?_⟩
  rw [h1.rest _ (by simpa [evtAddr] using hne.symm)]
  simp [onPath, evtAddr]

/-! Reads: nothing but the count of free values and, of the host interfaces, captured words change. -/

theorem State.tick1_only (s : State) : Only [.free] s s.tick1 := fun p hp => by cases p <;> simp_all [Part.same]

theorem State.latentWord_only (s : State) (o : Nat) : Only [.free] s (s.latentWord o).2 := by
  unfold State.latentWord
  split
  · exact s.tick1_only
  · exact Only.refl _ s

theorem State.rawRead_only (s : State) (page off : Nat) : Only [.free] s (s.rawRead page off).2 := by
  unfold State.rawRead
  split
  · exact Only.refl _ s
  · split
    · exact Only.refl _ s
    · split
      · exact s.latentWord_only _
      · dsimp only
        split
        · exact s.tick1_only
        · exact Only.refl _ s

theorem State.readWord_state (s : State) (page off : Nat) : (s.readWord page off).2 = (s.rawRead page off).2 := by
  unfold State.readWord
  dsimp only
  split
  · split
    · split <;> rfl
    · rfl
  · rfl

theorem State.readWords_only (page : Nat) : ∀ (n : Nat) (s : State) (off : Nat), Only [.free] s (s.readWords page off n).2
  | 0, s, _ => Only.refl _ s
  | n + 1, s, off => by
    have h := s.rawRead_only page off
    rw [← s.readWord_state] at h
    exact h.trans (State.readWords_only page n _ (off + 4))

theorem State.host_only (s : State) (h : HostSt) : Only [.host] s { s with host := h } := fun p hp => by
  cases p <;> simp_all [Part.same]

theorem State.capture_only (s : State) (who page off : Nat) : Only [.free, .host] s (s.capture who page off) := by
  have h := (State.readWords_only page (captures page off).1 s (off + 4)).mono (m := [.free, .host]) (by simp)
  unfold State.capture
  dsimp only
  split
  · exact Only.refl _ s
  · split
    · exact h.trans ((State.host_only _ _).mono (by simp))
    · exact h.trans ((State.host_only _ _).mono (by simp))

/-- A register read, at once or late, changes no register and no memory. -/
theorem State.regRead_only (s : State) (who page off : Nat) : Only [.free, .host] s (s.regRead who page off).2 := by
  unfold State.regRead
  dsimp only
  split
  · exact (s.host_only _).mono (by simp)
  · split
    · exact Only.refl _ s
    · have h := (s.rawRead_only page off).mono (m := [.free, .host]) (by simp)
      rw [← s.readWord_state] at h
      exact h.trans (State.capture_only _ who page off)

theorem isLo_evtEn (page : Nat) : isLo page 0x014 = false := by
  unfold isLo
  split <;> rfl

/-- EVT_EN reads as it was written. -/
theorem State.regRead_evtEn (s : State) (who page : Nat) (hf : s.frozen page = false) (hh : s.host.hiCap = []) (hw : s.host.wideCap = []) :
    s.regRead who page 0x014 = (s.getW (pageAddr page 0x014), s) := by
  have hr : s.readWord page 0x014 = (s.getW (pageAddr page 0x014), s) := by simp [State.readWord, hf, State.rawRead, State.header]
  have hc : captures page 0x014 = (0, false) := by simp [captures, isLo_evtEn]
  simp [State.regRead, hh, hw, hr, State.capture, hc]

theorem State.readWaits_page (s : State) {page off : Nat} (hp : isPage page = true) (ho : off < 0x1000) :
    s.readWaits (pageAddr page off) = false := by
  simp [State.readWaits, targetOf_pageAddr hp ho]

/-- An aligned word of a page read on the bus. -/
theorem State.busRead_page (s : State) (path : Nat) {page off : Nat} (hp : isPage page = true) (ho : off < 0x1000) (ha : off % 4 = 0) :
    s.busRead path (pageAddr page off) 4 = (some [(s.regRead path page off).1], (s.regRead path page off).2) := by
  simp [State.busRead, targetOf_pageAddr hp ho, pageAddr_mod4, ha, pageAddr_div ho, pageAddr_mod ho]

/-- A word that the slave reads in time. -/
theorem State.slaveRead_inTime (s : State) {page off : Nat} (hp : isPage page = true) (ho : off < 0x1000) (ha : off % 4 = 0) (hq : Quiet s) :
    s.slaveRead (pageAddr page off) [false] = ([(s.regRead 2 page off).1], (s.regRead 2 page off).2) := by
  have hb : s.pathBusy 2 = false := by simp [State.pathBusy, hq]
  simp only [State.slaveRead, pageAddr_word hp ho, hb, s.readWaits_page hp ho, s.busRead_page 2 hp ho ha, Bool.or_false, Bool.false_eq_true,
    if_false, Option.isNone_some, Option.getD_some, List.headD_cons]

/-- A word that comes late is sent as 0, and the read is carried out all the same. -/
theorem State.slaveRead_late (s : State) {page off : Nat} (hp : isPage page = true) (ho : off < 0x1000) (ha : off % 4 = 0) (hq : Quiet s) :
    let r := (s.regRead 2 page off).2
    s.slaveRead (pageAddr page off) [true] = ([0], { r with host := { r.host with spiLate := true } }) := by
  have hn : s.access (.read 2 (pageAddr page off) 4 false) = (s.regRead 2 page off).2 := by
    rw [s.access_now (.read 2 (pageAddr page off) 4 false) hq (s.readWaits_page hp ho)]
    simp only [State.runOp, s.busRead_page 2 hp ho ha, Bool.false_eq_true, if_false]
  simp only [State.slaveRead, pageAddr_word hp ho, hn, Bool.true_or, if_true]

/-! The commands: one and four data lines do the same (R39). -/

theorem completes_slaveWrites {addr : Nat} {words : List Word} {cut : Fin 32} {s : State} {P : State → Prop}
    (hq : Quiet (doSlaveWrite addr words cut.val s)) (h : P (doSlaveWrite addr words cut.val s)) :
    Completes (.writeWords addr words cut) s P ∧ Completes (.quadWriteWords addr words cut) s P :=
  ⟨completes_done rfl hq h, completes_done rfl hq h⟩

theorem completes_slaveReads {addr : Nat} {late : List Bool} {s : State} {P : State → Prop}
    (hq : Quiet (doSlaveRead addr late s)) (h : P (doSlaveRead addr late s)) :
    Completes (.readWords addr late) s P ∧ Completes (.quadReadWords addr late) s P :=
  ⟨completes_done rfl hq h, completes_done rfl hq h⟩

theorem State.emit_only (s : State) (e : Emit) : Only [.outs] s (s.emit e) := fun p hp => by
  cases p <;> simp_all [Part.same, State.emit]

/-- A transaction that opens and answers changes only the host interfaces, and sends only its answer. -/
theorem State.opened_only (s : State) (write : Bool) (next bits : Nat) (e : Emit) :
    Only [.host, .outs] s ((s.openSlave write next bits).emit e) :=
  ((s.host_only _).mono (by simp)).trans ((State.emit_only _ e).mono (by simp))

theorem State.regRead_quiet (s : State) (who page off : Nat) (hq : Quiet s) : Quiet (s.regRead who page off).2 :=
  quiet_of_only (s.regRead_only who page off) (by simp) hq

theorem State.doSlaveRead_inTime (s : State) {page off : Nat} (hp : isPage page = true) (ho : off < 0x1000) (ha : off % 4 = 0) (hq : Quiet s) :
    doSlaveRead (pageAddr page off) [false] s =
      ((s.regRead 2 page off).2.openSlave false (pageAddr page off + 4) 0).emit (.response 2 true [(s.regRead 2 page off).1]) := by
  simp only [doSlaveRead, s.slaveRead_inTime hp ho ha hq]
  rfl

/-- The state after a late word, with the read carried out. -/
theorem State.doSlaveRead_late (s : State) {page off : Nat} (hp : isPage page = true) (ho : off < 0x1000) (ha : off % 4 = 0) (hq : Quiet s) :
    let r := (s.regRead 2 page off).2
    doSlaveRead (pageAddr page off) [true] s =
      ({ r with host := { r.host with spiLate := true } }.openSlave false (pageAddr page off + 4) 0).emit (.response 2 true [0]) := by
  simp only [doSlaveRead, s.slaveRead_late hp ho ha hq]
  rfl

/-- Settles O10: each command is the register accesses of its whole words by path 2, then the transaction opened or ended; the bits of a word cut
short are only counted. -/
theorem slaveTransactions : Obligations.SlaveTransactions := by
  intro s a hq
  refine ⟨fun cut => ?_, fun page v w cut hp => ?_, fun page off hp ho ha => ?_, fun page hp hf hh hw => ?_, fun ht ha => ?_, ?_, ?_⟩
  · exact completes_slaveWrites hq ⟨rfl, s.host_only _⟩
  · obtain ⟨⟨hon, hk, hr, hen⟩, hpd⟩ := s.slaveWrite_events v w hp hq
    have hdo : Only [.regs, .host] s (doSlaveWrite (pageAddr page 0x014) [v, w] cut.val s) := hon.trans ((State.host_only _ _).mono (by simp))
    refine completes_slaveWrites (quiet_of_only hdo (by simp) hq) ⟨hen, hr, hdo, ?_, hpd⟩
    have hnext : (pageAddr page 0x014 + 4 * [v, w].length) % 2 ^ 32 = pageAddr page 0x01C :=
      pageAddr_word (off := 0x01C) hp (by decide)
    unfold KeysOnly at hk
    rw [doSlaveWrite, State.openSlave, hnext, hk]
  · have hd := s.doSlaveRead_inTime hp ho ha hq
    exact completes_slaveReads (hd ▸ s.regRead_quiet 2 page off hq) (hd ▸ ⟨rfl, rfl, State.opened_only _ _ _ _ _⟩)
  · have hd := s.doSlaveRead_inTime hp (off := 0x014) (by decide) (by decide) hq
    rw [s.regRead_evtEn 2 page hf hh hw] at hd
    exact completes_slaveReads (hd ▸ hq) (hd ▸ ⟨rfl, State.opened_only _ _ _ _ _, rfl, rfl⟩)
  · obtain ⟨page, off, hp, ho, rfl⟩ := State.pageAddr_of_target ht
    have hd := s.doSlaveRead_late hp ho (pageAddr_mod4.symm.trans ha) hq
    have hon := s.regRead_only 2 page off
    refine completes_slaveReads (hd ▸ s.regRead_quiet 2 page off hq) (hd ▸ ⟨congrArg _ (hon .outs (by simp)), rfl, rfl, ?_⟩)
    exact (hon.mono (by simp)).trans (((State.host_only _ _).mono (by simp)).trans ((State.opened_only _ _ _ _ _).mono (by simp)))
  · exact completes_done rfl hq ⟨rfl, rfl, ((s.host_only _).mono (by simp)).trans ((State.emit_only _ _).mono (by simp))⟩
  · exact completes_done rfl hq ⟨rfl, s.host_only _⟩

end Sys2Proof.Machine
end

section
/-! A hen's arithmetic (R109, R110, R117, R120): its additions and subtractions with their flags, the accumulator under a guard overflow, the M slot's
writes to its accumulators, and the conversion of an accumulator to a word. -/

namespace Sys2Proof.Machine

/-! Flags. -/

theorem b2n_decide (p : Prop) [Decidable p] : b2n (decide p) = if p then 1 else 0 := by
  simp [b2n]

theorem flagsOf_z_iff (r : Word) (c v : Bool) : (flagsOf r c v).z = true ↔ r = 0 := beq_iff_eq

theorem flagsOf_n_iff (r : Word) (c v : Bool) : (flagsOf r c v).n = true ↔ r.toInt < 0 := by
  simp [flagsOf, BitVec.msb_eq_toInt]

theorem addFlags_carry (a b : Word) : (addFlags a b).1.toNat + 2 ^ 32 * b2n (addFlags a b).2.c = a.toNat + b.toNat := by
  show (a + b).toNat + 2 ^ 32 * b2n (decide (2 ^ 32 ≤ a.toNat + b.toNat)) = _
  rw [BitVec.toNat_add, b2n_decide]
  split <;> omega

theorem addFlags_v_iff (a b : Word) : (addFlags a b).2.v = false ↔ (addFlags a b).1.toInt = a.toInt + b.toInt := by
  simp [addFlags, flagsOf]

theorem subFlags_borrow (a b : Word) : (subFlags a b).1.toNat + b.toNat = a.toNat + 2 ^ 32 * b2n (!(subFlags a b).2.c) := by
  show (a - b).toNat + b.toNat = a.toNat + 2 ^ 32 * b2n (!decide (b.toNat ≤ a.toNat))
  rw [BitVec.toNat_sub, ← decide_not, b2n_decide]
  split <;> omega

theorem subFlags_v_iff (a b : Word) : (subFlags a b).2.v = false ↔ (subFlags a b).1.toInt = a.toInt - b.toInt := by
  simp [subFlags, flagsOf]

theorem satFlags_toInt (x : Int) : (satFlags x).1.toInt = max (-2147483648) (min 2147483647 x) := by
  unfold satFlags
  dsimp only
  split
  · rw [show (0x7FFFFFFF : Word).toInt = 2147483647 from rfl]; omega
  · split
    · rw [show (0x80000000 : Word).toInt = -2147483648 from rfl]; omega
    · rw [BitVec.toInt_ofInt_eq_self (by decide) (by omega) (by omega)]; omega

theorem satFlags_v_iff (x : Int) : (satFlags x).2.v = true ↔ x < -2147483648 ∨ 2147483647 < x := by
  have h : (satFlags x).2.v = true ↔ (satFlags x).1.toInt ≠ x := decide_eq_true_iff
  rw [h, satFlags_toInt]
  omega

/-! Exact results under a guard overflow (R110). -/

/-- An exact result of an accumulator operation that is a guard overflow. -/
def GuardOverflow (x : Int) : Prop := x < -(2 ^ 71) ∨ 2 ^ 71 - 1 < x

theorem toInt_ofInt72 {x : Int} (h : ¬GuardOverflow x) : (BitVec.ofInt 72 x).toInt = x := by
  unfold GuardOverflow at h
  exact BitVec.toInt_ofInt_eq_self (by decide) (by omega) (by omega)

theorem guarded_exact {x : Int} (h : ¬GuardOverflow x) (wrap : Bool) : guarded wrap x = (BitVec.ofInt 72 x, false) := by
  unfold GuardOverflow at h
  rw [guarded, if_neg (by omega), if_neg (by omega)]

theorem guarded_above {x : Int} (h : 2 ^ 71 - 1 < x) : guarded false x = (BitVec.ofInt 72 (2 ^ 71 - 1), true) := if_pos h

theorem guarded_below {x : Int} (h : x < -(2 ^ 71)) : guarded false x = (BitVec.ofInt 72 (-(2 ^ 71)), true) := by
  rw [guarded, if_neg (by omega), if_pos h]
  rfl

theorem guarded_wrap_value (x : Int) : (guarded true x).1 = BitVec.ofInt 72 x := by
  unfold guarded
  split
  · rfl
  · split <;> rfl

theorem guarded_overflow_iff (wrap : Bool) (x : Int) : (guarded wrap x).2 = true ↔ GuardOverflow x := by
  by_cases h : GuardOverflow x
  · refine iff_of_true ?_ h
    unfold GuardOverflow at h
    rw [guarded]
    split
    · rfl
    · rw [if_pos (by omega)]
  · rw [guarded_exact h]
    exact iff_of_false Bool.false_ne_true h

/-- The accumulator that takes an exact result: in SAT72 one with GOV set keeps its value, in WRAP it goes on and GOV stays. -/
def Accum.take (wrap : Bool) (a : Accum) (x : Int) : Accum :=
  if a.gov && !wrap then a else ⟨(guarded wrap x).1, a.gov || (guarded wrap x).2⟩

theorem Accum.plus_eq_take (wrap : Bool) (a : Accum) (x : Int) : a.plus wrap x = a.take wrap (a.v.toInt + x) := rfl

theorem macStep_msu_eq_take (wrap : Bool) (a : Accum) (x : Int) : macStep wrap .msu a x = a.take wrap (a.v.toInt - x) := rfl

theorem shaStep_left_eq_take (wrap : Bool) (a : Accum) (n : Nat) : shaStep wrap a n = a.take wrap (a.v.toInt * 2 ^ n) := by
  unfold shaStep Accum.take
  rw [if_pos (Int.natCast_nonneg n)]
  rfl

theorem shaStep_of_gov {a : Accum} (h : a.gov = true) (sh : Int) : shaStep false a sh = a := by
  simp [shaStep, h]

theorem Accum.take_of_gov {a : Accum} (h : a.gov = true) (x : Int) : a.take false x = a := by
  simp [Accum.take, h]

theorem Accum.take_of_not_gov {a : Accum} (h : a.gov = false) (wrap : Bool) (x : Int) : a.take wrap x = ⟨(guarded wrap x).1, (guarded wrap x).2⟩ := by
  simp [Accum.take, h]

theorem Accum.take_wrap (a : Accum) (x : Int) : a.take true x = ⟨BitVec.ofInt 72 x, a.gov || (guarded true x).2⟩ := by
  simp [Accum.take, guarded_wrap_value]

/-- What R110 asks of an operation `f` of the overflow mode whose exact result on the accumulator `a` is `x`. -/
def Accum.Takes (a : Accum) (x : Int) (f : Bool → Accum) : Prop :=
  (a.gov = false →
    (¬GuardOverflow x → ∀ w, (f w).v.toInt = x ∧ (f w).gov = false) ∧ (2 ^ 71 - 1 < x → (f false).v.toInt = 2 ^ 71 - 1 ∧ (f false).gov = true) ∧
    (x < -(2 ^ 71) → (f false).v.toInt = -(2 ^ 71) ∧ (f false).gov = true)) ∧
  (a.gov = true → f false = a) ∧ (f true).v = BitVec.ofInt 72 x ∧ ((f true).gov = true ↔ a.gov = true ∨ GuardOverflow x)

theorem Accum.takes_of_eq_take {a : Accum} {x : Int} {f : Bool → Accum} (hf : ∀ w, f w = a.take w x) : a.Takes x f := by
  refine ⟨fun hg => ⟨fun h w => ?_, fun h => ?_, fun h => ?_⟩, fun hg => (hf false).trans (Accum.take_of_gov hg x), ?_, ?_⟩
  · rw [hf, Accum.take_of_not_gov hg, guarded_exact h]
    exact ⟨toInt_ofInt72 h, rfl⟩
  · rw [hf, Accum.take_of_not_gov hg, guarded_above h]
    exact ⟨rfl, rfl⟩
  · rw [hf, Accum.take_of_not_gov hg, guarded_below h]
    exact ⟨rfl, rfl⟩
  · rw [hf, Accum.take_wrap]
  · rw [hf, Accum.take_wrap, Bool.or_eq_true, guarded_overflow_iff]

/-! The accumulators that the M slot writes (R109). -/

theorem HenSt.setAcc_accM (h : HenSt) (n : Nat) (a : Accum) (m : Nat) :
    tget acc0 (h.setAcc n a).accM m = if m = n then a else tget acc0 h.accM m := tget_tset acc0 h.accM m n a

theorem HenSt.setAcc_accM_same (h : HenSt) (n : Nat) (a : Accum) : tget acc0 (h.setAcc n a).accM n = a := by
  rw [HenSt.setAcc_accM, if_pos rfl]

/-- A quad operation's writes: each lane's accumulator takes that lane's value. -/
theorem HenSt.setAcc_lanes (h : HenSt) (set : Nat) (f : Nat → Accum) : ∀ n k : Nat, k < n →
    tget acc0 ((List.range n).foldl (fun h k => h.setAcc (2 * k + set) (f k)) h).accM (2 * k + set) = f k := by
  intro n
  induction n with
  | zero => intro k hk; omega
  | succ n ih =>
    intro k hk
    rw [List.range_succ, List.foldl_append, List.foldl_cons, List.foldl_nil, HenSt.setAcc_accM]
    split
    · congr 1; omega
    · exact ih k (by omega)

/-! Products and conversions (R109, R120). -/

theorem toInt_word_bounds (a : Word) : -2147483648 ≤ a.toInt ∧ a.toInt ≤ 2147483647 := by
  have hle := BitVec.le_toInt a
  have hlt := BitVec.toInt_lt (x := a)
  omega

/-- A product shifted by at most 7 stays within 2^69 and is never a guard overflow. -/
theorem product_not_guardOverflow (a b : Word) {sh : Nat} (hsh : sh ≤ 7) : ¬GuardOverflow (product a b sh) := by
  have hword : ∀ w : Word, w.toInt.natAbs ≤ 2 ^ 31 := fun w => by have := toInt_word_bounds w; omega
  have hprod : (product a b sh).natAbs ≤ 2 ^ 31 * 2 ^ 31 * 2 ^ 7 := by
    rw [product, Int.natAbs_mul, Int.natAbs_mul, Int.natAbs_pow]
    exact Nat.mul_le_mul (Nat.mul_le_mul (hword a) (hword b)) (Nat.pow_le_pow_right (by decide) hsh)
  unfold GuardOverflow
  omega

/-- The exact quotient by 2^32 rounded to nearest, ties to even. -/
def roundWord (x : Int) : Int :=
  if 2 ^ 31 < x % 2 ^ 32 ∨ x % 2 ^ 32 = 2 ^ 31 ∧ x / 2 ^ 32 % 2 = 1 then x / 2 ^ 32 + 1 else x / 2 ^ 32

theorem convert_round (a : BitVec 72) :
    convert a false false = BitVec.ofInt 32 (max (-2147483648) (min 2147483647 (roundWord a.toInt))) := by
  simp only [convert, Bool.false_eq_true, if_false, Bool.not_false, Bool.true_and, Bool.or_eq_true, Bool.and_eq_true, decide_eq_true_eq, beq_iff_eq]
  rw [← roundWord]
  congr 1
  split <;> split <;> omega

theorem roundWord_within_half (x : Int) : 2 * (roundWord x * 2 ^ 32 - x) ≤ 2 ^ 32 ∧ -(2 ^ 32) ≤ 2 * (roundWord x * 2 ^ 32 - x) := by
  unfold roundWord
  split <;> omega

theorem roundWord_fits {x : Int} (hlo : -(2 ^ 63) ≤ x) (hhi : x < 2 ^ 63 - 2 ^ 31) : -2147483648 ≤ roundWord x ∧ roundWord x ≤ 2147483647 := by
  unfold roundWord
  split <;> omega

theorem toInt_convert_round {a : BitVec 72} (hlo : -(2 ^ 63) ≤ a.toInt) (hhi : a.toInt < 2 ^ 63 - 2 ^ 31) :
    (convert a false false).toInt = roundWord a.toInt := by
  obtain ⟨hge, hle⟩ := roundWord_fits hlo hhi
  rw [convert_round, Int.min_eq_right hle, Int.max_eq_right hge]
  exact BitVec.toInt_ofInt_eq_self (by decide) (by omega) (by omega)

theorem convert_ends (trunc : Bool) :
    convert (BitVec.ofInt 72 (2 ^ 71 - 1)) trunc false = 0x7FFFFFFF ∧ convert (BitVec.ofInt 72 (-(2 ^ 71))) trunc false = 0x80000000 := by
  cases trunc <;> decide

/-- Settles O23: every accumulating operation is `Accum.take` of its exact result, which the guard overflow mode judges once; a quad operation writes each
lane's accumulator by itself; rounding to nearest keeps within half a unit wherever the rounded value fits a word. -/
theorem henArithmetic : Obligations.HenArithmetic := by
  refine ⟨fun a b => ⟨⟨addFlags_carry a b, addFlags_v_iff a b, flagsOf_z_iff _ _ _, flagsOf_n_iff _ _ _⟩,
      ⟨subFlags_borrow a b, subFlags_v_iff a b⟩, satFlags_toInt _, _, rfl, rfl, satFlags_v_iff _⟩, ?_⟩
  intro outside takes
  refine ⟨fun a x => ⟨Accum.takes_of_eq_take (a.plus_eq_take · x), Accum.takes_of_eq_take (a.plus_eq_take · x),
      Accum.takes_of_eq_take (macStep_msu_eq_take · a x)⟩,
    fun a n => Accum.takes_of_eq_take (shaStep_left_eq_take · a n), fun a n hg => shaStep_of_gov hg _,
    fun r h d e => ⟨HenSt.setAcc_accM_same .., HenSt.setAcc_accM_same ..⟩,
    fun r h op set sh qa b k bc _ hk => HenSt.setAcc_lanes h set _ 4 k hk, convert_ends, fun a b sh hsh v => ?_, fun a hlo hhi => ?_⟩
  · exact toInt_ofInt72 (product_not_guardOverflow a b hsh)
  · rw [toInt_convert_round hlo hhi]
    exact roundWord_within_half a.toInt

end Sys2Proof.Machine
end

section
/-! Gain fields written through the parameter windows (R141): what the clamp makes of a field, what it counts, and a window's write where no word is
known bad. -/

namespace Sys2Proof.Machine

/-! Bytes stored. -/

theorem mPut_replicate_none_append (d : Nat → Byte) (l : List (Option Byte)) :
    ∀ (n : Nat) (m : Mem) (a : Nat), mPut d m a (List.replicate n none ++ l) = mPut d m (a + n) l
  | 0, _, _ => rfl
  | n + 1, m, a => by
    rw [List.replicate_succ, List.cons_append, mPut, mPut_replicate_none_append d l n, Nat.add_right_comm, Nat.add_assoc]

theorem mPut_append_replicate_none (d : Nat → Byte) (n : Nat) :
    ∀ (l : List (Option Byte)) (m : Mem) (a : Nat), mPut d m a (l ++ List.replicate n none) = mPut d m a l
  | [], m, a => by rw [List.nil_append, ← List.append_nil (List.replicate n none), mPut_replicate_none_append]; rfl
  | none :: t, m, a => mPut_append_replicate_none d n t m (a + 1)
  | some v :: t, m, a => mPut_append_replicate_none d n t (tset d m a v) (a + 1)

/-- A write laid out by whole 64-bit words stores the bytes of the write. -/
theorem mPut_alignedData (d : Nat → Byte) (m : Mem) (o : Nat) (l : List (Option Byte)) :
    mPut d m (o / 8 * 8) (alignedData o l) = mPut d m o l := by
  rw [alignedData, mPut_append_replicate_none, mPut_replicate_none_append, Nat.div_add_mod']

/-- The bytes of a write stand behind the rest of its first word. -/
theorem drop_alignedData (o : Nat) (l : List (Option Byte)) : ∃ rest, (alignedData o l).drop (o % 8) = l ++ rest := by
  rw [alignedData, List.append_assoc]
  exact ⟨_, List.drop_left' List.length_replicate⟩

/-- A byte string stored reads back. -/
theorem map_tget_mPut_some (d : Nat → Byte) (m : Mem) (a : Nat) (b : Bytes) :
    (List.range b.length).map (fun i => tget d (mPut d m a (b.map some)) (a + i)) = b := by
  refine List.ext_getElem (by simp) fun i hi hb => ?_
  rw [List.getElem_map, List.getElem_range, tget_mPut_in d _ m a i (by simpa using hb)]
  simp [hb]

/-! The clamp of a field (R141). -/

/-- A value above +24 dB in a gain field. -/
def aboveGain (o : Nat) (x : BitVec 16) : Bool := gainField o && decide (0xD800 < x.toNat)

/-- The bytes that a field holds after a write of a value. -/
def clampedField (o : Nat) (x : BitVec 16) : Bytes := toLe 2 (if aboveGain o x then 0xD800 else x.toNat)

theorem toLe_two (v : Nat) : toLe 2 v = [BitVec.ofNat 8 v, BitVec.ofNat 8 (v / 256)] := rfl

theorem halfAt_field (x : BitVec 16) (t : List (Option Byte)) : halfAt ((toLe 2 x.toNat).map some ++ t) = some x.toNat := by
  have hx := x.isLt
  simp only [toLe_two, List.map_cons, List.cons_append, halfAt, BitVec.toNat_ofNat, Option.some.injEq]
  omega

/-- The first field of a request from an even offset is clamped by itself. -/
theorem clampReq_field {o : Nat} (ho : o % 2 = 0) (x : BitVec 16) (t : List (Option Byte)) :
    clampReq o ((toLe 2 x.toNat).map some ++ t) =
      ((clampedField o x).map some ++ (clampReq (o + 2) t).1, (clampReq (o + 2) t).2 + b2n (aboveGain o x)) := by
  have hh := halfAt_field x t
  simp only [toLe_two, List.map_cons, List.map_nil, List.cons_append, List.nil_append] at hh ⊢
  rw [clampReq, if_neg (by omega), hh]
  have hmax : toLe 2 0xD800 = [0x00, 0xD8] := by decide
  dsimp only
  unfold clampedField aboveGain
  cases gainField o && decide (0xD800 < x.toNat) with
  | false => rfl
  | true => simp [hmax, b2n]

/-- Two neighbouring fields as the bytes of a request. -/
def fieldPair (f g : BitVec 16) : List (Option Byte) := (toLe 2 f.toNat ++ toLe 2 g.toNat).map some

/-- How many of two neighbouring fields the clamp changes. -/
def pairClamps (o : Nat) (f g : BitVec 16) : Nat := b2n (aboveGain o f) + b2n (aboveGain (o + 2) g)

theorem clampReq_fieldPair {o : Nat} (ho : o % 2 = 0) (f g : BitVec 16) :
    clampReq o (fieldPair f g) = ((clampedField o f ++ clampedField (o + 2) g).map some, pairClamps o f g) := by
  have hg : clampReq (o + 2) ((toLe 2 g.toNat).map some) = ((clampedField (o + 2) g).map some, b2n (aboveGain (o + 2) g)) := by
    have h := clampReq_field (o := o + 2) (by omega) g []
    simpa [clampReq] using h
  rw [fieldPair, List.map_append, clampReq_field ho, hg, List.map_append, pairClamps, Nat.add_comm (b2n _)]

theorem wholeFields_fieldPair {o : Nat} (ho : o % 2 = 0) (hr : o + 4 ≤ 0x800000) (f g : BitVec 16) : wholeFields o (fieldPair f g) = true := by
  simp [wholeFields, fieldPair, toLe_two, ho, wholeFields.pairs, hr]

/-! The count of clamps (R141). -/

/-- `n` clamps counted in MIX_CLAMP, with MIX event 8 where there was one. -/
def ClampsCounted (n : Nat) (s t : State) : Prop :=
  t.rd R.MIX_CLAMP_COUNT = min (s.rd R.MIX_CLAMP_COUNT + n) (2 ^ R.MIX_CLAMP_COUNT.w - 1) ∧
  (n ≠ 0 → t.pend Pg.MIX 8 = true) ∧ (n = 0 → t.regs = s.regs)

/-- The count lies in the registers alone. -/
theorem ClampsCounted.of_regs {n : Nat} {s s' t t' : State} (h : ClampsCounted n s t) (hs : s.regs = s'.regs) (ht : t'.regs = t.regs) :
    ClampsCounted n s' t' := by
  simpa only [ClampsCounted, State.rd, State.pend, State.getW, hs, ht] using h

/-- A counter field advanced `n` times, which holds at its greatest value. -/
theorem State.rd_incBy_same (s : State) (f : RField) (n : Nat) (h : f.lo + f.w ≤ 32) :
    (s.incBy f n).rd f = min (s.rd f + n) (2 ^ f.w - 1) := by
  have hpos := Nat.two_pow_pos f.w
  unfold State.incBy
  split
  · rw [s.rd_wr_same f _ h, Nat.mod_eq_of_lt ‹_›]; omega
  · rw [s.rd_wr_same f _ h, Nat.mod_eq_of_lt (by omega)]; omega

theorem State.countClamps_counted (s : State) (n : Nat) : ClampsCounted n s (s.countClamps n) := by
  unfold State.countClamps
  split
  case isTrue hn =>
    have hlt : s.rd R.MIX_CLAMP_COUNT < 2 ^ R.MIX_CLAMP_COUNT.w := Nat.mod_lt _ (Nat.two_pow_pos _)
    exact ⟨by omega, fun h => absurd hn h, fun _ => rfl⟩
  case isFalse hn =>
    refine ⟨?_, fun _ => State.pend_raise _ Pg.MIX 8 (by decide), fun h => absurd h hn⟩
    rw [State.raise, State.rd_wr_ne _ _ _ _ (by decide), s.rd_incBy_same _ n (by decide)]

theorem State.countClamps_only (s : State) (n : Nat) : Only [.regs] s (s.countClamps n) := by
  unfold State.countClamps
  split
  · exact Only.refl _ s
  · exact fun p hp => by cases p <;> simp_all [Part.same]

/-- A register that neither counts nor pends reads as before. -/
theorem State.countClamps_getW_ne (s : State) (n : Nat) {a : Nat} (hc : a ≠ A.MIX_CLAMP) (he : a ≠ evtAddr Pg.MIX) :
    (s.countClamps n).getW a = s.getW a := by
  unfold State.countClamps
  split
  · rfl
  · rw [State.getW_raise_ne _ _ _ he, s.getW_incBy_ne _ n hc]

theorem State.bankTouched_only (s : State) : Only [.dev] s s.bankTouched := by
  have hdev (v : DevSt) : Only [.dev] s { s with dev := v } := fun p hp => by cases p <;> simp_all [Part.same]
  unfold State.bankTouched
  split
  · exact hdev _
  · exact hdev _
  · exact Only.refl _ s

/-! Windows (R38, R66, R166) where no word is known bad. -/

/-- Where no word is known bad and ECC finds nothing, a write keeps its bytes; of the device, corrections still owed may change (R384). -/
theorem State.eccWrite_keeps (m master : Nat) :
    ∀ (n : Nat) (s : State) (a : Nat) (d : List (Option Byte)), s.fab.bad = [] →
      ∃ u, s.eccWrite m master n a d [] = (u, d, true) ∧ Only [.fab] s u ∧ u.fab.hostWait = s.fab.hostWait
  | 0, s, _, _, _ => ⟨s, rfl, Only.refl _ s, rfl⟩
  | n + 1, s, a, d, hb => by
    have hclean : s.eccOf a .clean = .clean := by simp [State.eccOf, hb]
    obtain ⟨u, hu, hon, hw⟩ := State.eccWrite_keeps m master n s (a + 8) (d.drop 8) hb
    simp only [State.eccWrite, List.headD_nil, List.drop_nil, hclean]
    split
    · exact ⟨u, by simp [hu], hon, hw⟩
    · split
      · have hfab (f : FabSt) : Only [.fab] s { s with fab := f } := fun p hp => by cases p <;> simp_all [Part.same]
        obtain ⟨v, hv, hov, hwv⟩ := State.eccWrite_keeps m master n
          { s with fab := { s.fab with bad := s.fab.bad.filter (· != a), ceWait := s.fab.ceWait.filter (· != a) } } (a + 8) (d.drop 8)
          (by simp [hb])
        exact ⟨v, by simp [hv], (hfab _).trans hov, hwv⟩
      · exact ⟨u, by simp [hu], hon, hw⟩

/-- Bytes put into the latent bank. -/
theorem State.bankPut_latent_stores (s : State) (master o : Nat) (d : List (Option Byte)) (hb : s.fab.bad = []) :
    ∃ u, s.bankPut master true o d [] = (u, true) ∧ u.latent = mPut bankD s.latent o d ∧ Only [.latent, .fab] s u ∧
      u.fab.hostWait = s.fab.hostWait := by
  obtain ⟨u, hu, hon, hw⟩ := State.eccWrite_keeps 1 master ((alignedData o d).length / 8) s (0x51000000 + o / 8 * 8) (alignedData o d) hb
  have hlat (m : Mem) : Only [.latent, .fab] u { u with latent := m } := fun p hp => by cases p <;> simp_all [Part.same]
  refine ⟨{ u with latent := mPut bankD u.latent o d }, ?_, ?_, (hon.mono (by simp)).trans (hlat _), hw⟩
  · simp only [State.bankPut, if_true, hu, mPut_alignedData]
  · exact congrArg (mPut bankD · o d) (hon .latent (by simp))

/-- A write of whole fields through the latent window, outside ARMED and REFILLING: what the clamp leaves of it is stored. -/
theorem State.latentWrite_stores (s : State) (path master o : Nat) (d : List (Option Byte)) (hwf : wholeFields o d = true)
    (hl : s.bankLocked = false) (hb : s.fab.bad = []) :
    ∃ u, s.latentWrite (onPath path) master o d = (u, true) ∧ u.latent = mPut bankD s.latent o (clampReq o d).1 ∧
      ClampsCounted (clampReq o d).2 s u ∧ Only [.latent, .dev, .fab, .regs] s u ∧ u.fab.hostWait = s.fab.hostWait := by
  obtain ⟨v, hv, hlat, hon, hw⟩ := s.bankPut_latent_stores master o (clampReq o d).1 hb
  have hc := v.countClamps_only (clampReq o d).2
  have ht := (v.countClamps (clampReq o d).2).bankTouched_only
  have hct : Only [.dev, .regs] v (v.countClamps (clampReq o d).2).bankTouched := (hc.mono (by simp)).trans (ht.mono (by simp))
  refine ⟨(v.countClamps (clampReq o d).2).bankTouched, ?_, (hct .latent (by simp)).trans hlat, ?_, ?_, ?_⟩
  · simp [State.latentWrite, hwf, hl, State.latentPut, onPath, hv]
  · exact (v.countClamps_counted _).of_regs (hon .regs (by simp)) (ht .regs (by simp))
  · exact (hon.mono (by simp)).trans (hct.mono (by simp))
  · exact (congrArg FabSt.hostWait (hct .fab (by simp))).trans hw

/-- The clamped request that a direct-class write leaves for the second boundary from here (R167). -/
def State.clampedReq (s : State) (o : Nat) (d : List (Option Byte)) : DirectReq :=
  ⟨o / 8 * 8, alignedData o (clampReq o d).1, s.block + 2, false⟩

/-- The audio state with one more request waiting. -/
def State.queueDirect (s : State) (q : DirectReq) : AudioSt := { s.audio with direct := s.audio.direct ++ [q] }

/-- A direct-class write accepted without DIRECT_THRU: what the clamp leaves of it waits for its boundary. -/
theorem State.directAccept_queues (s : State) (path master o : Nat) (d : List (Option Byte)) (hb : s.fab.bad = [])
    (hthru : s.on R.MIX_DIRECT_THRU_EN = false) :
    ∃ u, s.directAccept (onPath path) master o d = (u, true) ∧
      u.audio = s.queueDirect (s.clampedReq o d) ∧
      ClampsCounted (clampReq o d).2 s u ∧ Only [.audio, .fab, .regs] s u ∧ u.fab.hostWait = s.fab.hostWait := by
  obtain ⟨v, hv, hon, hw⟩ := State.eccWrite_keeps 1 master ((alignedData o (clampReq o d).1).length / 8) s (0x50000000 + o / 8 * 8)
    (alignedData o (clampReq o d).1) hb
  have hc := v.countClamps_only (clampReq o d).2
  have hvc : Only [.fab, .regs] s (v.countClamps (clampReq o d).2) := (hon.mono (by simp)).trans (hc.mono (by simp))
  have haud (a : AudioSt) : Only [.audio, .fab, .regs] (v.countClamps (clampReq o d).2) { v.countClamps (clampReq o d).2 with audio := a } :=
    fun p hp => by cases p <;> simp_all [Part.same]
  have hblock : (v.countClamps (clampReq o d).2).block = s.block := congrArg (· / 8) (hvc .smp (by simp))
  have hregs : v.regs = s.regs := hon .regs (by simp)
  have hoff : (v.countClamps (clampReq o d).2).on R.MIX_DIRECT_THRU_EN = false := by
    rw [← hthru, State.on, State.rd, v.countClamps_getW_ne _ (by decide) (by decide), State.getW, hregs]
    rfl
  refine ⟨{ v.countClamps (clampReq o d).2 with audio := s.queueDirect (s.clampedReq o d) }, ?_, rfl,
    (v.countClamps_counted _).of_regs hregs rfl, (hvc.mono (by simp)).trans (haud _), (congrArg FabSt.hostWait (hc .fab (by simp))).trans hw⟩
  have hthru' (a : AudioSt) : ({ v.countClamps (clampReq o d).2 with audio := a } : State).on R.MIX_DIRECT_THRU_EN = false := hoff
  have haudio : (v.countClamps (clampReq o d).2).audio = s.audio := hvc .audio (by simp)
  simp [State.directAccept, hv, hthru', hblock, haudio, onPath, State.queueDirect, State.clampedReq]

/-- A direct-class write that no rule of R166 refuses, without DIRECT_THRU; it counts as a write to the MIX page. -/
theorem State.directWrite_queues (s : State) (path : Path) (master o : Nat) (d : List (Option Byte)) (hwf : wholeFields o d = true)
    (hen : s.on R.MIX_DIRECT_EN_EN = true) (hk : Unlocked s path Pg.MIX) (hok : directOk s.active o d = true) (hm : s.mode.cur.directs = true)
    (hthru : s.on R.MIX_DIRECT_THRU_EN = false) (hb : s.fab.bad = []) :
    ∃ u, s.directWrite (onPath path.code) master o d = (u, true) ∧
      u.audio = s.queueDirect (s.clampedReq o d) ∧
      ClampsCounted (clampReq o d).2 s u ∧ Only [.audio, .fab, .regs, .host] s u ∧ u.fab.hostWait = s.fab.hostWait := by
  obtain ⟨v, hv, haud, hc, hon, hw⟩ := s.directAccept_queues path.code master o d hb hthru
  have hkey : (!s.holdsKey Pg.MIX (onPath path.code).path && decide ((onPath path.code).path ≠ 4)) = false := by
    rcases hk with rfl | hk
    · simp [onPath, Path.code]
    · simp [onPath, hk]
  have hmode : (s.modeFor (onPath path.code).path).directs = true := by
    unfold State.modeFor
    split
    · rfl
    · exact hm
  have hset (k : Option PageKey) : Only [.audio, .fab, .regs, .host] v (v.setKey Pg.MIX k) := fun p hp => by
    cases p <;> simp_all [Part.same]
  have hr : s.directWrite (onPath path.code) master o d = (if s.holdsKey Pg.MIX path.code then v.setKey Pg.MIX none else v, true) := by
    simp only [State.directWrite, hwf, hen, hkey, hok, hmode, hv, Bool.not_true, Bool.false_eq_true, if_false]
    rfl
  refine ⟨_, hr, ?_⟩
  split
  · exact ⟨haud, hc.of_regs rfl rfl, (hon.mono (by simp)).trans (hset none), hw⟩
  · exact ⟨haud, hc, hon.mono (by simp), hw⟩

/-! The commands. -/

/-- A request that names no register and no place that could wait, by a path whose writes the chip takes, is carried out and answered. -/
theorem State.access_req_taken (s : State) (path : Path) (w : WriteReq) (hq : Quiet s) (h : TakenAny s path)
    (hreg : s.localReq w = false) (hbar : mgmtBarred path.code w = false) (hwait : s.reqWaits path.code w = false) {u : State} {ok : Bool}
    (hu : s.carry (onPath path.code) 21 w = (u, ok)) :
    s.access (.req (onPath path.code) w true) = u.emit (.response path.code ok []) := by
  have hw : s.mustWait (.req (onPath path.code) w true) = false := by
    rcases h with h | ⟨-, hl, -⟩
    · simp [State.mustWait, State.holds, onPath, h, hwait]
    · simp [State.mustWait, State.holds, onPath, hl, hwait]
  have hr : s.hostWrite (onPath path.code) w = (u, ok) := by
    have hbar' : mgmtBarred (onPath path.code).path w = false := hbar
    rcases h with h | ⟨hf, hl, hqu⟩
    · have h' : hostPath (onPath path.code).path = false := h
      simp [State.hostWrite, hbar', h', hu]
    · simp [State.hostWrite, hbar', hreg, State.refusesWrites, hf, State.carryMirror, hl, hqu, hu]
  rw [s.access_now _ hq hw]
  simp only [State.runOp, hr, if_true]
  rfl

/-- Settles O12: the clamp takes the two fields one after the other, each by its own offset and value, and either window stores what it leaves. -/
theorem gainsClamped : Obligations.GainsClamped := by
  intro s path o f g hq ht hb ho hr
  have hwf := wholeFields_fieldPair ho hr f g
  have hcl := clampReq_fieldPair ho f g
  refine ⟨fun hl => ?_, fun hen hk hok hm hthru => ?_⟩
  · obtain ⟨u, hu, hlat, hc, hon, hw⟩ := s.latentWrite_stores path.code 21 o _ hwf hl hb
    have ha := s.access_req_taken path (.latent o (fieldPair f g)) hq ht rfl rfl rfl hu
    rw [hcl] at hlat hc
    refine completes_done (congrArg (done s) ha) (hw.trans hq) ⟨?_, fun a hout => ?_, hc, congrArg _ (hon .outs (by simp))⟩
    · rw [State.emit_latent, hlat]
      exact map_tget_mPut_some bankD s.latent o (clampedField o f ++ clampedField (o + 2) g)
    · rw [State.emit_latent, hlat]
      exact tget_mPut_out bankD _ _ o a hout
  · obtain ⟨u, hu, haud, hc, hon, hw⟩ := s.directWrite_queues path 21 o _ hwf hen hk hok hm hthru hb
    have ha := s.access_req_taken path (.direct o (fieldPair f g)) hq ht rfl rfl rfl hu
    rw [State.clampedReq, hcl] at haud
    rw [hcl] at hc
    exact completes_done (congrArg (done s) ha) (hw.trans hq)
      ⟨⟨_, congrArg AudioSt.direct haud, drop_alignedData o _⟩, hc, congrArg _ (hon .outs (by simp))⟩

end Sys2Proof.Machine
end
